-- ==== Sys2Proof/Word.lean ====
section
/-! DEFINITION. The plain word types of the GNX-B4 and nothing else. -/
namespace Sys2Proof

/-- A byte of memory, scratchpad or B-store. -/
abbrev Byte := BitVec 8
/-- The 64-bit content of a general register, a system register or `pc` (R190). -/
abbrev Word := BitVec 64
/-- A 32-bit lane of a vector register or an accumulator (R190). -/
abbrev Lane := BitVec 32
/-- A vector register: 64 lanes of 32 bits, lane 0 in the low bits (R190). -/
abbrev VReg := BitVec 2048
/-- One 128-byte cache line, byte 0 in the low bits (R53). -/
abbrev Line := BitVec 1024

end Sys2Proof
end

