-- ==== Sys2Proof/Machine/Map.lean ====
section
/-! DEFINITION. Sparse tables: a list of (key, entry) pairs with strictly rising keys that lists no
entry equal to what an unlisted key reads as, so that equal tables are equal data. Registers,
scratchpad, memory and every table of the machine are kept in this one form. -/
namespace Sys2Proof.Machine

/-- Entries by number. -/
abbrev FMap (α : Type) := List (Nat × α)

/-- The listed entry at `k`. -/
def fget? {α} : FMap α → Nat → Option α
  | [], _ => none
  | (j, a) :: r, k => if k = j then some a else fget? r k

/-- The entry at `k`, an unlisted one reading as `d`. -/
def fget {α} (d : α) (m : FMap α) (k : Nat) : α := (fget? m k).getD d

/-- List `a` at `k`, keeping the keys rising. -/
def fput {α} (k : Nat) (a : α) : FMap α → FMap α
  | [] => [(k, a)]
  | (j, b) :: r => if k < j then (k, a) :: (j, b) :: r else if k = j then (k, a) :: r else (j, b) :: fput k a r

/-- Unlist `k`. -/
def fdel {α} (k : Nat) (m : FMap α) : FMap α := m.filter fun e => e.1 != k

/-- Make `k` read as `a`, where unlisted keys read as `d`. -/
def fset {α} [DecidableEq α] (d : α) (m : FMap α) (k : Nat) (a : α) : FMap α :=
  if a = d then fdel k m else fput k a m

/-- Change the entry at `k`. -/
def fmod {α} [DecidableEq α] (d : α) (m : FMap α) (k : Nat) (f : α → α) : FMap α := fset d m k (f (fget d m k))

/-- Keys strictly rise, and all lie above `lo`. -/
def risingFrom {α} : Nat → FMap α → Bool
  | _, [] => true
  | lo, (k, _) :: r => lo ≤ k && risingFrom (k + 1) r

/-- The canonical form of a table whose unlisted entries read as `d`. -/
def fwf {α} [DecidableEq α] (d : α) (m : FMap α) : Bool := risingFrom 0 m && m.all fun e => e.2 != d

/-- Unlist every key that `p` names. -/
def fclear {α} (m : FMap α) (p : Nat → Bool) : FMap α := m.filter fun e => !p e.1

/-- The entries at `k`, …, `k + n - 1`. -/
def fslice {α} (k n : Nat) (m : FMap α) : FMap α := m.filter fun e => k ≤ e.1 && decide (e.1 < k + n)

/-- Entries for `k`, `k + 1`, … -/
def fnumber {α} (k : Nat) : List α → FMap α
  | [] => []
  | a :: r => (k, a) :: fnumber (k + 1) r

/-- Replace the entries at `k`, …, `k + n - 1` by those of `r`, which lie there. -/
def fsplice {α} (k n : Nat) (r m : FMap α) : FMap α :=
  (m.filter fun e => decide (e.1 < k)) ++ r ++ m.filter fun e => decide (k + n ≤ e.1)

-- ## Lists

/-- The numbers `a`, `a + 1`, … (`n` of them). -/
def range (a : Nat) : Nat → List Nat
  | 0 => []
  | n + 1 => a :: range (a + 1) n

/-- The `n`-th entry, if there is one. -/
def nth? {α} : List α → Nat → Option α
  | [], _ => none
  | a :: _, 0 => some a
  | _ :: r, n + 1 => nth? r n

/-- The list without its `n`-th entry. -/
def dropNth {α} : List α → Nat → List α
  | [], _ => []
  | _ :: r, 0 => r
  | a :: r, n + 1 => a :: dropNth r n

/-- The list with its first entry that satisfies `p` changed by `f`. -/
def modFirst {α} (p : α → Bool) (f : α → α) : List α → List α
  | [] => []
  | a :: r => if p a then f a :: r else a :: modFirst p f r

/-- The set with `a` in it. -/
def addTo (l : List Nat) (a : Nat) : List Nat := if l.contains a then l else l ++ [a]
/-- The set without `a`. -/
def remove (l : List Nat) (a : Nat) : List Nat := l.filter (· != a)

/-- Insert by rising `key`, after equals. -/
def insertBy {α} (key : α → Nat) (a : α) : List α → List α
  | [] => [a]
  | b :: r => if key a < key b then a :: b :: r else b :: insertBy key a r
/-- Sort by rising `key`, equals in their order. -/
def sortBy {α} (key : α → Nat) (l : List α) : List α := l.foldl (fun acc a => insertBy key a acc) []

/-- The least number of a list. -/
def least : List Nat → Option Nat
  | [] => none
  | a :: r => match least r with
    | none => some a
    | some b => some (min a b)

-- ## Bits

/-- Bits [hi:lo] of a word. -/
def bits (w : Nat) (hi lo : Nat) : Nat := w / 2 ^ lo % 2 ^ (hi + 1 - lo)
/-- One bit. -/
def bit (w : Nat) (i : Nat) : Bool := w / 2 ^ i % 2 == 1
/-- The word with bits [hi:lo] replaced. -/
def setBits (w : Nat) (hi lo v : Nat) : Nat :=
  w % 2 ^ lo + 2 ^ lo * (v % 2 ^ (hi + 1 - lo)) + 2 ^ (hi + 1) * (w / 2 ^ (hi + 1))
/-- A number read as two's complement of `n` bits. -/
def signedN (n w : Nat) : Int := if w % 2 ^ n < 2 ^ (n - 1) then (w % 2 ^ n : Int) else (w % 2 ^ n : Int) - (2 ^ n : Int)
/-- A truth value as a bit. -/
def b2n (b : Bool) : Nat := if b then 1 else 0

/-- The low `n` bytes of a number, low byte first. -/
def bytesOf : Nat → Nat → List Byte
  | 0, _ => []
  | n + 1, w => BitVec.ofNat 8 w :: bytesOf n (w / 256)
/-- The number whose bytes stand low byte first. -/
def numOf : List Byte → Nat
  | [] => 0
  | b :: r => b.toNat + 256 * numOf r

end Sys2Proof.Machine
end

