-- ==== Sys2Proof/Machine/Float.lean ====
section
/-! DEFINITION. Numbers: exact values, formats, rounding, and the functions of chapter 8 (R207 to R229).
An encoded value is its bits as a number. -/
namespace Sys2Proof.Machine

-- ## Exact values

/-- NaN, an infinity, or (-1)^neg × mant × 2^exp. -/
inductive Val where
  | nan
  | inf (neg : Bool)
  | num (neg : Bool) (mant : Nat) (exp : Int)
  deriving DecidableEq, Repr

def zeroV : Val := .num false 0 0
def Val.isNan : Val → Bool
  | .nan => true
  | _ => false
def Val.isZero : Val → Bool
  | .num _ 0 _ => true
  | _ => false
def Val.neg : Val → Val
  | .nan => .nan
  | .inf s => .inf (!s)
  | .num s m e => .num (!s) m e
def Val.sign : Val → Bool
  | .nan => false
  | .inf s => s
  | .num s _ _ => s
/-- Exact product (R208: infinity times zero is NaN). -/
def Val.mul (a b : Val) : Val :=
  match a, b with
  | .nan, _ => .nan
  | _, .nan => .nan
  | .inf s, .inf t => .inf (s != t)
  | .inf s, .num t m _ => if m = 0 then .nan else .inf (s != t)
  | .num s m _, .inf t => if m = 0 then .nan else .inf (s != t)
  | .num s m e, .num t n f => .num (s != t) (m * n) (e + f)
/-- The signed integer that a value is at quantum 2^q, exact when q is at most its exponent. -/
def scaled (neg : Bool) (m : Nat) (e q : Int) : Int :=
  let k : Int := (m * 2 ^ (e - q).toNat : Nat)
  if neg then -k else k
def ofInt (k : Int) (q : Int) (zeroNeg : Bool) : Val := .num (if k = 0 then zeroNeg else k < 0) k.natAbs q
/-- Exact sum; `down` is rounding toward −∞, where an exact zero of unlike signs is −0. -/
def Val.add (down : Bool) (a b : Val) : Val :=
  match a, b with
  | .nan, _ => .nan
  | _, .nan => .nan
  | .inf s, .inf t => if s = t then .inf s else .nan
  | .inf s, .num _ _ _ => .inf s
  | .num _ _ _, .inf t => .inf t
  | .num s m e, .num t n f =>
    if m = 0 && n = 0 then .num (if s = t then s else down) 0 0
    else if m = 0 then .num t n f
    else if n = 0 then .num s m e
    else
      let q := min e f
      ofInt (scaled s m e q + scaled t n f q) q down
/-- Order of two values that are not NaN: −1, 0 or 1, with −0 = +0. -/
def Val.cmp (a b : Val) : Int :=
  match a, b with
  | .inf s, .inf t => if s = t then 0 else if s then -1 else 1
  | .inf s, _ => if s then -1 else 1
  | _, .inf t => if t then 1 else -1
  | .num s m e, .num t n f =>
    let q := min e f
    let x := scaled s m e q
    let y := scaled t n f q
    if x < y then -1 else if x = y then 0 else 1
  | _, _ => 0
def Val.lt (a b : Val) : Bool := !a.isNan && !b.isNan && a.cmp b == -1
def Val.le (a b : Val) : Bool := !a.isNan && !b.isNan && a.cmp b != 1
/-- Least and greatest with −0 below +0. -/
def Val.below (a b : Val) : Bool := a.cmp b == -1 || (a.cmp b == 0 && a.sign && !b.sign)

-- ## Formats (R207)

/-- What a format has beyond finite values. -/
inductive Specials where
  | ieee
  | nanOnly
  | none
  deriving DecidableEq, Repr
/-- A floating format: width, mantissa bits, bias. -/
structure Fmt where
  w : Nat
  mb : Nat
  bias : Nat
  sp : Specials
  deriving DecidableEq, Repr

def fp64 : Fmt := ⟨64, 52, 1023, .ieee⟩
def fp32 : Fmt := ⟨32, 23, 127, .ieee⟩
def fp16 : Fmt := ⟨16, 10, 15, .ieee⟩
def bf16 : Fmt := ⟨16, 7, 127, .ieee⟩
def e5m2 : Fmt := ⟨8, 2, 15, .ieee⟩
def e4m3 : Fmt := ⟨8, 3, 7, .nanOnly⟩
def e3m2 : Fmt := ⟨6, 2, 3, .none⟩
def e2m3 : Fmt := ⟨6, 3, 1, .none⟩
def e2m1 : Fmt := ⟨4, 1, 1, .none⟩

/-- Exponent bits. -/
def Fmt.eb (f : Fmt) : Nat := f.w - 1 - f.mb
/-- Encoding of the largest finite magnitude. -/
def Fmt.top (f : Fmt) : Nat :=
  match f.sp with
  | .ieee => (2 ^ f.eb - 1) * 2 ^ f.mb - 1
  | .nanOnly => 2 ^ (f.w - 1) - 2
  | .none => 2 ^ (f.w - 1) - 1
/-- The canonical NaN (R208); FP6 and FP4 give +0 (R211). -/
def Fmt.nan (f : Fmt) : Nat :=
  match f.sp with
  | .ieee => (2 ^ f.eb - 1) * 2 ^ f.mb + 2 ^ (f.mb - 1)
  | .nanOnly => 2 ^ (f.w - 1) - 1
  | .none => 0
def Fmt.signBit (f : Fmt) (neg : Bool) : Nat := if neg then 2 ^ (f.w - 1) else 0
/-- Decode. -/
def Fmt.dec (f : Fmt) (b : Nat) : Val :=
  let s := bit b (f.w - 1)
  let mag := b % 2 ^ (f.w - 1)
  let e := mag / 2 ^ f.mb
  let m := mag % 2 ^ f.mb
  if f.sp = .ieee && e = 2 ^ f.eb - 1 then (if m = 0 then .inf s else .nan)
  else if f.sp = .nanOnly && mag = 2 ^ (f.w - 1) - 1 then .nan
  else if e = 0 then .num s m (1 - f.bias - f.mb : Int)
  else .num s (m + 2 ^ f.mb) (e - f.bias - f.mb : Int)

-- ## Rounding (R210, R211)

/-- Whether a discarded remainder `rem` of 2^sh rounds the magnitude `k` up; `rm` is RM of R185. -/
def roundsUp (rm : Nat) (neg : Bool) (k rem sh : Nat) : Bool :=
  if rm = 0 then 2 * rem > 2 ^ sh || (2 * rem = 2 ^ sh && k % 2 = 1)
  else if rm = 2 then rem ≠ 0 && !neg
  else if rm = 3 then rem ≠ 0 && neg
  else if rm = 4 then 2 * rem ≥ 2 ^ sh
  else false
/-- The quantum exponent at which a magnitude rounds. -/
def Fmt.quantum (f : Fmt) (m : Nat) (e : Int) : Int := max ((m.log2 : Int) + e) (1 - f.bias) - f.mb
/-- Truncated magnitude at the quantum, with the remainder and its width. -/
def truncTo (m : Nat) (e q : Int) : Nat × Nat × Nat :=
  if e ≥ q then (m * 2 ^ (e - q).toNat, 0, 0) else (m / 2 ^ (q - e).toNat, m % 2 ^ (q - e).toNat, (q - e).toNat)
/-- Encoding of magnitude k × 2^q. -/
def Fmt.enc (f : Fmt) (k : Nat) (q : Int) : Nat := (q + f.mb + f.bias - 1).toNat * 2 ^ f.mb + k
/-- A rounded magnitude above the largest finite (R211). -/
def Fmt.overflow (f : Fmt) (rm : Nat) (sat neg : Bool) : Nat :=
  if sat then f.signBit neg + f.top
  else match f.sp with
    | .ieee => f.signBit neg + (if rm = 1 || (rm = 2 && neg) || (rm = 3 && !neg) then f.top else f.top + 1)
    | .nanOnly => f.nan
    | .none => f.signBit neg + f.top
/-- Convert an exact value to a format. -/
def Fmt.round (f : Fmt) (rm : Nat) (sat : Bool) (v : Val) : Nat :=
  match v with
  | .nan => f.nan
  | .inf s => if sat then f.signBit s + f.top else match f.sp with
    | .ieee => f.signBit s + f.top + 1
    | .nanOnly => f.nan
    | .none => f.signBit s + f.top
  | .num s m e =>
    if m = 0 then f.signBit s
    else
      let q := f.quantum m e
      let (k, rem, sh) := truncTo m e q
      let k := if roundsUp rm s k rem sh then k + 1 else k
      if f.enc k q > f.top then f.overflow rm sat s else f.signBit s + f.enc k q
/-- Stochastic rounding with the stream value `nd` (R213). -/
def Fmt.roundSr (f : Fmt) (nd : Nat) (sat : Bool) (v : Val) : Nat :=
  match v with
  | .num s m e =>
    if m = 0 then f.signBit s
    else
      let q := f.quantum m e
      let (k, rem, sh) := truncTo m e q
      if f.enc k q > f.top then f.overflow 0 sat s
      else if rem = 0 then f.signBit s + f.enc k q
      else if nd < rem * 2 ^ 32 / 2 ^ sh then
        (if f.enc (k + 1) q > f.top then f.overflow 0 sat s else f.signBit s + f.enc (k + 1) q)
      else f.signBit s + f.enc k q
  | v => f.round 0 sat v
/-- The stream of R214. -/
def nextRandom (st : Nat) : Nat :=
  let a := st ^^^ (st * 2 ^ 13 % 2 ^ 32)
  let b := a ^^^ (a / 2 ^ 17)
  b ^^^ (b * 2 ^ 5 % 2 ^ 32)

-- ## Integers (R212)

/-- An exact value rounded to an integer; none for NaN and infinities. -/
def Val.toIntRound (rm : Nat) : Val → Option Int
  | .num s m e =>
    let (k, rem, sh) := truncTo m e 0
    let k := if roundsUp rm s k rem sh then k + 1 else k
    some (if s then -(k : Int) else k)
  | _ => none
def clampInt (lo hi x : Int) : Int := if x < lo then lo else if hi < x then hi else x
/-- Conversion to an integer range. -/
def Val.toRange (rm : Nat) (lo hi : Int) (v : Val) : Int :=
  match v with
  | .nan => 0
  | .inf s => if s then lo else hi
  | v => clampInt lo hi ((v.toIntRound rm).getD 0)
def intVal (k : Int) : Val := .num (k < 0) k.natAbs 0

-- ## Division and square root, with enough bits and a sticky bit

def Val.div (a b : Val) : Val :=
  match a, b with
  | .nan, _ => .nan
  | _, .nan => .nan
  | .inf _, .inf _ => .nan
  | .inf s, .num t _ _ => .inf (s != t)
  | .num s _ _, .inf t => .num (s != t) 0 0
  | .num s m e, .num t n f =>
    if n = 0 then (if m = 0 then .nan else .inf (s != t))
    else
      let k := 2 * n.log2 + 130
      let x := m * 2 ^ k
      .num (s != t) (2 * (x / n) + b2n (x % n ≠ 0)) (e - f - k - 1)
/-- The largest r with r² ≤ n, from bit `i` down. -/
def sqrtBits (n : Nat) : Nat → Nat → Nat
  | 0, r => r
  | i + 1, r => if (r + 2 ^ i) * (r + 2 ^ i) ≤ n then sqrtBits n i (r + 2 ^ i) else sqrtBits n i r
def Val.sqrt : Val → Val
  | .nan => .nan
  | .inf s => if s then .nan else .inf false
  | .num s m e =>
    if m = 0 then .num s 0 0
    else if s then .nan
    else
      let k : Nat := if e % 2 = 0 then 128 else 129
      let x := m * 2 ^ k
      let r := sqrtBits x (x.log2 / 2 + 1) 0
      .num false (2 * r + b2n (r * r ≠ x)) ((e - k) / 2 - 1)
/-- Rounded to an integral value (FRND). -/
def Val.integral (rm : Nat) : Val → Val
  | .num s m e => match Val.toIntRound rm (.num s m e) with
    | some k => .num s k.natAbs 0
    | none => .num s m e
  | v => v

-- ## FP32 operations (R222)

def dec32 (a : Nat) : Val := fp32.dec a
def rnd32 (v : Val) : Nat := fp32.round 0 false v
def add32f (a b : Nat) : Nat := rnd32 ((dec32 a).add false (dec32 b))
def mul32 (a b : Nat) : Nat := rnd32 ((dec32 a).mul (dec32 b))
def fma32 (a b c : Nat) : Nat := rnd32 (((dec32 a).mul (dec32 b)).add false (dec32 c))
def neg32 (a : Nat) : Nat := a ^^^ 2 ^ 31
def one32 : Nat := 0x3F800000
def inf32 (neg : Bool) : Nat := if neg then 0xFF800000 else 0x7F800000
def nan32 : Nat := 0x7FC00000
/-- rne_fp32(y × 2^n). -/
def scale2 (y : Nat) (n : Int) : Nat :=
  match dec32 y with
  | .num s m e => rnd32 (.num s m (e + n))
  | v => rnd32 v
/-- Exponent and mantissa in [1, 2) of a finite non-zero magnitude, the mantissa as FP32. -/
def split32 (a : Nat) : Int × Nat :=
  match dec32 a with
  | .num _ m e => ((m.log2 : Int) + e, rnd32 (.num false m (-(m.log2 : Int))))
  | _ => (0, 0)
/-- Horner's rule: p := fma32(p, f, c) for each c. -/
def horner (f : Nat) (cs : List Nat) (p : Nat) : Nat := cs.foldl (fun p c => fma32 p f c) p
/-- FP32 of a small integer. -/
def int32f (k : Int) : Nat := rnd32 (intVal k)

/-- R223. -/
def exp2f (x : Nat) : Nat :=
  let v := dec32 x
  if v.isNan then nan32
  else if !v.lt (intVal 128) then inf32 false
  else if v.lt (intVal (-150)) then 0
  else
    let n := (v.toIntRound 0).getD 0
    let f := rnd32 (v.add false (intVal (-n)))
    -- E5, E4, E3, E2, E1, 1.0 after E6
    scale2 (horner f [0x3AAEC3FF, 0x3C1D955B, 0x3D635847, 0x3E75FDF0, 0x3F317218, one32] 0x39218489) n
/-- R224. -/
def rcpf (x : Nat) : Nat :=
  match dec32 x with
  | .nan => nan32
  | .inf s => if s then 2 ^ 31 else 0
  | .num s m _ =>
    if m = 0 then inf32 s
    else
      let (e, mm) := split32 x
      let iter (y : Nat) : Nat := fma32 y (fma32 (neg32 mm) y one32) y
      let r := scale2 (iter (iter (iter (0x7EF311C3 - mm)))) (-e)
      if s then neg32 r else r
/-- R225. -/
def rsqrtf (x : Nat) : Nat :=
  match dec32 x with
  | .nan => nan32
  | .inf s => if s then nan32 else 0
  | .num s m _ =>
    if m = 0 then inf32 s
    else if s then nan32
    else
      let (e, mm) := split32 x
      let odd := e % 2 ≠ 0
      let m4 := if odd then scale2 mm 1 else mm
      let e := if odd then e - 1 else e
      let hm := scale2 m4 (-1)
      let iter (y : Nat) : Nat := mul32 y (fma32 (neg32 hm) (mul32 y y) 0x3FC00000)
      scale2 (iter (iter (iter (0x5F3759DF - m4 / 2)))) (-(e / 2))
/-- R226. -/
def log2f (x : Nat) : Nat :=
  match dec32 x with
  | .nan => nan32
  | .inf s => if s then nan32 else inf32 false
  | .num s m _ =>
    if m = 0 then inf32 true
    else if s then nan32
    else
      let (e, mm) := split32 x
      let big := (dec32 0x3FB504F3).lt (dec32 mm)
      let mm' := if big then scale2 mm (-1) else mm
      let e := if big then e + 1 else e
      let a := add32f mm' (neg32 one32)
      let t := mul32 a (rcpf (add32f mm' one32))
      let sq := mul32 t t
      -- L9, then L7, L5, L3, L1
      fma32 t (horner sq [0x3ED30BB1, 0x3F13BB63, 0x3F76384F, 0x4038AA3B] 0x3EA4258A) (int32f e)
/-- |v| with the sign of x. -/
def copySign32 (v x : Nat) : Nat := v % 2 ^ 31 + x / 2 ^ 31 * 2 ^ 31
/-- R227. -/
def tanhf (x : Nat) : Nat :=
  let v := dec32 x
  if v.isNan then nan32
  else
    let a := x % 2 ^ 31
    let va := dec32 a
    if !va.lt (intVal 9) then copySign32 one32 x
    else if va.lt (.num false 1 (-12)) then x
    else if va.lt (.num false 1 (-2)) then
      let sq := mul32 a a
      -- T11, then T9, T7, T5, T3
      let q := horner sq [0x3CB327A4, 0xBD5D0DD1, 0x3E088889, 0xBEAAAAAB] 0xBC11371B
      copySign32 (fma32 a (mul32 sq q) a) x
    else
      let z := exp2f (mul32 a 0xC038AA3B)
      copySign32 (mul32 (add32f one32 (neg32 z)) (rcpf (add32f one32 z))) x
/-- Activations of R228: 0 identity, 1 ReLU, 2 SiLU, 3 GELU-tanh. -/
def activation (act x : Nat) : Nat :=
  let v := dec32 x
  if act = 0 then x
  else if v.isNan then nan32
  else if act = 1 then (if (intVal 0).lt v then x else 0)
  else if x = inf32 false then x
  else if x = inf32 true then 2 ^ 31
  else if act = 2 then mul32 x (rcpf (add32f one32 (exp2f (mul32 x 0xBFB8AA3B))))
  else
    let u := mul32 x (fma32 0x3D372713 (mul32 x x) one32)
    mul32 (mul32 0x3F000000 x) (add32f (tanhf (mul32 u 0x3F4C422A)) one32)

/-- FP32 minimum and maximum in which −0 is below +0; `any` makes any NaN give NaN, otherwise one NaN
yields the other operand. -/
def minMax (f : Fmt) (max any : Bool) (a b : Nat) : Nat :=
  let va := f.dec a
  let vb := f.dec b
  if va.isNan && vb.isNan then f.nan
  else if va.isNan then (if any then f.nan else b)
  else if vb.isNan then (if any then f.nan else a)
  else if max then (if va.below vb then b else a) else (if vb.below va then b else a)

-- ## Exact sums (R219)

/-- The exact sum of terms with R219's zero: −0 only when every term is −0, `none` for no terms. -/
def sumTerms (l : List Val) : Val :=
  match l with
  | [] => .num false 0 0
  | a :: r => r.foldl (fun x t => x.add false t) a
/-- acc := rne_fp32(acc + ex), with R219's rule for an exact zero. -/
def accumulate (acc : Nat) (terms : List Val) : Nat :=
  let allNegZero := !terms.isEmpty && terms.all fun t => t.isZero && t.sign
  match (dec32 acc).add false (sumTerms terms) with
  | .num _ 0 _ => if acc = 2 ^ 31 && allNegZero then 2 ^ 31 else 0
  | v => rnd32 v

-- ## Triples (R229)

/-- A softmax triple. -/
structure Triple where
  m : Nat
  l : Nat
  o : List Nat
  deriving DecidableEq, Repr
def mergeTriple (a b : Triple) : Triple :=
  if b.m = inf32 true then a
  else if a.m = inf32 true then b
  else
    let m := minMax fp32 true true a.m b.m
    let fa := exp2f (add32f a.m (neg32 m))
    let fb := exp2f (add32f b.m (neg32 m))
    ⟨m, fma32 a.l fa (mul32 b.l fb), (a.o.zip b.o).map fun e => fma32 e.1 fa (mul32 e.2 fb)⟩

end Sys2Proof.Machine
end

