-- ==== Sys2Proof/Config.lean ====
section
/-! DEFINITION. What the spec leaves open and the machine goes on with: the free values, of which
nothing is known, and the few constants of one package. -/
namespace Sys2Proof.Config

/-- Free values: the value that is read at position `i` of the `n`-th undefined thing (log 2). Opaque,
so that a statement about it holds whatever it is. -/
opaque freeWord (n i : Nat) : Word

/-- The Ethernet, UALink and PCIe sides are no part of the model: whether package `p` of the pod
exists is an assumption of one package (log 20). -/
opaque podHas (p : Nat) : Bool

/-- The key hash and the minimum security version in the fuses of the package (R403, log 6). -/
opaque fusedKeyHash : Nat
opaque fusedSvnMin : Nat

/-- Flits of a message between two dies of a kind (R420, log 90): the spec gives no size. -/
opaque flits (kind : Nat) : Nat

/-- The set in which a table keeps an entry whose index function the spec does not give: table 0 the TLBs of the MTUs,
table 1 the home directories (log 74). -/
opaque setIndex (table entry : Nat) : Nat

end Sys2Proof.Config
end

