-- ==== Sys2Proof/Machine/Crypto.lean ====
section
/-! DEFINITION. The firmware image's checks: SHA-256 and RSASSA-PKCS1-v1_5 with a 3,072-bit modulus and
exponent 65,537 (R403). -/
namespace Sys2Proof.Machine

-- ## SHA-256 (FIPS 180-4): words are numbers below 2^32

/-- The round constants: constant `i` is word `i` of this number. -/
def shaTable : Nat :=
  0xc67178f2bef9a3f7a4506ceb90befffa8cc7020884c8781478a5636f748f82ee * 2 ^ 1792 +
  0x682e6ff35b9cca4f4ed8aa4a391c0cb334b0bcb52748774c1e376c0819a4c116 * 2 ^ 1536 +
  0x106aa070f40e3585d6990624d192e819c76c51a3c24b8b70a81a664ba2bfe8a1 * 2 ^ 1280 +
  0x92722c8581c2c92e766a0abb650a735453380d134d2c6dfc2e1b213827b70a85 * 2 ^ 1024 +
  0x1429296706ca6351d5a79147c6e00bf3bf597fc7b00327c8a831c66d983e5152 * 2 ^ 768 +
  0x76f988da5cb0a9dc4a7484aa2de92c6f240ca1cc0fc19dc6efbe4786e49b69c1 * 2 ^ 512 +
  0xc19bf1749bdc06a780deb1fe72be5d74550c7dc3243185be12835b01d807aa98 * 2 ^ 256 +
  0xab1c5ed5923f82a459f111f13956c25be9b5dba5b5c0fbcf71374491428a2f98 * 2 ^ 0
def shaK (i : Nat) : Nat := shaTable / 2 ^ (32 * i) % 2 ^ 32
def rotr (n x : Nat) : Nat := x / 2 ^ n + x % 2 ^ n * 2 ^ (32 - n)
def add32 (a b : Nat) : Nat := (a + b) % 2 ^ 32
/-- The message schedule, newest word first: from 16 words, `n` more. -/
def shaExpand : Nat → List Nat → List Nat
  | 0, w => w
  | n + 1, w =>
    let at' (i : Nat) : Nat := (nth? w i).getD 0
    let s0 := let x := at' 14; rotr 7 x ^^^ rotr 18 x ^^^ (x / 8)
    let s1 := let x := at' 1; rotr 17 x ^^^ rotr 19 x ^^^ (x / 1024)
    shaExpand n (add32 (add32 (at' 15) s0) (add32 (at' 6) s1) :: w)
def shaRound (st : List Nat) (kw : Nat) : List Nat :=
  match st with
  | [a, b, c, d, e, f, g, h] =>
    let s1 := rotr 6 e ^^^ rotr 11 e ^^^ rotr 25 e
    let ch := (e &&& f) ^^^ ((2 ^ 32 - 1 - e) &&& g)
    let t1 := add32 (add32 h s1) (add32 ch kw)
    let s0 := rotr 2 a ^^^ rotr 13 a ^^^ rotr 22 a
    let mj := (a &&& b) ^^^ (a &&& c) ^^^ (b &&& c)
    [add32 t1 (add32 s0 mj), a, b, c, add32 d t1, e, f, g]
  | l => l
/-- One 64-byte block. -/
def shaBlock (st : List Nat) (blk : List Byte) : List Nat :=
  let w0 := (range 0 16).map fun i => numOf ((blk.drop (4 * i)).take 4).reverse
  let w := (shaExpand 48 w0.reverse).reverse
  let out := (w.zip (range 0 64)).foldl (fun st e => shaRound st (add32 e.1 (shaK e.2))) st
  (st.zip out).map fun e => add32 e.1 e.2
def shaBlocks : Nat → List Nat → List Byte → List Nat
  | 0, st, _ => st
  | n + 1, st, bs => shaBlocks n (shaBlock st (bs.take 64)) (bs.drop 64)
/-- The digest as a number whose top byte is the first byte. -/
def sha256 (m : List Byte) : Nat :=
  let len := m.length
  let pad := (119 - len % 64) % 64
  let bs := m ++ [0x80] ++ List.replicate pad 0 ++ (bytesOf 8 (8 * len)).reverse
  (shaBlocks (bs.length / 64) [0x6a09e667, 0xbb67ae85, 0x3c6ef372, 0xa54ff53a, 0x510e527f, 0x9b05688c, 0x1f83d9ab, 0x5be0cd19] bs).foldl (fun a w => a * 2 ^ 32 + w) 0

-- ## RSA

def squareTimes (m : Nat) : Nat → Nat → Nat
  | 0, x => x
  | n + 1, x => squareTimes m n (x * x % m)
/-- x^65537 mod m. -/
def rsaPower (x m : Nat) : Nat := squareTimes m 16 (x % m) * (x % m) % m
/-- The encoded message of RSASSA-PKCS1-v1_5 with SHA-256 in 384 bytes, as a number. -/
def pkcsEncode (digest : Nat) : Nat :=
  let info := 0x3031300d060960864801650304020105000420
  let t := info * 2 ^ 256 + digest
  0x0001 * 2 ^ (8 * 382) + (2 ^ (8 * 330) - 1) * 2 ^ (8 * 52) + t
/-- A big-endian number. -/
def bigEndian (bs : List Byte) : Nat := numOf bs.reverse

/-- A signature verifies under RSASSA-PKCS1-v1_5: it is below the modulus, and its power is the encoded message. -/
def rsaVerifies (sig modulus digest : Nat) : Bool := sig < modulus && rsaPower sig modulus == pkcsEncode digest

/-- Why a slot is not accepted (R403, R408): the ERR code less 0x10; none when it is accepted. `svnMin` is the fused minimum
of the security version. -/
def imageError (svnMin : Nat) (img : List Byte) : Option Nat :=
  let fld (o n : Nat) : List Byte := (img.drop o).take n
  let num (o n : Nat) : Nat := numOf (fld o n)
  let body := fld 1024 (num 16 8)
  if num 0 4 ≠ 0x474E5831 || num 4 4 ≠ 1 then some 1
  else if sha256 (fld 448 384) ≠ Config.fusedKeyHash then some 2
  else if !rsaVerifies (bigEndian (fld 64 384)) (bigEndian (fld 448 384)) (sha256 (fld 0 64)) then some 3
  else if sha256 body ≠ bigEndian (fld 32 32) then some 4
  else if num 8 4 < svnMin then some 5
  else none

end Sys2Proof.Machine
end

