-- ==== Sys2Proof/Syntax.lean ====
section
/-! DEFINITION. The instructions and events of spec/opcode_table.json: one constructor per row.
Word rows carry the fields of their encoding as numbers; event rows (no encoding) carry the
operands that say which unit, queue, line or context the event is about. -/
namespace Sys2Proof

/-- Bits [34:0] of a CM word, with the A and B registers (R184, R186). -/
structure CM where
  a : Nat
  b : Nat
  oc : Nat
  as : Nat
  sz : Nat
  sx : Nat
  sem : Nat
  scope : Nat
  sh : Nat
  hv : Nat
  hint : Nat
  disp : Nat
  deriving DecidableEq, Repr

/-- FN of a floating instruction (R185). -/
structure FN where
  fx : Nat
  rm : Nat
  pr : Nat
  deriving DecidableEq, Repr

/-- Subfields of a CS word that names an indexed object and a count (R231). -/
structure Cnt where
  idx : Nat
  imm : Nat
  rg : Nat
  deriving DecidableEq, Repr

/-- Wait, signal and capture of an engine-class word (R180); `creg` is the captured register,
bits [29:24] of EOF, zero when `cap` is 0 unless the command uses those bits itself. -/
structure Hdr where
  wsem : Nat
  wneed : Nat
  ssem : Nat
  sinc : Nat
  cap : Nat
  creg : Nat
  deriving DecidableEq, Repr

/-- The VR format of R280. -/
structure VR where
  typ : Nat
  vd : Nat
  va : Nat
  vb : Nat
  msk : Nat
  m1 : Nat
  z : Nat
  deriving DecidableEq, Repr

/-- The VC format of R280; PART, SR, X1 and X2 stand in bits [29:24] (so `creg` of the header is 0). -/
structure VC where
  part : Nat
  sr : Nat
  x1 : Nat
  x2 : Nat
  typ : Nat
  vd : Nat
  va : Nat
  vb : Nat
  msk : Nat
  m1 : Nat
  z : Nat
  deriving DecidableEq, Repr

/-- The VM format of R280 (VLD, VST). -/
structure VM where
  as : Nat
  vr : Nat
  msk : Nat
  disp : Nat
  deriving DecidableEq, Repr

/-- The VX format of R280 (VLDX, VSTX). -/
structure VX where
  as : Nat
  vr : Nat
  vi : Nat
  msk : Nat
  sc : Nat
  deriving DecidableEq, Repr

/-- EOF fields of MDRAIN (R305). -/
structure Drain where
  nsub : Nat
  keep : Nat
  sct : Nat
  act : Nat
  bias : Nat
  sat : Nat
  sr : Nat
  deriving DecidableEq, Repr

/-- A cached line's name: the address space (absent for a line of a G region, R11, R53) and VA[55:7]. -/
structure LineKey where
  asid : Option Nat
  line : Nat
  deriving DecidableEq, Repr

/-- The VA at which a line begins. -/
def LineKey.va (k : LineKey) : Nat := k.line * 128

/-- Who writes a device register (the writer classes of R394; `plugin` is the policy plug-in class). -/
inductive Who where
  | monitor
  | scheduler
  | pf
  | host
  | function (f : Nat)
  | plugin
  deriving DecidableEq, Repr

/-- What a peer message asks for (R343, R344, R345, R249). -/
inductive PeerKind where
  | put
  | get
  | red (op : Nat)
  | sig (sem count : Nat)
  | enq (ring : Nat)
  deriving DecidableEq, Repr

/-- A peer transfer or signal on its way to a tile (R34, R36): who sent it, what it carries, the
barrier it names, and, for a message of this package, the queue and sequence that wait for it. -/
structure PeerMsg where
  pkg : Nat
  tile : Nat
  vf : Nat
  ctx : Nat
  kind : PeerKind
  toTile : Nat
  offset : Nat
  loff : Nat
  data : List Byte
  len : Nat
  bar : Option Nat
  queue : Option (Nat × Nat)
  deriving DecidableEq, Repr

/-- Where an arriving message comes from: the messages in flight inside the package, or the pod. -/
inductive Delivery where
  | pending (n : Nat)
  | external (m : PeerMsg)
  deriving DecidableEq, Repr

/-- The host's answer to a device request (R72, R75, R395). -/
inductive HostAns where
  | shared
  | exclusive
  | ownership
  | data (d : Line)
  deriving DecidableEq, Repr

/-- One constructor per row of spec/opcode_table.json, in the table's order. -/
inductive Instr where
  -- control: integer (R189, R232)
  | nop
  | add (d a b : Nat)
  | sub (d a b : Nat)
  | and (d a b : Nat)
  | or (d a b : Nat)
  | xor (d a b : Nat)
  | andn (d a b : Nat)
  | sll (d a b : Nat)
  | srl (d a b : Nat)
  | sra (d a b : Nat)
  | mul (d a b : Nat)
  | mulh (d a b : Nat)
  | mulhu (d a b : Nat)
  | div (d a b : Nat)
  | divu (d a b : Nat)
  | rem (d a b : Nat)
  | remu (d a b : Nat)
  | min (d a b : Nat)
  | max (d a b : Nat)
  | minu (d a b : Nat)
  | maxu (d a b : Nat)
  | clz (d a : Nat)
  | ctz (d a : Nat)
  | popc (d a : Nat)
  | bswap (d a : Nat)
  | seq (d a b : Nat)
  | slt (d a b : Nat)
  | sltu (d a b : Nat)
  | sel (d a b c : Nat)
  | bfx (d a b : Nat)
  | bfxu (d a b : Nat)
  | bfi (d a b c : Nat)
  -- immediate (R234)
  | addi (d a imm : Nat)
  | andi (d a imm : Nat)
  | ori (d a imm : Nat)
  | xori (d a imm : Nat)
  | slli (d a imm : Nat)
  | srli (d a imm : Nat)
  | srai (d a imm : Nat)
  | slti (d a imm : Nat)
  | sltui (d a imm : Nat)
  | seqi (d a imm : Nat)
  | movi (d imm : Nat)
  | movhi (d a imm : Nat)
  | lea (d a imm sh : Nat)
  | addpc (d imm : Nat)
  -- floating (R235 to R237)
  | fadd (d a b : Nat) (fn : FN)
  | fsub (d a b : Nat) (fn : FN)
  | fmul (d a b : Nat) (fn : FN)
  | fdiv (d a b : Nat) (fn : FN)
  | fsqrt (d a : Nat) (fn : FN)
  | ffma (d a b c : Nat) (fn : FN)
  | fmin (d a b : Nat) (fn : FN)
  | fmax (d a b : Nat) (fn : FN)
  | fcmp (d a b : Nat) (fn : FN)
  | fclass (d a : Nat) (fn : FN)
  | fcvt (d a code : Nat) (fn : FN)
  | fmvg (d a : Nat) (fn : FN)
  | fmvf (d a : Nat) (fn : FN)
  | fsgn (d a b : Nat) (fn : FN)
  | frnd (d a : Nat) (fn : FN)
  -- transfers (R238 to R242)
  | b (a b cond off : Nat)
  | bz (a cond off : Nat)
  | j (off : Nat)
  | jal (d off : Nat)
  | jalr (d a imm : Nat)
  | ret (a : Nat)
  | jtab (a imm n : Nat)
  | ecatch (d off : Nat)
  | edrop
  | throw (a : Nat)
  -- memory (R243 to R247)
  | ld (d : Nat) (m : CM)
  | st (d : Nat) (m : CM)
  | stn (d : Nat) (m : CM)
  | ldp (d : Nat) (m : CM)
  | stp (d : Nat) (m : CM)
  | pref (m : CM)
  | clean (m : CM)
  | czero (m : CM)
  | cdrop (m : CM)
  | amo (d aop : Nat) (m : CM)
  | acas (d : Nat) (m : CM)
  -- synchronisation (R248 to R255)
  | fence (mask scope : Nat)
  | semwait (a : Nat) (c : Cnt)
  | semsig (a : Nat) (c : Cnt)
  | semset (a : Nat) (c : Cnt)
  | semrd (d idx : Nat)
  | semrsig (a b : Nat) (c : Cnt) (scp : Nat)
  | rcfg (a b idx : Nat)
  | rclm (d a : Nat) (c : Cnt)
  | rpub (a : Nat) (c : Cnt)
  | rwait (d a : Nat) (c : Cnt)
  | rrel (a : Nat) (c : Cnt)
  | rstat (d idx opt : Nat)
  | tbset (a b : Nat)
  | tbwait (a b : Nat)
  | barj (idx : Nat)
  | bara (idx : Nat)
  | barw (idx : Nat)
  | barx (idx : Nat)
  | phase (k : Nat)
  | qseq (d idx opt : Nat)
  | qdrain (mask : Nat)
  -- matrix configuration, time, promises, indexed registers (R256 to R259)
  | mcfg (a idx : Nat)
  | mcfgrd (d idx opt : Nat)
  | mhset (a idx : Nat)
  | tick (d : Nat)
  | sleepu (a : Nat)
  | prmget (d a : Nat)
  | prmwait (a : Nat)
  | movxr (d a imm : Nat)
  | movxw (d a imm : Nat)
  | fmovxr (d a imm : Nat)
  | fmovxw (d a imm : Nat)
  -- contexts and launch (R260 to R266)
  | ctxsw (d a opt : Nat)
  | yield (d : Nat)
  | node (a b imm : Nat)
  | park (opt : Nat)
  | wake (a : Nat)
  | ctxrd (d a w : Nat)
  | ctxwr (a b w : Nat)
  | launch (d a b : Nat)
  | iter (d sel : Nat)
  | bucket (d sel : Nat)
  | exit
  | kill
  -- system (R268 to R274, R366)
  | trap (a code : Nat)
  | syscall (imm : Nat)
  | eretResume
  | eretStep
  | eretQstep
  | eretParkPromise
  | eretParkExplicit
  | eretReady
  | eretKill
  | eretEscalate
  | sysrd (d num : Nat)
  | syswr (a num : Nat)
  | halt
  | bkpt (imm : Nat)
  | idle
  | shoot (d a b opt : Nat)
  | replset (a deg pin : Nat)
  | keyload (d a b slot : Nat)
  | keykill (a slot : Nat)
  | zerosp (a b : Nat)
  | mark (k : Nat)
  | causal (a b k delay : Nat)
  | cntrd (d a : Nat)
  | qreset (a opt : Nat)
  -- dispatch and the engines
  | dispatch (word : Nat)
  | vnop (h : Hdr)
  | vadd (h : Hdr) (x : VR)
  | vsub (h : Hdr) (x : VR)
  | vmul (h : Hdr) (x : VR)
  | vfma (h : Hdr) (x : VR)
  | vfms (h : Hdr) (x : VR)
  | vmin (h : Hdr) (x : VR)
  | vmax (h : Hdr) (x : VR)
  | vabs (h : Hdr) (x : VR)
  | vneg (h : Hdr) (x : VR)
  | vrcp (h : Hdr) (x : VR)
  | vrsq (h : Hdr) (x : VR)
  | vexp2 (h : Hdr) (x : VR)
  | vlog2 (h : Hdr) (x : VR)
  | vtanh (h : Hdr) (x : VR)
  | vcvt (h : Hdr) (x : VC)
  | vand (h : Hdr) (x : VR)
  | vor (h : Hdr) (x : VR)
  | vxor (h : Hdr) (x : VR)
  | vshl (h : Hdr) (x : VR)
  | vshr (h : Hdr) (x : VR)
  | vcmp (h : Hdr) (x : VR)
  | vsel (h : Hdr) (x : VR)
  | vred (h : Hdr) (x : VR)
  | vscan (h : Hdr) (x : VR)
  | vperm (h : Hdr) (x : VR)
  | vbcast (h : Hdr) (x : VR)
  | viota (h : Hdr) (x : VR)
  | vpack (h : Hdr) (x : VR)
  | vunpk (h : Hdr) (x : VR)
  | vqnt (h : Hdr) (x : VC)
  | vdqnt (h : Hdr) (x : VC)
  | vld (h : Hdr) (x : VM)
  | vst (h : Hdr) (x : VM)
  | vldx (h : Hdr) (x : VX)
  | vstx (h : Hdr) (x : VX)
  | vmovc (h : Hdr) (vd lane pair : Nat)
  | vmsk (h : Hdr) (md ma mb mop : Nat)
  | vtbld (h : Hdr) (sel typ vd va : Nat)
  | vsmx (h : Hdr) (dlog vd va vb : Nat)
  | veLanding (tile : Nat)
  | mnop (h : Hdr)
  | mgo (h : Hdr)
  | mmul (h : Hdr) (nsub z : Nat)
  | mgath (h : Hdr) (nsub z nrow : Nat)
  | mlut (h : Hdr) (nsub z kb gsz : Nat)
  | mzero (h : Hdr)
  | mdrain (h : Hdr) (x : Drain)
  | xnop (h : Hdr)
  | xcpy (h : Hdr) (doff : Nat)
  | xbtab (h : Hdr) (doff : Nat)
  | xsgl (h : Hdr) (doff : Nat)
  | xfill (h : Hdr) (doff : Nat)
  | xbst (h : Hdr) (doff : Nat)
  | xmap (h : Hdr) (doff : Nat)
  | xmapUnmap (h : Hdr) (doff : Nat)
  | xmapLazyWriteBack (tile sector : Nat)
  | gnop (h : Hdr)
  | ggath (h : Hdr) (doff : Nat)
  | gscat (h : Hdr) (doff : Nat)
  | gscadd (h : Hdr) (doff : Nat)
  | gcmpct (h : Hdr) (doff : Nat)
  | glive (h : Hdr) (doff : Nat)
  | lnop (h : Hdr)
  | lput (h : Hdr) (doff : Nat)
  | lget (h : Hdr) (doff : Nat)
  | lenq (h : Hdr) (doff : Nat)
  | lsig (h : Hdr) (doff : Nat)
  | lred (h : Hdr) (doff : Nat)
  | snop (h : Hdr)
  | sattn (h : Hdr) (doff : Nat)
  | skvapp (h : Hdr) (doff : Nat)
  | sscore (h : Hdr) (doff : Nat)
  | scpy (h : Hdr) (doff : Nat)
  | sprobe (h : Hdr) (doff : Nat)
  -- translation (R17 to R47)
  | map (mtu : Nat)
  | unmap (mtu : Nat)
  | destroy (mtu : Nat)
  | protect (mtu : Nat)
  | pmcFill (tile va : Nat)
  | walk (mtu asid va : Nat)
  | mtuFill (k : LineKey)
  | mtuWriteBack (k : LineKey)
  | performHeldWrites (k : LineKey)
  | deferredFaultRecord (vf : Nat)
  -- coherence (R54 to R75)
  | homeRead (tile : Nat) (k : LineKey)
  | homeOwnership (tile : Nat) (k : LineKey)
  | skim (die : Nat) (k : LineKey)
  | skimAcknowledgement (die : Nat) (k : LineKey)
  | skimsDone (k : LineKey)
  | dropNotice (die : Nat) (k : LineKey)
  | ownerWriteBack (k : LineKey)
  | ownershipGrant (tile : Nat) (k : LineKey)
  | rctSweep (die : Nat)
  | scrimwaysChange (die : Nat)
  | snpData (pa : Nat)
  | snpInv (pa : Nat)
  | snpCur (pa : Nat)
  | memRdSnpData (pa : Nat)
  | memRdSnpInv (pa : Nat)
  | memWr (pa : Nat) (d : Line)
  | inboundWrite (pa : Nat) (data : List Byte)
  | dmaDescriptor (writes : List (Nat × List Byte)) (done : Option (Nat × List Byte))
  -- residency (R91 to R107)
  | rseEvaluate (ctx : Nat)
  | move (die : Nat)
  | deadlineMiss (die : Nat)
  | poisonGranule (pa : Nat)
  | refetchCleanCopy (die : Nat) (k : LineKey)
  | promote (die : Nat)
  | demote (die : Nat)
  | pin (die : Nat)
  | unpin (die : Nat)
  | refetch (die : Nat)
  | residencyEvent (die : Nat)
  -- launching and scheduling (R160 to R177)
  | lqprod (f die q n : Nat)
  | launchPacket (die q : Nat)
  | ffence (die q : Nat)
  | skip (die q : Nat)
  | prologue (die q : Nat)
  | prologueTimeout (die : Nat)
  | formBatch (die group cls : Nat)
  | pick (die : Nat)
  | windowRestart (die : Nat)
  | stepStart (step : Nat)
  | kernelLoad (tile : Nat)
  | handOff (die : Nat)
  | completionRecord (step : Nat)
  | timeSliceEnd (die : Nat)
  | start (die : Nat)
  | preempt (die : Nat)
  | drop (die : Nat)
  | schedulingEvent (die : Nat)
  -- tile events
  | phaseUpdate (tile nb k : Nat)
  | tbwaitTimeout (tile : Nat)
  | promise (tile : Nat)
  | watchdog (tile : Nat)
  | trapEntry (tile : Nat)
  | xeAbandon (tile : Nat)
  | peerTransferArrival (m : Delivery)
  | signalArrival (m : Delivery)
  | lenqArrival (m : Delivery)
  | keySlotZeroing (tile slot rows : Nat)
  -- firmware and host registers
  | qcommit (value : Nat) (who : Who)
  | vfen (hi value : Nat) (who : Who)
  | status
  | recover
  | reset
  | create (die handle : Nat)
  | free (die handle : Nat)
  | swapout (die handle : Nat)
  | swapin (die handle : Nat)
  | retrysave (die handle : Nat)
  | restart (place pc : Nat)
  | coreWake (place : Nat)
  | dieGating (value : Nat) (retain : Bool)
  | tickadj (v : Nat)
  | stop
  | rctQuery (die : Nat)
  | pgdQuery (die : Nat)
  | rhtQuery (die : Nat)
  | horizon (f k : Nat)
  | replayInput (f k : Nat)
  | causalPause (tile : Nat)
  | functionLevelReset (f : Nat)
  | powerGood
  | dieOnline (die : Nat) (passed : Bool)
  | thermalThrottle (island : Nat)
  | linkRetry (link : Nat)
  | parityError (tile : Nat)
  | registerWrite (off size value : Nat) (who : Who)
  | sleepuTickReached (tile : Nat)
  | hostAnswer (k : LineKey) (a : HostAns)
  | srIovVfEnable (on : Bool)
  | conventionalReset
  | pluginBudgetExpiry (core : Nat)
  | deadlineLeadReached (die : Nat)
  | frameZeroingEnd (pa : Nat)
  | storeLogWriteDone (tile : Nat)
  deriving DecidableEq, Repr

end Sys2Proof
end

