-- ==== Sys2Proof/Machine/State.lean ====
section
/-! DEFINITION. The state of one GNX-B4 package as plain data: every register, memory, table and
message in flight that spec/ names, and the model's own scheduling fields (log 1, log 2). -/
namespace Sys2Proof.Machine

-- ## One core

/-- The registers of one core: CC or SC of a tile, a CFE, a steward core (R190, R357, R404). -/
structure Core where
  g : FMap Word
  f : FMap Word
  pc : Word
  priv : Nat
  deriving DecidableEq, Repr

/-- Ring state (R192); `eng` is read off the ring's number. -/
structure Ring where
  head : Nat
  tail : Nat
  claimed : Nat
  slog : Nat
  sszm : Nat
  scope : Nat
  v : Bool
  base : Nat
  deriving DecidableEq, Repr

/-- The started command of an engine queue (R139, R258, R337): its sequence, word and captured value,
the promised tick of a copy, whether KILL took its signal, the descriptors it read at its start, and a cause it met since
(R52). -/
structure InFlight where
  seq : Nat
  word : Nat
  capv : Word
  promised : Nat
  killed : Bool
  desc : List Nat
  met : Option Nat
  deriving DecidableEq, Repr

/-- One engine queue: the sequence of the next dispatched command (R182), the started command, and
the tick at which the head began to wait (R195), and the copies whose PROMISE was raised (R258). -/
structure EngQ where
  next : Nat
  cur : Option InFlight
  since : Option Nat
  reported : FMap Bool
  deriving DecidableEq, Repr

/-- A result on its way to vector or mask registers (R276, R361, R369): remaining ck, destination,
data with the bits it writes, and the signal it adds. `kind` is that of R369: 1 and 3 vector, 2 mask, 4 a
pending load; and 5, which no image holds, is a store under way (R275). Of 4 and 5, `addrs` holds the addresses and `mask`
the lanes that are done; `poison` says that a lane of a load was poisoned, and `again` that the load makes its checks
anew when the time base runs (R277). -/
structure Landing where
  rem : Nat
  base : Nat
  data : List VReg
  mask : List VReg
  kind : Nat
  lanes : Nat
  sp : Bool
  addrs : List Nat
  ssem : Nat
  sinc : Nat
  seq : Nat
  poison : Bool
  again : Bool
  deriving DecidableEq, Repr

/-- A mapped-region entry (R32). -/
structure MapEntry where
  vabase : Nat
  wb : Nat
  lazy : Bool
  len : Nat
  spbase : Nat
  seq : Nat
  deriving DecidableEq, Repr

/-- A row tag of the B-store that has V = 1 (R78). -/
structure RowTag where
  slot : Nat
  gen : Nat
  deriving DecidableEq, Repr

/-- A key slot: key, function, valid, and the row the zeroing visit has reached (R80). -/
structure KeySlot where
  key : Nat
  fn : Nat
  valid : Bool
  zeroing : Option Nat
  deriving DecidableEq, Repr

/-- A grant-table entry (R35). -/
structure Grant where
  v : Bool
  vf : Nat
  rights : Nat
  pklo : Nat
  pkhi : Nat
  tlo : Nat
  thi : Nat
  oflo : Nat
  ofhi : Nat
  deriving DecidableEq, Repr

/-- What the PMC and the RHT say of a region (R22, R25). -/
structure Perm where
  r : Bool
  w : Bool
  x : Bool
  a : Bool
  sa : Bool
  g : Bool
  dev : Bool
  vf : Nat
  deriving DecidableEq, Repr

/-- Provenance of a dirty sector (R42): the context, CC store or engine queue, the last sequence and
the class mask; the tile, function and address space are those a deferred-fault record names (R45). Of each agent of a tile
that stored to it (8 × tile + agent), `agents` holds the place of its first store in program order, by which releases cover it
(R120, R133). -/
structure Prov where
  ctx : Nat
  queue : Option Nat
  seq : Nat
  mask : Nat
  tile : Nat
  vf : Nat
  asid : Nat
  agents : FMap Nat
  deriving DecidableEq, Repr

/-- Cached states of a line (R54); state W is a line that holds pending stores. -/
inductive CState where
  | i | s | e | m
  deriving DecidableEq, Repr

/-- A store held in state W (R54, R117): the bits it writes, its class and scope, whether it is a release,
its place in program order, and its provenance. -/
structure Pend where
  mask : Line
  data : Line
  oc : Nat
  scope : Nat
  rel : Bool
  order : Nat
  prov : Prov
  deriving DecidableEq, Repr

/-- An L1 line (R53, R54, R63): `valid`, `dirty`, `bad` (dirty with an uncorrectable error, R65) and `prov` are per
32-byte sector; `mark` is the pending-skim mark, `hide` the rule of R112, `wide` the classes of stores of package scope
or more that merged under the mark. -/
structure L1Line where
  key : LineKey
  st : CState
  data : Line
  valid : Nat
  dirty : Nat
  bad : Nat
  prov : FMap Prov
  mark : Bool
  hide : Bool
  wide : Nat
  pend : List Pend
  deriving DecidableEq, Repr

/-- The kernel a tile has loaded (R176). -/
structure Kernel where
  fn : Nat
  kih : Nat
  kid : Nat
  deriving DecidableEq, Repr

/-- An asynchronous cause that waits for a boundary (R364): code, detail, queue. -/
structure Async where
  code : Nat
  detail : Nat
  queue : Option Nat
  deriving DecidableEq, Repr

/-- A record of a violation log (R411). -/
structure Viol where
  tick : Nat
  addr : Nat
  pkg : Nat
  tile : Nat
  vf : Nat
  right : Nat
  kind : Nat
  deriving DecidableEq, Repr

/-- A switch-out that waits for the started commands to end and the stores to be performed (R135, R153,
R358): the park it makes (PREASON and PARKINFO; none makes the context Ready), the pc at which the
context resumes, whether a NODE allows the light form, and the context that comes in (CTXSW, YIELD). -/
structure Switch where
  park : Option (Nat × Nat)
  resume : Word
  light : Bool
  incoming : Option (Option Nat)
  dreg : Nat
  -- pc of the instruction that parks or switches (R416)
  pc : Word
  deriving DecidableEq, Repr

/-- Why a core does not go on by itself. -/
inductive Hold where
  | running
  /-- HALT, or a steward core after a trap at privilege 3 (R270, R404) -/
  | halted
  /-- IDLE (R270) -/
  | idle
  /-- frozen with CTXD.INCOMP set: escalated to the monitor firmware (R364, R371, R413) -/
  | escalated
  deriving DecidableEq, Repr

/-- Everything that belongs to one tile, CFE or steward core (a place, numbered 0-511, 512-515,
516-519). A CFE or steward core uses only `cc`, the registers, the scratchpad and `hold`. -/
structure Place where
  cc : Core
  sc : Core
  frozen : Bool
  hold : Hold
  -- system registers (R194)
  ctx : Nat
  asid : Nat
  vf : Nat
  -- the function to which the tile's state belongs (R409); `sys.vf` may be written
  owner : Nat
  regbnd : Nat
  lead : Nat
  srseed : Nat
  bmask : FMap Word
  phase : FMap Nat
  nbPhase : FMap Nat
  cause : Word
  epc : Word
  -- the pc of the CC's frozen instruction, which `sys.cutv0` holds until ERET (R359)
  cutPc : Word
  -- the SC's pc and cause of an event that escalated (R364)
  scEvent : Option (Word × Word)
  tvec : Nat
  exc : Word
  gpos : Nat
  -- register files
  v : FMap VReg
  m : FMap Word
  sem : FMap Nat
  acc : FMap Lane
  accEpoch : Nat
  vesr : Nat
  mesr : Nat
  rings : FMap Ring
  mcShadow : FMap Word
  mcPending : FMap Word
  mcActive : FMap Word
  mcOcc : Bool
  -- engines
  q : FMap EngQ
  landing : List Landing
  veIssued : Bool
  -- the cause that the running command met after its start (R52, R78, R81), and an engine step of a
  -- frozen tile: the queues still to start a command and those that did (R373)
  met : Option Nat
  qstep : Option (Nat × Nat)
  -- scratchpad, B-store
  sp : FMap Byte
  spPoison : FMap Bool
  -- corrected errors of the scratchpad (R52)
  spErrors : Nat
  spEpoch : Nat
  maps : FMap MapEntry
  mapDirty : FMap Bool
  -- the tick of a sector's first write since its last write-back, kept while WB = 0b10 (R336)
  mapSince : FMap Nat
  mapFilled : FMap Bool
  bst : FMap Byte
  tags : FMap RowTag
  bstBad : FMap Bool
  -- rows whose tag has an uncorrectable error (R81)
  tagBad : FMap Bool
  keys : FMap KeySlot
  grants : List Grant
  kernel : Option Kernel
  bstSlots : List Nat
  -- global memory side of the tile
  pmc : FMap Perm
  l1 : FMap L1Line
  slog : FMap (Nat × Word)
  slogBusy : Option (Nat × FMap (Nat × Word))
  order : Nat
  -- what the tile-scope edges order before the next access of queue q (key q), of the CC (6) and of a waiter on
  -- semaphore n (8 + n): the place in program order up to which each queue's stores, and the CC's (6), stand before it
  -- (R120)
  clock : FMap (FMap Nat)
  -- events waiting for a boundary of the context, and what the runner knows of the instruction
  entering : Option Nat
  async : List Async
  stepArm : Bool
  bpSkip : Bool
  node : Option (Word × Word)
  switch : Option Switch
  victim : Bool
  stallSince : Option Nat
  -- a stalled SHOOT or QRESET has had its first part; the tiles' places in program order at that time (R30, R274)
  begun : Option (FMap Nat)
  tb : Option (Nat × Nat × Bool)
  -- an input waits for space in a recording log of the STALL mode (R422)
  recWait : Bool
  -- logged promised ticks that have taken effect, by queue sequence (R423)
  promised : FMap Nat
  -- an atomic of package scope or more was performed and awaits the skims of this line's grant (R56): the line, D, the result
  amoWait : Option (LineKey × Nat × Word)
  vlog : List Viol
  vcount : Nat
  -- step
  step : Option Nat
  point : List Nat
  firstDone : Bool
  -- counters of the loaded context since load, causal experiments, watchdog (R419, R424, R371)
  cnt : FMap Nat
  wdogGt : Nat
  deriving DecidableEq, Repr

-- ## The memory system

/-- An RHT entry and the RCT entry beside it (R22, R66), with the count of mapped pages (R23). -/
structure Region where
  asid : Option Nat
  no : Nat
  home : Nat
  path : Nat
  placed : Bool
  perm : Perm
  count : Nat
  degree : Nat
  pin : Bool
  share : Nat
  skimp : Nat
  rhits : Nat
  skims : Nat
  dchg : Nat
  sevict : Nat
  deriving DecidableEq, Repr

/-- A home-partition line (R57, R58): its way, its frame's PA once a fill has found it, its valid and dirty sectors with their
provenance, the sectors that an uncorrectable error poisoned (R65); `noSa` marks a host line that an atomic without host
ownership changed (R73), `waits` a write-back that found no room to be held (hold-pending, R43). -/
structure HomeLine where
  key : LineKey
  way : Nat
  pa : Option Nat
  data : Line
  valid : Nat
  dirty : Nat
  prov : FMap Prov
  poisoned : Nat
  pinned : Bool
  noSa : Bool
  waits : Bool
  deriving DecidableEq, Repr

/-- A home directory entry (R60): owning tile (HM or RM by its die), L, P, Q, K, and the tile that
holds the grant whose skims are awaited. -/
structure Dir where
  key : LineKey
  own : Option Nat
  l : List Nat
  p : List Nat
  q : List Nat
  k : List Nat
  deriving DecidableEq, Repr

/-- Host coherence states (R72, R75). -/
inductive HState where
  | i | s | e | m | o
  deriving DecidableEq, Repr

/-- A message between directory, dies and L1s that is in flight (R61 to R63). -/
inductive Msg where
  /-- an ownership grant on its way to a tile, with the line's data, the dirty sectors and
  provenance that came with it and the pending-skim mark -/
  | grant (tile : Nat) (key : LineKey) (data : Line) (dirty bad : Nat) (prov : FMap Prov) (mark : Bool)
  /-- a skim on its way to a die; `replicaOnly` for a lowered degree (R68) -/
  | skim (die : Nat) (key : LineKey) (replicaOnly : Bool)
  /-- an acknowledgement on its way to the home directory -/
  | ack (die : Nat) (key : LineKey) (replicaOnly : Bool)
  /-- skims-done on its way to the tile that held the grant -/
  | done (key : LineKey)
  /-- a request to the host that awaits its answer (R72, R75, R395): 0 RdAny, 1 RdOwn, 2 RdOwnNoData,
  3 BISnpData, 4 BISnpInv, 5 BISnpInv of a teardown -/
  | toHost (key : LineKey) (kind : Nat)
  deriving DecidableEq, Repr

/-- A line of the hold buffer or overflow area (R43): which bits, the data, the held sectors with the provenance of
each (R42), the function whose quota it fills, its cause, the page's state and tier, and its fault identifier. -/
structure Held where
  die : Nat
  key : LineKey
  mask : Line
  data : Line
  secs : Nat
  prov : FMap Prov
  vf : Nat
  cause : Nat
  pst : Nat
  tier : Nat
  fid : Nat
  overflow : Bool
  poisoned : Bool
  deriving DecidableEq, Repr

/-- A deferred-fault record that waits for ring space (R45), as its 512 bits. -/
structure Dfr where
  vf : Nat
  word : Nat
  die : Nat
  deriving DecidableEq, Repr

/-- One of the ten MTUs (R28): cached leaf translations and non-leaf entries, reverse map, map ring, violation log. -/
structure Mtu where
  tlb : FMap Word
  upper : FMap Word
  rmap : FMap (Nat × Bool × Nat)
  sdseq : FMap Nat
  sdglobal : Nat
  vlog : List Viol
  vcount : Nat
  deriving DecidableEq, Repr

/-- A page-directory entry (R87). -/
structure Pgd where
  asid : Option Nat
  va : Nat
  frame : Nat
  lframe : Nat
  tier : Nat
  ltier : Nat
  st : Nat
  lv : Bool
  dirty : Bool
  sip : Bool
  pin : Bool
  sharers : List Nat
  owner : Option Nat
  large : Bool
  deriving DecidableEq, Repr

/-- A queued promotion or demotion (R91). -/
structure RseMove where
  gran : Nat
  promote : Bool
  deadline : Nat
  owner : Nat
  missed : Bool
  deriving DecidableEq, Repr

/-- A move inside its switch window (R92): granule, target frame and tier, who asked, whether it is a refetch, and
whether a command of the command ring asked for it. -/
structure Window where
  gran : Nat
  frame : Nat
  tier : Nat
  owner : Option Nat
  refetch : Bool
  cmd : Bool
  deriving DecidableEq, Repr

/-- What the residency engine of one die holds (R91, R92, R105, R106). -/
structure Rse where
  queue : List RseMove
  window : Option Window
  pool1 : List Nat
  pool2 : List Nat
  retired : List Nat
  events : List Nat
  deriving DecidableEq, Repr

-- ## Scheduling

/-- A launch packet as the CFE holds it: the 1,024 bits, its index and the queue it came from. -/
structure Packet where
  bits : Nat
  index : Nat
  deriving DecidableEq, Repr

/-- What the CFE holds of one launch queue (R160, R164). -/
structure LaunchQ where
  prod : Nat
  cons : Nat
  copies : List Packet
  /-- the 8-byte elements read so far of the next packet -/
  reading : List Nat
  /-- the step of the previous packet, until it completes -/
  busy : List Nat
  /-- a REPEAT prologue continues on this copy (R165) -/
  again : Option Packet
  deriving DecidableEq, Repr

/-- A gang position of a started step (R172 to R174): its die and tile, the point it runs or ran last,
whether the iteration is unfinished, whether its saved image awaits a tile, its phase counters (R158,
R370), whether its last iteration ended with KILL, the tile it is or was on last,
what it has settled of the gang's causal delay (PAID + CREDIT of the step, R424), the running time the watchdog
has counted while it has no tile (R371), and whether its saved image is of the full form (R153). -/
structure Position where
  die : Nat
  tile : Option Nat
  point : Option (List Nat)
  busy : Bool
  saved : Bool
  phases : FMap Nat
  left : Bool
  seat : Nat
  settled : Nat
  wdog : Nat
  full : Bool
  deriving DecidableEq, Repr
/-- A position on a tile before its first iteration. -/
def Position.new (die tile : Nat) : Position := ⟨die, some tile, none, false, false, [], false, tile, 0, 0, false⟩

/-- A pending or running step (R168 to R174); `posted` says that its KIND 0 event was posted, `told` its KIND 1 event (R177), `map` is the
membership map and `chief` the lead context from its start on (R146), `ranges` the causal ranges that are armed on the
tiles of its gang (R424). -/
structure Step where
  id : Nat
  packet : Packet
  vf : Nat
  asid : Nat
  cls : Nat
  deadline : Nat
  die : Nat
  queue : Nat
  members : List Nat
  batched : Bool
  entry : Nat
  bucket : Option (Nat × Nat)
  levels : List (Nat × Nat)
  gang : Nat
  mask : List Nat
  reserved : List Nat
  started : Bool
  direct : Bool
  template : Bool
  posted : Bool
  aborted : Bool
  deferPark : Option Nat
  failed : Option Nat
  cursor : FMap Nat
  positions : List Position
  causalD : Nat
  trialBase : Nat
  told : Bool
  map : Nat
  chief : Nat
  ranges : FMap (Nat × Nat × Nat) := []
  deriving DecidableEq, Repr

/-- A gang barrier (R157): bound step, members and arrived members by gang position, generations
completed, and the generation of each member's last BARA. -/
structure Barrier where
  step : Nat
  m : List Nat
  a : List Nat
  gen : Nat
  last : FMap Nat
  deriving DecidableEq, Repr

/-- What the CXS of one die holds (R171, R173, R401). -/
structure Cxs where
  winStart : Nat
  used : FMap Nat
  sliceFn : Option Nat
  sliceEnd : Nat
  events : List Nat
  picking : Option Nat
  deriving DecidableEq, Repr

-- ## The state

/-- A running prologue on a CFE (R165). -/
structure Prologue where
  queue : Nat
  packet : Packet
  start : Nat
  /-- it has ended with this verdict and packet, which waits for a page -/
  ended : Option (Nat × Packet)
  deriving DecidableEq, Repr

/-- What happens to the package from outside the agents that the spec tables as events: errors in stored data (R52, R65,
R81), a host or CXL target that answers with errors (R40), and settings that the monitor firmware makes without a
register (R15, R43). -/
inductive Outside where
  /-- an error in the word of scratchpad word `word`: corrected, or not -/
  | spError (tile word : Nat) (corrected : Bool)
  /-- an uncorrectable error in a sector of an L1 line, or of a line of the home partition -/
  | l1Error (tile : Nat) (key : LineKey) (sector : Nat)
  | homeError (key : LineKey) (sector : Nat)
  /-- an uncorrectable error in a replica -/
  | scrimError (die : Nat) (key : LineKey)
  /-- an uncorrectable error in a word of the B-store, or in a row's tag -/
  | bstError (tile word : Nat)
  | tagError (tile row : Nat)
  /-- the target of a frame begins or ceases to answer with errors -/
  | target (frame : Nat) (bad : Bool)
  /-- the monitor sets the base of the address-space descriptors -/
  | asdBase (pa : Nat)
  /-- the monitor gives a function an overflow area of `lines` lines -/
  | overflow (fn lines : Nat)
  /-- stage B of the start-up completes (R408) -/
  | stageB
  /-- the monitor raises the fused minimum to the SVN of the running image (R403) -/
  | fuse
  deriving DecidableEq, Repr

/-- A completion record that waits until its line can be written (R163). -/
structure Cpl where
  asid : Nat
  vf : Nat
  va : Nat
  word : Nat
  deriving DecidableEq, Repr

/-- What a CXS reports to the scheduler firmware: a context that is never scheduled (R148), a template that is never
used (R169). -/
inductive Report where
  | badContext (handle : Nat)
  | badTemplate (die group : Nat)
  deriving DecidableEq, Repr

/-- A slot of a ring that a push has reserved behind claimed ones (R344): the receiving step and its gang position, the
ring, the slot's index (2^16 once the ring is gone), and the message that is answered when it is published. -/
structure Push where
  step : Nat
  pos : Nat
  ring : Nat
  slot : Nat
  msg : PeerMsg
  deriving DecidableEq, Repr

/-- The next agent to act: an explicit choice. -/
inductive Agenda where
  /-- the core of a place executes one instruction -/
  | core (place : Nat)
  /-- an engine of a tile takes one step of its queue -/
  | engine (tile queue : Nat)
  /-- an event of the table happens -/
  | event (i : Instr)
  /-- time passes -/
  | advance (gt : Nat)
  /-- the CFE of a die reads 8-byte elements of packets ahead of a queue's head -/
  | fetchAhead (die queue elements : Nat)
  /-- something happens from outside -/
  | outside (o : Outside)
  deriving DecidableEq, Repr

/-- The whole package. -/
structure State where
  -- the model's own fields (log 1, log 2)
  agenda : List Agenda
  focus : List Nat
  turn : Nat
  cur : Nat
  freeCount : Nat
  -- time
  tick : Nat
  stopped : Bool
  -- cores and tiles
  places : FMap Place
  barriers : FMap Barrier
  peers : List PeerMsg
  pushes : List Push
  -- memory
  mem : List Host.Cell
  asdBase : Nat
  -- the root of each address space since its descriptor became valid or its last shoot-down (R15)
  roots : FMap Nat
  badTargets : List Nat
  regions : FMap Region
  pgd : FMap Pgd
  mtus : FMap Mtu
  home : FMap HomeLine
  replicas : FMap (Nat × Line)
  dirs : FMap Dir
  hosts : FMap HState
  msgs : List Msg
  held : List Held
  fids : FMap Nat
  dfrs : List Dfr
  zeroing : List Nat
  holdArea : FMap Nat
  holdWait : List Nat
  unpopulated : List Nat
  rses : FMap Rse
  scrimWays : FMap Nat
  -- replica hits and evictions by region and die since the last report (R67), and each die's last sweep (R68)
  scrimCounts : FMap (Nat × Nat)
  swept : FMap Nat
  -- the tick by which a written SCRIMWAYS takes effect on a die (R58)
  scrimDue : FMap Nat
  -- granules whose poison the detecting MTU has reported to the residency engine (R104)
  poisonAsks : List Nat
  -- queues (8 × tile + queue) whose reset has not completed, with the contexts that owned them (R274)
  qresets : FMap Nat
  gated : List Nat
  -- dies whose gating sequence has begun (R83), with the choice to retain the B-store
  gating : FMap Bool
  retained : List Nat
  -- contexts
  storeSeq : FMap Nat
  ctxAsync : FMap (List Async)
  waiters : List Nat
  fenceMask : FMap Nat
  -- the line with held writes at which a read of a parked context came (R43, R151)
  lateLine : FMap Nat
  -- the held lines that a parked context's release covers, by die, function and FID (R133)
  lateHeld : FMap (List Nat)
  -- of a context at a gang position and of a queue: the next sequence (R182), and the copies whose PROMISE was raised (R258)
  queueSaved : FMap (Nat × FMap Bool)
  -- of a context at a gang position: the filled lines of its mapped regions, and the queue sequence of each entry's XMAP (R33)
  mapSaved : FMap (FMap Bool × FMap Nat)
  -- the gang position at which a context parked with BARRIER or PROMISE (R151)
  parkPos : FMap Nat
  -- elements performed of a command that restarts where it parked (R327), by context and queue
  progress : FMap (Nat × Nat)
  -- scheduling
  lqs : FMap LaunchQ
  steps : List Step
  nextStep : FMap Nat
  cxs : FMap Cxs
  prologues : FMap Prologue
  -- the queue at which the round of a die's CFE goes on (R164)
  lqTurn : FMap Nat
  cpls : List Cpl
  reports : List Report
  -- trace records of a die that wait for their line (R415)
  traces : List (Nat × Nat)
  -- device registers, firmware and recording
  dreg : FMap Word
  vfEnable : Bool
  minimal : Bool
  -- MSI-X messages sent by vector of the physical function (R391, R394)
  msix : FMap Nat
  -- the security version to which the fused minimum was raised (R403)
  fusedSvn : Nat
  -- the tick at which the clock domains stopped (R418)
  stopTick : Option Nat
  -- compute dies whose stage C test is over (R408)
  tested : Nat
  flashA : List Byte
  flashB : List Byte
  throttled : List Nat
  recSlots : FMap Bool
  deriving DecidableEq, Repr

-- ## Stops

/-- The machine stops here: the model's own conditions, never an effect of the hardware. -/
inductive Fault where
  /-- an agenda entry names a place, tile or queue the package does not have; raised by `step`. Safe:
  the entry is the model's own choice, and no run of hardware corresponds to it. -/
  | noSuchAgent (n : Nat)
  deriving DecidableEq, Repr

/-- No meaning for an instruction. -/
inductive Refusal where
  /-- an instruction that the model does not give a meaning; raised by `exec`. Safe: the run ends. -/
  | notModelled (mnemonic : String)
  deriving DecidableEq, Repr

-- ## Reset

/-- A core whose registers all read zero (log 3). -/
def Core.reset : Core := ⟨[], [], 0, 0⟩

/-- An engine queue that holds nothing. -/
def EngQ.reset : EngQ := ⟨0, none, none, []⟩

/-- A ring after cold reset (R192). -/
def Ring.reset : Ring := ⟨0, 0, 0, 0, 0, 0, false, 0⟩

/-- A place right after reset: `sys.regbnd` 64, `sys.srseed` 1 (R194), everything else zero or
empty. A steward core is at the privilege of its layer (R404): core 0 monitor, cores 1 to 3
scheduler. -/
def Place.reset (p : Nat) : Place where
  cc := { Core.reset with priv := if p < 516 then 0 else if p = 516 then 3 else 2 }
  sc := Core.reset
  frozen := false
  hold := if p < 512 then .running else .halted
  ctx := 0
  asid := 0
  vf := 0
  owner := 0
  regbnd := 64
  lead := 0
  srseed := 1
  bmask := []
  phase := []
  nbPhase := []
  cause := 0
  epc := 0
  cutPc := 0
  scEvent := none
  tvec := 0
  exc := 0
  gpos := 0
  v := []
  m := []
  sem := []
  acc := []
  accEpoch := 0
  vesr := 1
  mesr := 1
  rings := []
  mcShadow := []
  mcPending := []
  mcActive := []
  mcOcc := false
  q := []
  landing := []
  veIssued := false
  met := none
  qstep := none
  sp := []
  spPoison := []
  spErrors := 0
  spEpoch := 0
  maps := []
  mapDirty := []
  mapSince := []
  mapFilled := []
  bst := []
  tags := []
  bstBad := []
  tagBad := []
  keys := []
  grants := []
  kernel := none
  bstSlots := []
  pmc := []
  l1 := []
  slog := []
  slogBusy := none
  order := 0
  clock := []
  entering := none
  async := []
  stepArm := false
  bpSkip := false
  node := none
  switch := none
  victim := false
  stallSince := none
  begun := none
  tb := none
  recWait := false
  promised := []
  amoWait := none
  vlog := []
  vcount := 0
  step := none
  point := []
  firstDone := false
  cnt := []
  wdogGt := 0

/-- The package right after reset: tick 0, nothing in flight, nothing mapped, memory with nothing
listed, every device register at its reset value (`dreg` lists only the registers that differ). -/
def State.reset : State where
  agenda := []
  focus := []
  turn := 0
  cur := 0
  freeCount := 0
  tick := 0
  stopped := false
  places := []
  barriers := []
  peers := []
  pushes := []
  mem := []
  asdBase := 0
  roots := []
  badTargets := []
  regions := []
  pgd := []
  mtus := []
  home := []
  replicas := []
  dirs := []
  hosts := []
  msgs := []
  held := []
  fids := []
  dfrs := []
  zeroing := []
  holdArea := []
  holdWait := []
  unpopulated := []
  rses := []
  scrimWays := []
  scrimCounts := []
  swept := []
  scrimDue := []
  poisonAsks := []
  qresets := []
  gated := []
  gating := []
  retained := []
  storeSeq := []
  ctxAsync := []
  waiters := []
  fenceMask := []
  lateLine := []
  lateHeld := []
  queueSaved := []
  mapSaved := []
  parkPos := []
  progress := []
  lqs := []
  steps := []
  nextStep := []
  cxs := []
  prologues := []
  lqTurn := []
  cpls := []
  reports := []
  traces := []
  dreg := []
  vfEnable := false
  minimal := false
  msix := []
  fusedSvn := 0
  stopTick := none
  tested := 0
  flashA := []
  flashB := []
  throttled := []
  recSlots := []

end Sys2Proof.Machine
end

