-- ==== Sys2Proof/Machine/Base.lean ====
section
/-! DEFINITION. Reading and writing the pieces of State: places, registers, semaphores, physical
memory, device registers, logs and counters. Every special register behaviour (g0, m0) is here. -/
namespace Sys2Proof.Machine

/-- How an instruction or command ends without its effect. -/
inductive Stop where
  /-- a cause, with its DETAIL; precise for a core, posted for an engine (R363) -/
  | trap (code detail : Nat)
  /-- a cause taken after the instruction (SYSCALL) -/
  | trapAfter (code detail : Nat)
  /-- a park event, with PREASON and PARKINFO (R151) -/
  | park (reason info : Nat)
  /-- the wait is unmet: nothing is done yet (R150) -/
  | stall
  deriving DecidableEq, Repr

/-- Meanings: a state and a way to stop. -/
abbrev M := EStateM Stop State

/-- Raise a cause with DETAIL 0. -/
def trap {α} (c : Nat) : M α := throw (.trap c 0)
/-- Raise `c` unless `b` holds. -/
def need (c : Nat) (b : Bool) : M Unit := if b then pure () else trap c
/-- Wait until `b` holds (R230). -/
def waitFor (b : Bool) : M Unit := if b then pure () else throw .stall

/-- `sys.exc` holds FV and OFF; its reserved bits stay 0 (R7, R241). -/
def excFields (w : Word) : Word := w &&& 0x1001FFFFF#64

-- ## Cause codes (R363)
def cIllegal := 0x01
def cPriv := 0x02
def cAlign := 0x03
def cPerm := 0x04
def cSpbound := 0x05
def cRegbound := 0x06
def cPromise := 0x08
def cBreak := 0x09
def cStep := 0x0A
def cSyscall := 0x0B
def cUncaught := 0x0C
def cRingcfg := 0x0D
def cSemovf := 0x0E
def cBarorphan := 0x0F
def cDeferred := 0x10
def cGrant := 0x12
def cWatchdog := 0x13
def cPoison := 0x14
def cHdrfmt := 0x15
def cQreset := 0x16

-- ## Places (R1, R3)

/-- A CC and its SC. -/
def isTile (p : Nat) : Bool := p < 512
/-- The command front end of die p - 512. -/
def isCfe (p : Nat) : Bool := 512 ≤ p && p < 516
/-- Steward core p - 516 (R404). -/
def isSteward (p : Nat) : Bool := 516 ≤ p && p < 520
/-- The die of a place; steward cores sit on IOD0 and use CD0's side. -/
def dieOf (p : Nat) : Nat := if p < 512 then p / 128 else if p < 516 then p - 512 else 0
/-- The tiles of a die. -/
def tilesOf (d : Nat) : List Nat := range (128 * d) 128
/-- Bytes of a place's scratchpad (R48, R404). -/
def spSize (p : Nat) : Nat := if p < 516 then 0x180000 else 0x40000

def State.place (s : State) (p : Nat) : Place := fget (Place.reset p) s.places p
def State.modPlace (s : State) (p : Nat) (f : Place → Place) : State :=
  { s with places := fmod (Place.reset p) s.places p f }
def State.here (s : State) : Place := s.place s.cur
def State.modHere (s : State) (f : Place → Place) : State := s.modPlace s.cur f
/-- Change the place `p`. -/
def onPlace (p : Nat) (f : Place → Place) : M Unit := modify fun s => s.modPlace p f
/-- Change the acting place. -/
def onHere (f : Place → Place) : M Unit := modify fun s => s.modHere f
/-- The acting place. -/
def here : M Place := do return (← get).here

-- ## Core registers (R190, R191)

/-- The core that executes at a place: the SC while the tile is frozen (R357). -/
def Place.core (t : Place) : Core := if t.frozen then t.sc else t.cc
def Place.setCore (t : Place) (c : Core) : Place := if t.frozen then { t with sc := c } else { t with cc := c }
/-- `g[i]`; `g0` reads zero. -/
def Core.getG (c : Core) (i : Nat) : Word := if i = 0 then 0 else fget 0 c.g i
/-- Write `g[i]`; a write of `g0` is discarded. -/
def Core.setG (c : Core) (i : Nat) (v : Word) : Core := if i = 0 then c else { c with g := fset 0 c.g i v }
def Core.getF (c : Core) (i : Nat) : Word := fget 0 c.f i
def Core.setF (c : Core) (i : Nat) (v : Word) : Core := { c with f := fset 0 c.f i v }

def State.g (s : State) (i : Nat) : Word := s.here.core.getG i
def State.setG (s : State) (i : Nat) (v : Word) : State := s.modHere fun t => t.setCore (t.core.setG i v)
def State.f (s : State) (i : Nat) : Word := s.here.core.getF i
def State.setF (s : State) (i : Nat) (v : Word) : State := s.modHere fun t => t.setCore (t.core.setF i v)
def State.pc (s : State) : Word := s.here.core.pc
def State.setPc (s : State) (v : Word) : State := s.modHere fun t => t.setCore { t.core with pc := v }

def rg (i : Nat) : M Word := do return (← get).g i
def wg (i : Nat) (v : Word) : M Unit := modify fun s => s.setG i v
def rf (i : Nat) : M Word := do return (← get).f i
def wf (i : Nat) (v : Word) : M Unit := modify fun s => s.setF i v
/-- The pc of the executing word. -/
def rpc : M Word := do return (← get).pc

/-- Mask registers: `m0` reads all ones and discards writes (R190). -/
def Place.getM (t : Place) (i : Nat) : Word := if i = 0 then BitVec.allOnes 64 else fget 0 t.m i
def Place.setM (t : Place) (i : Nat) (v : Word) : Place := if i = 0 then t else { t with m := fset 0 t.m i v }
def Place.getV (t : Place) (i : Nat) : VReg := fget 0 t.v i
def Place.setV (t : Place) (i : Nat) (v : VReg) : Place := { t with v := fset 0 t.v i v }

/-- Entry `n` of the accumulators; after a light restore an unwritten one is a free value (R154, R301, log 10). -/
def Place.accAt (p : Place) (n : Nat) : Nat :=
  match fget? p.acc n with
  | some v => v.toNat
  | none => if p.accEpoch = 0 then 0 else (Config.freeWord p.accEpoch (0x2000000 + n)).toNat % 2 ^ 32

-- ## Semaphores (R119, R372)

def Place.getSem (t : Place) (n : Nat) : Nat := fget 0 t.sem n
def Place.setSem (t : Place) (n c : Nat) : Place := { t with sem := fset 0 t.sem n c }

-- ## Physical memory (R5, R16)

def State.memByte (s : State) (a : Nat) : Byte := fget 0 s.mem a
def State.setByte (s : State) (a : Nat) (b : Byte) : State := { s with mem := fset 0 s.mem a b }
/-- The bytes `a`, …, `a + n - 1`. -/
def State.memRead (s : State) (a n : Nat) : List Byte := (range a n).map (fget 0 (fslice a n s.mem))
/-- Store bytes from `a` up. -/
def State.memWrite (s : State) (a : Nat) (bs : List Byte) : State :=
  { s with mem := fsplice a bs.length ((fnumber a bs).filter fun e => e.2 != 0) s.mem }
/-- A little-endian number in memory. -/
def State.memNum (s : State) (a n : Nat) : Nat := numOf (s.memRead a n)
def State.memLine (s : State) (a : Nat) : Line := BitVec.ofNat 1024 (s.memNum a 128)
/-- Bits of `new` under the mask, of `old` elsewhere. -/
def blend {w : Nat} (mask old new : BitVec w) : BitVec w := (old &&& ~~~mask) ||| (new &&& mask)
/-- Change the masked bits of the line at `a`. -/
def State.memMerge (s : State) (a : Nat) (mask data : Line) : State :=
  s.memWrite a (bytesOf 128 (blend mask (s.memLine a) data).toNat)
/-- Every listed byte of memory lies in canonical form. -/
def memWf (m : List Host.Cell) : Bool := fwf 0 m

/-- HBM stack of a PA (R16). -/
def stackOf (pa : Nat) : Nat := pa / 0xC00000000
def inHbm (pa : Nat) : Bool := pa < 0x6000000000
def inT2 (pa : Nat) : Bool := 0x100000000000 ≤ pa && pa < 0x200000000000
def inT3 (pa : Nat) : Bool := 0x200000000000 ≤ pa && pa < 0x400000000000
def inDev (pa : Nat) : Bool := 0xF000000000000 ≤ pa && pa < 0x10000000000000
/-- Whether a PA is populated memory (R16, R408). -/
def State.populated (s : State) (pa : Nat) : Bool :=
  (inHbm pa && !s.unpopulated.contains (stackOf pa)) || inT2 pa || inT3 pa
/-- The MTU that owns a PA: 0 to 7 beside the controllers, 8 and 9 on the I/O dies. An address outside every range of R16
has no owner there: that an I/O-die MTU logs it is the model's choice (log 86). -/
def mtuOf (pa : Nat) : Nat :=
  if inHbm pa then stackOf pa
  else if inT2 pa then (if pa < 0x180000000000 then 8 else 9)
  else (if pa < 0x300000000000 then 8 else 9)
/-- Tier 1 to 3 of a frame (R85). -/
def tierOf (pa : Nat) : Nat := if inHbm pa then 1 else if inT2 pa then 2 else 3

-- ## Device registers (R394)

def pkgReg (o : Nat) : Nat := o
def dieReg (d o : Nat) : Nat := 0x100000000 + 0x10000000 * d + o
def iodReg (i o : Nat) : Nat := 0x200000000 + 0x10000000 * i + o
def fnReg (f o : Nat) : Nat := 0x300000000 + 0x10000 * f + o
def tileReg (t o : Nat) : Nat := 0x400000000 + 0x10000 * t + o

/-- The reset value of the register at an offset (R70, R89, R160, R170, R394, R404). -/
def regReset (off : Nat) : Word :=
  if off = 0x30 then 1000
  else if 0x100000000 ≤ off && off < 0x140000000 then
    let o := off % 0x10000000
    if o < 0x800 && o % 0x20 = 0 then BitVec.ofNat 64 (4 * 2 ^ 44)
    else if o = 0x1000 then BitVec.ofNat 64 (64 * 2 ^ 20 + 1 * 2 ^ 12 + 8 * 2 ^ 8 + 3 * 2 ^ 4 + 1)
    else if o = 0x1008 then BitVec.ofNat 64 (2000 * 2 ^ 48 + 500 * 2 ^ 32 + 100 * 2 ^ 16 + 1)
    else if o = 0x1040 then BitVec.ofNat 64 (50 * 2 ^ 48 + 20 * 2 ^ 32 + 128 * 2 ^ 24)
    else if o = 0x1048 then BitVec.ofNat 64 (200 * 2 ^ 48 + 100 * 2 ^ 32 + 64 * 2 ^ 24)
    else if o = 0x1050 then BitVec.ofNat 64 (2000 * 2 ^ 48 + 1000 * 2 ^ 32 + 40 * 2 ^ 24)
    else if o = 0x1058 then BitVec.ofNat 64 (20000 * 2 ^ 48 + 10000 * 2 ^ 32 + 24 * 2 ^ 24)
    else 0
  else if off = iodReg 0 0x6000 ∨ off = iodReg 0 0x6100 ∨ off = iodReg 0 0x6200 ∨ off = iodReg 0 0x6300 then
    BitVec.ofNat 64 (50 * 2 ^ 4)
  else 0

def State.reg (s : State) (off : Nat) : Word := fget (regReset off) s.dreg off
def State.setReg (s : State) (off : Nat) (v : Word) : State := { s with dreg := fset (regReset off) s.dreg off v }
/-- A register as a number. -/
def State.regN (s : State) (off : Nat) : Nat := (s.reg off).toNat
/-- Bits [hi:lo] of a register. -/
def State.regBits (s : State) (off hi lo : Nat) : Nat := bits (s.regN off) hi lo
/-- Change bits [hi:lo] of a register. -/
def State.setRegBits (s : State) (off hi lo v : Nat) : State :=
  s.setReg off (BitVec.ofNat 64 (setBits (s.regN off) hi lo v))
/-- The package's number in the pod (R394). -/
def State.pkgNum (s : State) : Nat := s.regBits 0 9 0

/-- Active quota entry of a function: its 512 bits (R399). -/
def State.quota (s : State) (f : Nat) : Nat :=
  (range 0 8).foldr (fun i a => s.regN (pkgReg (0x3000 + 64 * f + 8 * i)) + 2 ^ 64 * a) 0
def State.quotaValid (s : State) (f : Nat) : Bool := bit (s.quota f) 0
/-- The limits that bind a function: every one is zero while its entry is not valid (R401). -/
def State.limits (s : State) (f : Nat) : Nat := if s.quotaValid f then s.quota f else 0
/-- VFEN bit of a function (R398). -/
def State.fnEnabled (s : State) (f : Nat) : Bool :=
  (if f < 64 then bit (s.regN (pkgReg 0x10)) f else bit (s.regN (pkgReg 0x18)) 0) && (f == 0 || s.vfEnable)

-- ## Rings of records that a unit writes (R45, R107, R177, R415)

/-- PH of record number `n` in a ring of 2^`log`: 1 on the first pass, flipped on each wrap. -/
def phaseBit (n log : Nat) : Nat := 1 - n / 2 ^ log % 2
/-- Put a record of `len` bytes, whose bit 0 is PH, at its slot. -/
def State.putRecord (s : State) (base log n len : Nat) (r : Nat) : State :=
  s.memWrite (base + len * (n % 2 ^ log)) (bytesOf len (setBits r 0 0 (phaseBit n log)))

/-- The next record of a violation log: 16 records in rotation and a wrapping count (R411). -/
def addViol (log : List Viol) (count : Nat) (v : Viol) : List Viol :=
  if count < 16 then log ++ [v] else log.take (count % 16) ++ v :: log.drop (count % 16 + 1)
def State.logTile (s : State) (t : Nat) (v : Viol) : State :=
  s.modPlace t fun p => { p with vlog := addViol p.vlog p.vcount v, vcount := (p.vcount + 1) % 2 ^ 64 }
def Mtu.reset : Mtu := ⟨[], [], [], [], 0, [], 0⟩
def State.mtu (s : State) (m : Nat) : Mtu := fget Mtu.reset s.mtus m
def State.modMtu (s : State) (m : Nat) (f : Mtu → Mtu) : State := { s with mtus := fmod Mtu.reset s.mtus m f }
/-- A record of an MTU's log whose sender is a tile and function of a package, that asked for a right (R411). -/
def State.logMtuBy (s : State) (m addr kind pkg tile vf right : Nat) : State :=
  s.modMtu m fun t => { t with
    vlog := addViol t.vlog t.vcount ⟨s.tick, addr, pkg, tile, vf, right, kind⟩, vcount := (t.vcount + 1) % 2 ^ 64 }
/-- A record of an access that names no sender. -/
def State.logMtu (s : State) (m addr kind : Nat) : State := s.logMtuBy m addr kind 0 0 0 0

-- ## Counters of the loaded context (R419)

/-- Add to a counter of the context loaded on a place. -/
def State.count (s : State) (p n k : Nat) : State :=
  s.modPlace p fun t => { t with cnt := fmod 0 t.cnt n fun c => (c + k) % 2 ^ 64 }
/-- A shared-unit counter event of a die, tagged with a function (R420). -/
def State.event (s : State) (d ev vf n : Nat) : State :=
  (range 0 8).foldl (fun s k =>
    let sel := s.regN (dieReg d (0x1200 + 8 * k))
    if bits sel 7 0 = ev && (bits sel 14 8 = 127 || bits sel 14 8 = vf) then
      s.setReg (dieReg d (0x1240 + 8 * k)) (s.reg (dieReg d (0x1240 + 8 * k)) + BitVec.ofNat 64 n)
    else s) s

/-- A number of a list, chosen freely (log 74): the state without the choice, and the number. -/
def State.choose (s : State) (l : List Nat) : Option (Nat × State) :=
  (nth? l ((Config.freeWord s.freeCount 1).toNat % l.length)).map fun n => (n, { s with freeCount := s.freeCount + 1 })

/-- A free value (log 2). -/
def fresh : M Word := do
  let s ← get
  set { s with freeCount := s.freeCount + 1 }
  return Config.freeWord s.freeCount 0

/-- A push has reserved a slot of a ring of the step on a tile (R344). -/
def State.ownsPush (s : State) (t q : Nat) (p : Push) : Bool := (s.place t).step == some p.step && (s.place t).gpos == p.pos && p.ring == q
/-- The slots of a ring that pushes have reserved. -/
def State.pushSlots (s : State) (t q : Nat) : List Nat := (s.pushes.filter (s.ownsPush t q)).map (·.slot)
/-- Rings are set up anew: what pushes had reserved there is gone. -/
def State.losePushes (s : State) (t : Nat) (rings : Nat → Bool) : State :=
  { s with pushes := s.pushes.map fun p => if s.ownsPush t p.ring p && rings p.ring then { p with slot := 65536 } else p }
/-- Post an asynchronous cause to the context on a tile (R364). -/
def State.post (s : State) (t : Nat) (a : Async) : State := s.modPlace t fun p => { p with async := p.async ++ [a] }
/-- Post one to a context wherever it is: on its tile, or kept until it runs. -/
def State.postCtx (s : State) (ctx : Nat) (a : Async) : State :=
  match s.places.find? fun e => e.1 < 512 && e.2.step.isSome && e.2.ctx == ctx with
  | some (t, _) => s.post t a
  | none => { s with ctxAsync := fmod [] s.ctxAsync ctx fun l => l ++ [a] }

/-- Post one to the context that issued from a tile: there while it runs on it, else wherever it is. -/
def State.postFrom (s : State) (t ctx : Nat) (a : Async) : State :=
  if (s.place t).step.isSome && (s.place t).ctx = ctx then s.post t a else s.postCtx ctx a

-- ## Tile-scope edges (R118 to R120)

/-- What the edges order before an agent of `Place.clock`. -/
def Place.edges (p : Place) (agent : Nat) : FMap Nat := fget [] p.clock agent
/-- The later of two places in every order. -/
def joinEdges (a b : FMap Nat) : FMap Nat := b.foldl (fun m e => fput e.1 (max e.2 (fget 0 m e.1)) m) a
/-- What an agent's release at tile scope orders: its own writes so far, and what stands before them. -/
def Place.released (p : Place) (agent : Nat) : FMap Nat := fput agent p.order (p.edges agent)
/-- An agent acquires what another has released. -/
def Place.acquires (p : Place) (agent : Nat) (e : FMap Nat) : Place := { p with clock := fset [] p.clock agent (joinEdges (p.edges agent) e) }
/-- Agent numbers of `Place.clock`: a queue's own, the CC, a semaphore. -/
def ccAgent : Nat := 6
def semAgent (n : Nat) : Nat := 8 + n
/-- The CC acquires what the drained queues of a mask have done (R121). -/
def Place.acquireQueues (p : Place) (mask : Nat) : Place :=
  (range 0 6).foldl (fun t q => if bit mask q then t.acquires ccAgent (t.released q) else t) p
/-- A signal of an agent to a semaphore is a release at tile scope, a wait an acquire (R119). -/
def Place.releaseTo (p : Place) (agent n : Nat) : Place := p.acquires (semAgent n) (p.released agent)
def Place.acquireFrom (p : Place) (agent n : Nat) : Place := p.acquires agent (p.edges (semAgent n))

/-- Add a signal to a semaphore of a tile, or post SEMOVF for the issuing context (R119, R372). -/
def State.signal (s : State) (t sem n : Nat) (ovf : Async) : State :=
  if n = 0 then s
  else
    let c := (s.place t).getSem sem + n
    if c > 65535 then s.post t ovf else s.modPlace t fun p => p.setSem sem c

-- ## Rings of a tile (R192, R193)

def State.ring (s : State) (t q : Nat) : Ring := fget Ring.reset (s.place t).rings q
def State.setRing (s : State) (t q : Nat) (r : Ring) : State :=
  s.modPlace t fun p => { p with rings := fset Ring.reset p.rings q r }
def Ring.size (r : Ring) : Nat := 2 ^ r.slog
def Ring.filled (r : Ring) : Nat := (r.tail + 65536 - r.head) % 65536
def Ring.slot (r : Ring) (i : Nat) : Nat := r.base + (i % r.size) * 16 * (r.sszm + 1)
/-- Ring state as its 128 bits (R192). -/
def ringBits (q : Nat) (r : Ring) : Nat :=
  r.head * 2 ^ 112 + r.tail * 2 ^ 96 + r.claimed * 2 ^ 80 + r.slog * 2 ^ 76 + r.sszm * 2 ^ 68 + r.scope * 2 ^ 66 +
    b2n r.v * 2 ^ 65 + b2n (q < 6) * 2 ^ 64 + r.base
def ringOfBits (w : Nat) : Ring :=
  ⟨bits w 127 112, bits w 111 96, bits w 95 80, bits w 79 76, bits w 75 68, bits w 67 66, bit w 65, bits w 20 0⟩
/-- Whether a ring lies wholly within scratchpad (R192). -/
def Ring.fits (r : Ring) : Bool := r.base + r.size * 16 * (r.sszm + 1) ≤ 0x180000

def State.engq (s : State) (t q : Nat) : EngQ := fget EngQ.reset (s.place t).q q
def State.setEngq (s : State) (t q : Nat) (e : EngQ) : State :=
  s.modPlace t fun p => { p with q := fset EngQ.reset p.q q e }

end Sys2Proof.Machine
end

