-- ==== Sys2Proof/Machine/Mem.lean ====
section
/-! DEFINITION. Translation at the MTUs, their verdicts, context descriptors and the hold buffer (R10 to R30, R40 to R47,
R141, R148). -/
namespace Sys2Proof.Machine

-- ## Names of regions, granules and lines

def asidCode : Option Nat → Nat
  | none => 0
  | some a => a + 1
def lineCode (k : LineKey) : Nat := k.line + 2 ^ 49 * asidCode k.asid
def regionCode (a : Option Nat) (va : Nat) : Nat := va / 2 ^ 21 % 2 ^ 35 + 2 ^ 35 * asidCode a
def granCode (a : Option Nat) (va : Nat) : Nat := va / 2 ^ 13 % 2 ^ 43 + 2 ^ 43 * asidCode a

/-- The RHT entry that serves a VA: the address space's own, else the global one (R22). -/
def State.region (s : State) (asid : Option Nat) (va : Nat) : Option Region :=
  match asid with
  | none => fget? s.regions (regionCode none va)
  | some a => match fget? s.regions (regionCode (some a) va) with
    | some r => some r
    | none => fget? s.regions (regionCode none va)
def State.regionOf (s : State) (k : LineKey) : Option Region := fget? s.regions (regionCode k.asid k.va)
def State.modRegion (s : State) (asid : Option Nat) (va : Nat) (f : Region → Region) : State :=
  match fget? s.regions (regionCode asid va) with
  | some r => { s with regions := fput (regionCode asid va) (f r) s.regions }
  | none => s
/-- The MTU that HOME and PATH name (R22). -/
def Region.mtu (r : Region) : Nat := if r.path < 2 then 2 * r.home + r.path else 8 + r.home / 2
/-- The home die of a line. -/
def State.homeDie (s : State) (k : LineKey) : Nat := match s.regionOf k with
  | some r => r.home
  | none => k.va / 2 ^ 21 % 4

-- ## Page tables (R12 to R15, R29)

/-- VA bits that index a level. -/
def vaIndex (va lvl : Nat) : Nat := if lvl = 4 then bits va 55 53 else bits va (22 + 10 * lvl) (13 + 10 * lvl)
/-- log2 of the page size of a leaf at a level. -/
def leafBits (lvl : Nat) : Nat := 13 + 10 * lvl
def ptePst (e : Nat) : Nat := bits e 59 58
def pteFrame (e : Nat) : Nat := bits e 51 13 * 2 ^ 13
/-- A leaf that breaks R14. -/
def State.malformed (s : State) (e lvl : Nat) : Bool :=
  lvl ≥ 3 || (lvl = 1 && bits e 22 13 ≠ 0) || (lvl = 2 && bits e 32 13 ≠ 0) ||
    (ptePst e ≠ 2 && !(s.populated (pteFrame e) || inDev (pteFrame e)))

/-- What a walk finds. -/
inductive Walk where
  | leaf (pte lvl : Nat)
  | unmapped
  | table
  deriving DecidableEq, Repr

/-- The walk from level `n - 1`, whose table is at `t`; a table in no populated range answers with an error (R14, R16, R29). -/
def State.walkFrom (s : State) (va : Nat) : Nat → Nat → Walk
  | 0, _ => .table
  | n + 1, t =>
    if !s.populated t then .table
    else
      let e := s.memNum (t + 8 * vaIndex va n) 8
      if !bit e 0 then .unmapped
      else if bit e 1 then (if s.malformed e n then .table else .leaf e n)
      else if n = 0 then .table
      else s.walkFrom va n (pteFrame e)

def State.asdPa (s : State) (asid : Nat) : Nat := s.asdBase + 16 * (asid % 65536)
def State.asd (s : State) (asid : Nat) : Nat := s.memNum (s.asdPa asid) 16
/-- The level-4 table of an address space: a changed ROOT of a valid descriptor waits for a shoot-down (R15). -/
def State.root (s : State) (asid : Nat) : Nat := fget (bits (s.asd asid) 51 6 * 64) s.roots asid
def State.walkPage (s : State) (asid va : Nat) : Walk :=
  if !s.populated (s.asdPa asid) then .table
  else if !bit (s.asd asid) 0 then .unmapped else s.walkFrom va 5 (s.root asid)
/-- `old` with descriptors of the table written: one that stays valid keeps its root, another has none (R15). -/
def State.keepRoots (s old : State) (pa n : Nat) : State :=
  let lo := (max pa s.asdBase - s.asdBase) / 16
  let hi := min 65536 ((pa + n + 15 - s.asdBase) / 16)
  (range lo (hi - lo)).foldl (fun s a =>
    let kept := bit (old.asd a) 0 && bit (s.asd a) 0
    { s with roots := if kept && bits (s.asd a) 51 6 * 64 ≠ old.root a then fput a (old.root a) s.roots else fdel a s.roots }) s

/-- PA of a VA under a leaf. -/
def paOf (pte lvl va : Nat) : Nat := pteFrame pte / 2 ^ leafBits lvl * 2 ^ leafBits lvl + va % 2 ^ leafBits lvl
/-- TLB entry of a page of level `lvl`. -/
def tlbKey (a : Option Nat) (lvl va : Nat) : Nat := (va / 2 ^ leafBits lvl + 2 ^ 43 * asidCode a) * 4 + lvl
def Mtu.cached (m : Mtu) (asid va : Nat) : Option (Nat × Nat) :=
  (([(some asid, 0), (some asid, 1), (some asid, 2), (none, 0), (none, 1), (none, 2)] :
      List (Option Nat × Nat)).findSome? fun (a, l) => (fget? m.tlb (tlbKey a l va)).map fun e => (e.toNat, l))
/-- Entry of the cache of non-leaf entries: that of a level on the path to a VA. -/
def upperKey (asid lvl va : Nat) : Nat := (va / 2 ^ leafBits lvl + 2 ^ 43 * (asid + 1)) * 8 + lvl
/-- The walk from level `n - 1` with the cached non-leaf entries of an MTU; it also answers those it read, and the address
of a table that no populated range holds. -/
def State.walkWith (s : State) (m : Mtu) (asid va : Nat) : Nat → Nat → Walk × List (Nat × Nat) × Option Nat
  | 0, _ => (.table, [], none)
  | n + 1, t =>
    match fget? m.upper (upperKey asid n va) with
    | some e => s.walkWith m asid va n (pteFrame e.toNat)
    | none =>
      if !s.populated t then (.table, [], some t)
      else
        let e := s.memNum (t + 8 * vaIndex va n) 8
        if !bit e 0 then (.unmapped, [], none)
        else if bit e 1 then (if s.malformed e n then .table else .leaf e n, [], none)
        else if n = 0 then (.table, [], none)
        else
          let (w, l, bad) := s.walkWith m asid va n (pteFrame e)
          (w, if s.populated (pteFrame e) then (upperKey asid n va, e) :: l else l, bad)
/-- A full set loses an entry chosen freely (log 74): the keys of the set, and how many it holds. -/
def State.makeRoom (s : State) (set : List Nat) (ways : Nat) : State × Option Nat :=
  if set.length < ways then (s, none)
  else match s.choose set with
    | some (n, s) => (s, some n)
    | none => (s, none)
/-- A leaf enters the TLB: 16,384 entries in sets of 8 (R28). -/
def State.tlbFill (s : State) (mtu key e : Nat) : State :=
  let tlb := (s.mtu mtu).tlb
  let set := if tlb.length < 8 then []
    else (tlb.map (·.1)).filter fun x => x ≠ key && Config.setIndex 0 x % 2048 = Config.setIndex 0 key % 2048
  let (s, out) := s.makeRoom set 8
  s.modMtu mtu fun m => { m with tlb := fput key (BitVec.ofNat 64 e) (match out with | some x => fdel x m.tlb | none => m.tlb) }
/-- A non-leaf entry enters the cache of 512 (R28). -/
def State.upperFill (s : State) (mtu key e : Nat) : State :=
  let (s, out) := s.makeRoom ((s.mtu mtu).upper.map (·.1)) 512
  s.modMtu mtu fun m => { m with upper := fput key (BitVec.ofNat 64 e) (match out with | some x => fdel x m.upper | none => m.upper) }

/-- The function to which events of a VA's region are tagged (R420): that of its entry. -/
def State.pageFn (s : State) (asid va : Nat) : Nat := match s.region (some asid) va with
  | some r => r.perm.vf
  | none => 127
/-- The translation an MTU gives: a cached resident leaf, else a walk, whose resident leaf it caches. -/
def State.translate (s : State) (mtu asid va : Nat) : State × Walk :=
  match (s.mtu mtu).cached asid va with
  | some (e, l) => (s, .leaf e l)
  | none =>
    let vf := s.pageFn asid va
    let s := (s.event (mtu / 2 % 4) 0x05 vf 1).event (mtu / 2 % 4) 0x06 vf 1
    if !s.populated (s.asdPa asid) then (s.logMtu (mtuOf (s.asdPa asid)) (s.asdPa asid) 3, .table)
    else if !bit (s.asd asid) 0 then (s, .unmapped)
    else
      let (w, l, bad) := s.walkWith (s.mtu mtu) asid va 5 (s.root asid)
      let s := l.foldl (fun s e => s.upperFill mtu e.1 e.2) s
      let s := match bad with
        | some t => s.logMtu (mtuOf t) t 3
        | none => s
      match w with
      | .leaf e l => (if ptePst e = 0 then s.tlbFill mtu (tlbKey (if bit e 56 then none else some asid) l va) e else s, .leaf e l)
      | w => (s, w)

-- ## Page directory (R87, R88)

def State.gran (s : State) (a : Option Nat) (va : Nat) : Option Pgd := fget? s.pgd (granCode a va)
def State.modGran (s : State) (a : Option Nat) (va : Nat) (f : Pgd → Pgd) : State :=
  match s.gran a va with
  | some p => { s with pgd := fput (granCode a va) (f p) s.pgd }
  | none => s
def Pgd.clean (p : Pgd) : Bool := p.lv && !p.dirty

-- ## Verdicts (R40)

/-- The MTU's verdict on a fill or write-back of a line. -/
inductive Verdict where
  /-- resident: the line's PA and the leaf -/
  | ok (pa pte : Nat)
  | unmapped
  | table
  /-- PST migrating or absent -/
  | away (pst pte : Nat)
  | poison (clean : Bool) (pte : Nat)
  | hostErr
  deriving DecidableEq, Repr

/-- A host or CXL target that answers with errors (R40). -/
def State.targetFails (s : State) (pa : Nat) : Bool := (inT2 pa || inT3 pa) && s.badTargets.contains (pa / 8192)
/-- State of a line's granule under its leaf: PST, but the page directory decides inside a poisoned large page, and of a
granule whose poison the PTE does not say yet (R88, R104). -/
def State.pstAt (s : State) (k : LineKey) (e l : Nat) : Nat :=
  match s.gran k.asid k.va with
  | some p => if ptePst e = 3 && l > 0 then p.st else if p.st = 3 then 3 else ptePst e
  | none => ptePst e
/-- The verdict on a line of `asid` (R14, R40, R88, R104). -/
def State.verdict (s : State) (asid : Nat) (k : LineKey) : State × Verdict :=
  match s.regionOf k with
  | none => match s.walkPage asid k.va with
    | .table => (s, .table)
    | _ => (s, .unmapped)
  | some r =>
    let (s, w) := s.translate r.mtu asid k.va
    match w with
    | .unmapped => (s, .unmapped)
    | .table => (s, .table)
    | .leaf e l =>
      let st := s.pstAt k e l
      if st = 0 then
        let pa := paOf e l k.va
        if !s.populated pa then (s.logMtu (mtuOf pa) pa 3, .hostErr)
        else if s.targetFails pa then (s, .hostErr)
        else (s, .ok pa e)
      else if st = 3 then (s, .poison (match s.gran k.asid k.va with | some p => p.clean | none => false) e)
      else (s, .away st e)

/-- The oldest held write of a line (R43). -/
def State.heldOf (s : State) (k : LineKey) : Option Held := s.held.find? fun h => h.key == k

-- ## Context descriptors (R141, R148)

def State.ctxdPa (s : State) (h : Nat) : Nat :=
  s.regBits (dieReg (h / 16384 % 4) 0x1060) 51 23 * 2 ^ 23 + 512 * (h % 16384)
/-- CTXD bits [hi:lo] of a context. -/
def State.ctxd (s : State) (h hi lo : Nat) : Nat :=
  bits (s.memNum (s.ctxdPa h + lo / 64 * 8) (8 * (hi / 64 - lo / 64 + 1))) (hi - lo / 64 * 64) (lo % 64)
def State.setCtxd (s : State) (h hi lo v : Nat) : State :=
  let a := s.ctxdPa h + lo / 64 * 8
  let n := 8 * (hi / 64 - lo / 64 + 1)
  s.memWrite a (bytesOf n (setBits (s.memNum a n) (hi - lo / 64 * 64) (lo % 64) v))

def State.ctxState (s : State) (h : Nat) : Nat := s.ctxd h 63 61
def State.ctxReason (s : State) (h : Nat) : Nat := s.ctxd h 60 57
def State.ctxVf (s : State) (h : Nat) : Nat := s.ctxd h 50 44
def State.ctxAsid (s : State) (h : Nat) : Nat := s.ctxd h 43 28
/-- A context is running on the place. -/
def State.runs (s : State) (t ctx : Nat) : Bool := (s.place t).step.isSome && (s.place t).ctx == ctx

-- ## Hold buffer (R42 to R46)

/-- The provenance of a sector that no context stored to: a host's data, a steward core's or a CFE's write (log 39). -/
def Prov.none : Prov := ⟨65536, Option.none, 0, 0, 0, 0, 0, []⟩
/-- The provenance of the lowest of the sectors `secs`: whose quota a line fills, and whom its records name (log 72). -/
def firstProv (prov : FMap Prov) (secs : Nat) : Prov :=
  ((range 0 4).find? fun i => bit secs i).elim Prov.none fun i => fget Prov.none prov i
/-- Provenance of a sector after a store: the class mask grows while the context stays (R42). -/
def Prov.join (old : Option Prov) (new : Prov) : Prov := match old with
  | some o => if o.ctx = new.ctx then
      { new with mask := o.mask ||| new.mask
                 agents := new.agents.foldl (fun m e => fput e.1 (min e.2 ((fget? m e.1).getD e.2)) m) o.agents }
    else new
  | Option.none => new
/-- Provenance of the sectors `secs` after a store with provenance `p`, `dirty` being dirty before it. -/
def mergeProv (old : FMap Prov) (secs : Nat) (dirty : Nat) (p : Prov) : FMap Prov :=
  (range 0 4).foldl (fun m i => if bit secs i then fput i (Prov.join (if bit dirty i then fget? m i else none) p) m else m) old
/-- Provenance of the sectors `secs` that arrive with provenance `new` over sectors of which `dirty` are dirty. -/
def takeProv (old : FMap Prov) (dirty : Nat) (new : FMap Prov) (secs : Nat) : FMap Prov :=
  (range 0 4).foldl (fun m i => if bit secs i then
    (match fget? new i with | some p => fput i (Prov.join (if bit dirty i then fget? m i else none) p) m | none => fdel i m) else m) old

/-- The tile on which a context runs, that of the store if it runs there. -/
def State.runsOn (s : State) (p : Prov) : Option Nat :=
  if s.runs p.tile p.ctx then some p.tile else (s.places.find? fun e => e.1 < 512 && s.runs e.1 p.ctx).map (·.1)
/-- pc of a CC store from the store log: of its tile while the context runs, else of the context's store-log area (R46,
log 9). -/
def State.storePc (s : State) (p : Prov) : Option Nat :=
  let slot := p.seq % 4096
  match s.runsOn p with
  | some t => match fget? (s.place t).slog slot with
    | some (q, pc) => if q = p.seq then some pc.toNat else none
    | none => none
  | none =>
    let va := s.ctxd p.ctx 439 384
    match s.walkPage p.asid (va + 16 * slot) with
    | .leaf e l =>
      let pa := paOf e l (va + 16 * slot)
      if s.memNum pa 4 = p.seq then some (s.memNum (pa + 8) 8) else none
    | _ => none

/-- The record an MTU writes of a held line; of sectors with different provenances it names that of the lowest (R45, log 72).
KIND 0 HELD, 1 PERFORMED, 2 DISCARDED. -/
def State.dfrBits (s : State) (h : Held) (kind : Nat) : Nat :=
  let p := firstProv h.prov h.secs
  let pc := if p.queue.isSome then none else s.storePc p
  s.tick % 2 ^ 64 * 2 ^ 448 + pc.getD 0 * 2 ^ 384 + h.key.va * 2 ^ 328 + p.seq * 2 ^ 288 + h.fid * 2 ^ 256 +
    p.ctx % 65536 * 2 ^ 240 + (h.key.asid.getD 0) * 2 ^ 224 + p.tile % 512 * 2 ^ 215 + h.vf * 2 ^ 208 +
    h.cause * 2 ^ 200 + h.secs * 2 ^ 196 + h.pst * 2 ^ 194 + h.tier * 2 ^ 192 + (p.queue.getD 0) * 2 ^ 189 +
    b2n p.queue.isSome * 2 ^ 188 + b2n pc.isSome * 2 ^ 187 + b2n h.overflow * 2 ^ 186 + kind * 2 ^ 184 +
    p.mask * 2 ^ 168
/-- Queue the deferred-fault record of a held line (R45). -/
def State.dfr (s : State) (h : Held) (kind : Nat) : State := { s with dfrs := s.dfrs ++ [⟨h.vf, s.dfrBits h kind, h.die⟩] }

/-- Room for one more held line of a function on a die: in the hold buffer, whose 4,096 lines are divided by quotas, or in
its overflow area (R43); the answer says which. -/
def State.holdRoom (s : State) (die vf : Nat) : Option Bool :=
  let here := s.held.filter fun h => h.die == die && !h.overflow
  if (here.filter fun h => h.vf == vf).length < bits (s.limits vf) 153 141 && here.length < 4096 then some false
  else if (s.held.filter fun h => h.vf == vf && h.overflow).length < fget 0 s.holdArea vf then some true
  else none

/-- The bits of the sectors of a mask. -/
def secMask (n : Nat) : Line := (range 0 4).foldl (fun m i => if bit n i then m ||| ((BitVec.allOnes 256).zeroExtend 1024 <<< (256 * i)) else m) 0
/-- The sectors a bit mask touches. -/
def secsOf (m : Line) : Nat := (range 0 4).foldl (fun a i => if (m.toNat / 2 ^ (256 * i) % 2 ^ 256) = 0 then a else a + 2 ^ i) 0

/-- What the page of a line is now: PST, and the tier of its frame, 0 where it has none (R45). -/
def State.pageNow (s : State) (asid : Nat) (k : LineKey) : Nat × Nat :=
  match s.walkPage asid k.va with
  | .leaf e l => (ptePst e, if ptePst e = 2 then 0 else match s.gran k.asid k.va with
    | some p => p.tier
    | none => tierOf (paOf e l k.va))
  | _ => (0, 0)
/-- The cause of a refused write, and the page state it met (R45). -/
def Verdict.cause : Verdict → Option Nat → Nat × Nat
  | .unmapped, pst => (4, pst.getD 0)
  | .table, pst => (6, pst.getD 0)
  | .away st _, _ => (if st = 1 then 2 else 1, st)
  | .poison _ _, _ => (3, 3)
  | .hostErr, pst => (7, pst.getD 0)
  | .ok _ e, _ => (5, ptePst e)
/-- Hold a write of the sectors that `mask` touches; `none` when neither place has room (R43). -/
def State.hold (s : State) (k : LineKey) (mask data : Line) (prov : FMap Prov) (v : Verdict) (poisoned : Bool) : Option State :=
  let die := s.homeDie k
  let secs := secsOf mask
  let p := firstProv prov secs
  let (pst, tier) := s.pageNow p.asid k
  let (cause, pst) := match s.heldOf k with
    | some h => (h.cause, pst)
    | none => v.cause (some pst)
  match s.holdRoom die p.vf with
  | none => none
  | some ov =>
    let fid := fget 0 s.fids (die * 128 + p.vf)
    let h : Held := ⟨die, k, mask, data, secs, prov.filter fun e => bit secs e.1, p.vf, cause, pst, tier, fid, ov, poisoned⟩
    some (({ s with held := s.held ++ [h], fids := fset 0 s.fids (die * 128 + p.vf) ((fid + 1) % 2 ^ 32) }.event die 0x07 p.vf 1).dfr h 0)
/-- The function's next store that misses its L1 parks (R43). -/
def State.holdBlocked (s : State) (vf : Nat) : State := { s with holdWait := addTo s.holdWait vf }
/-- A function's stores go on once there is room to hold one more line. -/
def State.roomAgain (s : State) (vf : Nat) : State :=
  if (range 0 4).any fun d => (s.holdRoom d vf).isSome then { s with holdWait := remove s.holdWait vf } else s
/-- The number by which a held line is known to its die and function. -/
def Held.code (h : Held) : Nat := (h.die * 128 + h.vf) * 2 ^ 32 + h.fid
/-- Held writes of a command: its context, queue and sequence stand in their provenance. -/
def State.holdsOf (s : State) (ctx queue seq : Nat) : Bool :=
  s.held.any fun h => h.prov.any fun e => e.2.ctx == ctx && e.2.queue == some queue && e.2.seq == seq

end Sys2Proof.Machine
end

