-- ==== Sys2Proof/Machine/Cache.lean ====
section
/-! DEFINITION. The coherence of L1s, home partitions, replicas and the host, and the ways and sets that hold them (R53 to
R75, R83, R108 to R135). -/
namespace Sys2Proof.Machine

-- ## Lines and where they lie

def Dir.empty (k : LineKey) : Dir := ⟨k, none, [], [], [], []⟩
def State.dir (s : State) (k : LineKey) : Dir := fget (Dir.empty k) s.dirs (lineCode k)
def State.setDir (s : State) (k : LineKey) (d : Dir) : State := { s with dirs := fset (Dir.empty k) s.dirs (lineCode k) d }
def L1Line.empty (k : LineKey) : L1Line := ⟨k, .i, 0, 0, 0, 0, [], false, false, 0, []⟩
def State.l1 (s : State) (t : Nat) (k : LineKey) : L1Line := fget (L1Line.empty k) (s.place t).l1 (lineCode k)
def State.setL1 (s : State) (t : Nat) (l : L1Line) : State :=
  s.modPlace t fun p => { p with l1 := fset (L1Line.empty l.key) p.l1 (lineCode l.key) l }
/-- A way that no line has: the buffer of a line on its way to its frame. -/
def noWay : Nat := 24
def HomeLine.empty (k : LineKey) : HomeLine := ⟨k, noWay, none, 0, 0, 0, [], 0, false, false, false⟩
def State.homeLine (s : State) (k : LineKey) : Option HomeLine := fget? s.home (lineCode k)
def State.setHome (s : State) (h : HomeLine) : State := { s with home := fput (lineCode h.key) h s.home }
def replicaKey (d : Nat) (k : LineKey) : Nat := 4 * lineCode k + d
def State.replica (s : State) (d : Nat) (k : LineKey) : Option Line := (fget? s.replicas (replicaKey d k)).map (·.2)
def State.dropReplica (s : State) (d : Nat) (k : LineKey) : State := { s with replicas := fdel (replicaKey d k) s.replicas }
/-- Scrim ways of a die: the value in effect (R58). -/
def State.ways (s : State) (d : Nat) : Nat := fget 8 s.scrimWays d
/-- The key a line code stands for. -/
def lineOf (code : Nat) : LineKey := ⟨if code / 2 ^ 49 = 0 then none else some (code / 2 ^ 49 - 1), code % 2 ^ 49⟩
/-- Slice and set of the L2 in which a line lies (R57). -/
def l2Set (va : Nat) : Nat := (bits va 9 7 ^^^ bits va 12 10) * 4096 + bits va 21 10

def State.hostSt (s : State) (pa : Nat) : HState := fget .i s.hosts (pa / 128)
def State.setHost (s : State) (pa : Nat) (h : HState) : State := { s with hosts := fset .i s.hosts (pa / 128) h }
/-- The line that a device-homed frame is mapped at, from the owning MTU's reverse map (R21). -/
def State.reverse (s : State) (pa : Nat) : Option LineKey :=
  (fget? (s.mtu (mtuOf pa)).rmap (pa / 8192)).map fun (va, g, asid) =>
    ⟨if g then none else some asid, (va * 8192 + pa % 8192) / 128⟩
/-- An event of a region's replicas on a die, which the die reports at its sweep (R67): hits and evictions. -/
def State.scrimCount (s : State) (d : Nat) (k : LineKey) (hits evicts : Nat) : State :=
  { s with scrimCounts := fmod (0, 0) s.scrimCounts (4 * regionCode k.asid k.va + d) fun c => (c.1 + hits, c.2 + evicts) }

-- ## Messages

def State.hasMsg (s : State) (p : Msg → Bool) : Bool := s.msgs.any p
def State.send (s : State) (m : Msg) : State := { s with msgs := s.msgs ++ [m] }
def State.sendOnce (s : State) (m : Msg) : State := if s.msgs.contains m then s else s.send m
def State.unsend (s : State) (m : Msg) : State := { s with msgs := s.msgs.erase m }
def grantFor (k : LineKey) : Msg → Bool
  | .grant _ k' _ _ _ _ _ => k' == k
  | _ => false
/-- Whether some L1 carries the pending-skim mark of a line (R63). -/
def State.marked (s : State) (k : LineKey) : Bool := s.places.any fun e => (s.l1 e.1 k).mark
/-- The directory cannot serve the line now: a grant is on its way, or the owner answers no request
(R61, R112). -/
def State.lineBusy (s : State) (k : LineKey) : Bool :=
  s.hasMsg (grantFor k) || (match (s.dir k).own with
    | some o => (s.l1 o k).hide
    | none => s.places.any fun e => (s.l1 e.1 k).hide)
/-- The gating sequence of a die has begun: its contexts are out, and its caches are being emptied (R83). -/
def State.gatingNow (s : State) (d : Nat) : Bool :=
  (fget? s.gating d).isSome && (tilesOf d).all fun t => (s.place t).step.isNone && (s.place t).switch.isNone
/-- Requests for the line wait until the gating sequence of its home die ends (R83). -/
def State.closed (s : State) (k : LineKey) : Bool := s.gatingNow (s.homeDie k)
/-- No grant, skim or hidden write of the line is under way. -/
def State.lineQuiet (s : State) (k : LineKey) : Bool := !s.lineBusy k && (s.dir k).k.isEmpty && !s.marked k

-- ## Copies go away

/-- Invalidate an L1 copy; stores of state W stay and wait for a new grant, and a pending-skim mark stays with what the
release rules ask of it (R63). -/
def State.invalL1 (s : State) (t : Nat) (k : LineKey) : State :=
  let l := s.l1 t k
  s.setL1 t { l with st := .i, data := 0, valid := 0, dirty := 0, bad := 0, prov := if l.mark then l.prov else []
                     hide := l.mark && l.hide, wide := if l.mark then l.wide else 0 }
/-- Invalidate every L1 copy on a die but one tile's (R59). -/
def State.invalDie (s : State) (d : Nat) (k : LineKey) (keep : Option Nat) : State :=
  (s.places.filter fun e => e.1 < 512 && dieOf e.1 == d && some e.1 != keep).foldl (fun s e => s.invalL1 e.1 k) s
/-- A skim reaches a die: its replica and, unless only replicas are skimmed, its L1 copies become
invalid, and the die acknowledges (R61). -/
def State.deliverSkim (s : State) (die : Nat) (k : LineKey) (only : Bool) : State :=
  let s := (s.unsend (.skim die k only)).dropReplica die k
  let s := if only then s else s.invalDie die k none
  s.send (.ack die k only)
/-- Skims already sent to a die are delivered before later data (R62). -/
def State.deliverSkims (s : State) (die : Nat) (k : LineKey) : State :=
  let s := if s.msgs.contains (.skim die k false) then s.deliverSkim die k false else s
  if s.msgs.contains (.skim die k true) then s.deliverSkim die k true else s

-- ## The home partition

/-- The function to which events about a line are tagged (R420): that of its region. -/
def State.lineFn (s : State) (k : LineKey) : Nat := match s.regionOf k with
  | some r => r.perm.vf
  | none => 127
/-- Flits that a message of a kind from one die to another puts on the sender's UCIe link (R420, log 90): kind 0 a request or
notice, 1 one that carries a line. -/
def State.flits (s : State) (src dst kind vf : Nat) : State := if src = dst then s else s.event src 0x0A vf (Config.flits kind)
/-- Units of 64 bytes that a mask touches. -/
def halves (m : Line) : Nat := (if m.toNat % 2 ^ 512 = 0 then 0 else 1) + (if m.toNat / 2 ^ 512 = 0 then 0 else 1)
/-- Forget a line of the home partition. -/
def State.dropHome (s : State) (k : LineKey) : State := { s with home := fdel (lineCode k) s.home }
/-- The PA of a line of which the host, or of whose host line the package, holds something (R72, R75). -/
def State.hostPa (s : State) (k : LineKey) : Option Nat := (s.hosts.find? fun e => s.reverse (128 * e.1) == some k).map (128 * ·.1)
/-- A host line of which the package keeps no copy is in I (R72); `pa` where its frame is known. -/
def State.unkept (s : State) (k : LineKey) (pa : Option Nat) : State :=
  let d := s.dir k
  if (s.homeLine k).isSome || d.own.isSome || !d.l.isEmpty || !d.p.isEmpty then s
  else match pa.or (s.hostPa k) with
    | some pa => if inT3 pa then s.setHost pa .i else s
    | none => s
/-- The lowest way of `n`, from `lo`, that a list does not name. -/
def freeWay (lo n : Nat) (used : List Nat) : Option Nat := (range lo n).find? fun w => !used.contains w
/-- The other lines of the home partition in a line's set. -/
def State.homeMates (s : State) (k : LineKey) : List HomeLine :=
  (s.home.map (·.2)).filter fun h => h.key != k && h.way ≠ noWay && s.homeDie h.key = s.homeDie k && l2Set h.key.va = l2Set k.va
/-- The first way of a line's set in the home partition that is free (R58). -/
def State.openWay (s : State) (k : LineKey) : Option Nat :=
  let lo := s.ways (s.homeDie k)
  freeWay lo (24 - lo) ((s.homeMates k).map (·.way))
/-- A new line of the home partition, in the way that is open for it. -/
def State.newHome (s : State) (k : LineKey) : HomeLine := { HomeLine.empty k with way := (s.openWay k).getD noWay }
/-- A granule is poisoned: the detecting MTU sets STATE and asks the residency engine to PROTECT and SHOOT the page;
`copy` keeps its clean copy (R104). -/
def State.poison (s : State) (a : Option Nat) (va : Nat) (copy : Bool) : State :=
  match s.gran a va with
  | none => s
  | some p =>
    let s := s.modGran a va fun p => { p with st := 3, lv := p.lv && copy }
    if p.st = 3 then s else { s with poisonAsks := addTo s.poisonAsks (granCode a va) }
/-- Write masked bits of a line to its frame (R88). -/
def State.toFrame (s : State) (k : LineKey) (pa : Nat) (mask data : Line) : State :=
  let s := (s.memMerge pa mask data).modGran k.asid k.va fun p => { p with dirty := true }
  if inHbm pa then s.event (stackOf pa / 2) 0x09 (s.lineFn k) (halves mask) else s

/-- Put sectors of a line into the home partition (R61); while the home die is gated they go on to memory (R83). -/
def State.toHome (s : State) (k : LineKey) (data : Line) (dirty bad : Nat) (prov : FMap Prov) : State :=
  if dirty = 0 then s
  else
    let h := (s.homeLine k).getD (s.newHome k)
    s.setHome { h with
      data := blend (secMask dirty) h.data data, valid := h.valid ||| dirty, dirty := h.dirty ||| dirty
      poisoned := (h.poisoned ^^^ (h.poisoned &&& dirty)) ||| (bad &&& dirty), prov := takeProv h.prov h.dirty prov dirty }
/-- The owner sends its dirty sectors to the home partition and keeps the line in S (R61). -/
def State.downgrade (s : State) (k : LineKey) : State :=
  let d := s.dir k
  match d.own with
  | none => s
  | some o =>
    let l := s.l1 o k
    let s := (s.toHome k l.data l.dirty l.bad l.prov).setL1 o { l with st := .s, dirty := 0, bad := 0, prov := if l.mark then l.prov else [] }
    if dieOf o = s.homeDie k then s.setDir k { d with own := none, l := addTo d.l o }
    else s.setDir k { d with own := none, p := addTo d.p (dieOf o) }
/-- The owner sends its dirty sectors to the home partition and gives up its copy; it is not skimmed (R61). -/
def State.ownerYields (s : State) (k : LineKey) : State :=
  let d := s.dir k
  match d.own with
  | none => s
  | some o =>
    let l := s.l1 o k
    ((s.toHome k l.data l.dirty l.bad l.prov).invalL1 o k).setDir k { d with own := none }
/-- Take every copy of a line away: the owner yields, home-die copies are invalid at once, other dies are skimmed. `now`
waits for the acknowledgements, which an ownership grant leaves to K (R55, R61). Answers the dies skimmed. -/
def State.revoke (s : State) (k : LineKey) (except : Option Nat) (now : Bool) : State × List Nat :=
  let s := s.ownerYields k
  let e := s.dir k
  let hd := s.homeDie k
  let s := s.invalDie hd k except
  let own := except.map dieOf
  let s := match own with
    | some d => if d = hd then s else (s.invalDie d k except).dropReplica d k
    | none => s
  let dies := e.p.filter fun d => some d != own && d != hd
  let s := s.modRegion k.asid k.va fun r =>
    { r with skims := (r.skims + dies.length) % 2 ^ 32, skimp := if dies.isEmpty || now then r.skimp else min 0xFF (r.skimp + 1) }
  let s := s.event hd 0x04 (s.lineFn k) dies.length
  let s := dies.foldl (fun s d => s.flits hd d 0 (s.lineFn k)) s
  let s := if now then dies.foldl (fun s d => (s.invalDie d k none).dropReplica d k) s
    else dies.foldl (fun s d => s.send (.skim d k false)) s
  (s.setDir k { e with own := none, l := [], p := [], q := [], k := if now then e.k else dies }, dies)

/-- The write-back of a home line's dirty sectors: performed, or held with its cause, every copy of the line going before;
with no room the line stays hold-pending (R40, R43, R132). A poisoned sector poisons the granule (R65, R104). -/
def State.writeBack (s : State) (k : LineKey) : State :=
  match s.homeLine k with
  | none => s
  | some h =>
    if h.dirty = 0 then s
    else
      let p := firstProv h.prov h.dirty
      let refuse (s : State) (v : Verdict) : State :=
        if s.lineBusy k then s.setHome { h with waits := true }
        else
          let s := (s.revoke k none true).1
          let h := (s.homeLine k).getD h
          match s.hold k (secMask h.dirty) h.data h.prov v (h.poisoned &&& h.dirty ≠ 0) with
          | some s => { s with home := fdel (lineCode k) s.home }
          | none => (s.setHome { h with waits := true }).holdBlocked p.vf
      if (s.heldOf k).isSome then refuse s .unmapped
      else
        let (s, v) := s.verdict (k.asid.getD p.asid) k
        match v with
        | .ok pa e =>
          if bit e 53 then
            let s := (s.toFrame k pa (secMask h.dirty) h.data).setHome { h with pa := some pa, dirty := 0, prov := [], poisoned := 0, noSa := false, waits := false }
            let s := if h.noSa && (s.hostSt pa == .s || s.hostSt pa == .e) then (s.setHost pa .i).event (s.homeDie k) 0x0B p.vf 1 else s
            if h.poisoned &&& h.dirty ≠ 0 then s.poison k.asid k.va false else s
          else refuse s v
        | v => refuse s v
/-- Write a line back and forget it, if nothing of it stays dirty. -/
def State.cleanOut (s : State) (k : LineKey) : State :=
  let s := s.writeBack k
  match s.homeLine k with
  | some h => if h.dirty = 0 then s.dropHome k else s
  | none => s
/-- What a gated die's home partition takes goes on to memory at once; a host line whose last copy has left is in I (R72,
R83). -/
def State.passOn (s : State) (k : LineKey) : State :=
  if s.gated.contains (s.homeDie k) then
    let pa := (s.homeLine k).bind (·.pa)
    (s.cleanOut k).unkept k pa
  else s
/-- A line leaves the home partition. The device evicts a host line as a whole: its copies go too (R72). -/
def State.evictHome (s : State) (k : LineKey) : State :=
  let pa := (s.homeLine k).bind (·.pa)
  ((if pa.any inT3 then (s.revoke k none true).1 else s).cleanOut k).unkept k pa
/-- An open way of the home partition for a line, a victim chosen freely having left; none while every way of the set is
pinned, hold-pending, of a line under way or of one that cannot be written back (R43, R57, R58). -/
def State.homeRoom (s : State) (k : LineKey) : Option State :=
  if (s.homeLine k).isSome || (s.openWay k).isSome then some s
  else
    let able := (s.homeMates k).filter fun h =>
      !h.pinned && !h.waits && s.lineQuiet h.key && ((s.evictHome h.key).homeLine h.key).isNone
    (s.choose (able.map fun h => lineCode h.key)).map fun (c, s) => s.evictHome (lineOf c)
/-- Room in the home partition for what a line's owner would send there. -/
def State.ownerRoom (s : State) (k : LineKey) : Option State :=
  match (s.dir k).own with
  | some o => if (s.l1 o k).dirty = 0 then some s else s.homeRoom k
  | none => some s
def needHome (k : LineKey) : M Unit := do
  match (← get).homeRoom k with
  | some s => set s
  | none => throw .stall
/-- The home partition's line with every sector valid; the others come from its frame. `v` must be the resident verdict. -/
def State.fillHome (s : State) (k : LineKey) (pa : Nat) : State × HomeLine :=
  let h := (s.homeLine k).getD (s.newHome k)
  if h.valid = 15 then
    let h := { h with pa := some pa }
    (s.setHome h, h)
  else
    let old := h.valid
    let h := { h with pa := some pa, data := blend (secMask h.valid) (s.memLine pa) h.data, valid := 15 }
    let s := s.setHome h
    (if inHbm pa then s.event (stackOf pa / 2) 0x08 (s.lineFn k) (halves (secMask (15 - old))) else s, h)

-- ## The directory's own entries (R59)

/-- Set of the home directory in which a line's entry lies (log 74). -/
def dirSet (code : Nat) : Nat := Config.setIndex 1 code % 65536
/-- The host's copy of a device-homed line (R75). -/
def State.hostCopy (s : State) (k : LineKey) : Option Nat := (s.hostPa k).filter fun pa => !inT3 pa
/-- Whether a line's entry has a way of its set. An entry chosen freely leaves with every copy that it tracks: the device's at
once, a host's when the host has answered its invalidation. -/
def State.dirRoom (s : State) (k : LineKey) : State × Bool :=
  if s.dirs.length + s.hosts.length < 16 || (fget? s.dirs (lineCode k)).isSome then (s, true)
  else
    let d := s.homeDie k
    let mine (c : Nat) : Bool := dirSet c = dirSet (lineCode k) && s.homeDie (lineOf c) = d
    let set := (s.dirs.filter fun e => mine e.1).map (·.1)
    let hosts := (s.hosts.filterMap fun e => if inT3 (128 * e.1) then none else (s.reverse (128 * e.1)).map lineCode).filter fun c =>
      mine c && !set.contains c
    if set.length + hosts.length < 16 then (s, true)
    else if (set ++ hosts).any fun c => s.msgs.contains (.toHost (lineOf c) 4) then (s, false)
    else match s.choose ((set ++ hosts).filter fun c => s.lineQuiet (lineOf c) && (s.ownerRoom (lineOf c)).isSome) with
      | none => (s, false)
      | some (c, s) =>
        let v := lineOf c
        if (s.hostCopy v).isSome then (s.sendOnce (.toHost v 4), false)
        else ((((s.ownerRoom v).getD s).revoke v none true).1.passOn v, true)
def needDir (k : LineKey) : M Unit := do
  let (s, room) := (← get).dirRoom k
  set s
  waitFor room

-- ## Accesses

/-- Who makes an access: tile or place, address space, function, context, and the engine queue. -/
structure Acc where
  place : Nat
  asid : Nat
  vf : Nat
  ctx : Nat
  queue : Option Nat
  seq : Nat
  deriving DecidableEq, Repr

/-- The agent of a tile as releases know it (R120): a queue, or the CC. -/
def Acc.agent (a : Acc) : Nat := a.queue.getD ccAgent
/-- The provenance of a store of an agent at a place in its tile's program order. -/
def Acc.prov (a : Acc) (seq mask order : Nat) : Prov :=
  ⟨a.ctx, a.queue, seq, mask, a.place, a.vf, a.asid, if isTile a.place then [(8 * a.place + a.agent, order)] else []⟩
/-- The line a VA lies in: without an ASID when its region is global (R11, R53). -/
def State.keyOf (s : State) (asid va : Nat) : LineKey :=
  match s.region (some asid) va with
  | some r => ⟨r.asid, va / 128⟩
  | none => ⟨some asid, va / 128⟩

/-- The first access to a region sets PLACED, and HOME when it carries a home-die hint (R24). -/
def State.touch (s : State) (k : LineKey) (hint : Option Nat) : State :=
  s.modRegion k.asid k.va fun r => if r.placed then r else { r with placed := true, home := hint.getD r.home }
/-- What a read, fetch, atomic or CDROP takes from a verdict other than resident (R40, R105). -/
def stopOf (k : LineKey) : Verdict → Stop
  | .ok _ _ => .stall
  | .unmapped | .table | .hostErr => .trap cPerm 0
  | .away _ _ => .park 1 k.va
  | .poison true _ => .park 3 k.va
  | .poison false _ => .trap cPoison 0

/-- What the host must be asked before the device reads, or owns, a line (R72, R75, R395); `noSa` leaves the state of a
host line alone (R73). `none` when nothing is to be asked. -/
def State.hostAsk (s : State) (k : LineKey) (pa : Nat) (own noSa : Bool) : Option Nat :=
  let h := s.hostSt pa
  if inT3 pa then
    match h, own && (!noSa || h == .o) with
    | .i, false => some 0
    | .i, true => some 1
    | .s, true => some 2
    | .o, true => some 2
    | _, _ => none
  else
    match h, own with
    | .i, _ => none
    | _, true => some 4
    | .s, false => none
    | .o, false => if (s.homeLine k).any fun l => l.valid = 15 then none else some 3
    | _, false => some 3
/-- Wait for the host to give or yield the line. -/
def hostAgree (k : LineKey) (pa : Nat) (own noSa : Bool) : M Unit := do
  let s ← get
  match s.hostAsk k pa own noSa with
  | some kind =>
    set (s.sendOnce (.toHost k kind))
    throw .stall
  | none => if inT3 pa && own && !noSa && s.hostSt pa == .e then set (s.setHost pa .m)

/-- The home partition's line for an access at the home directory, or the stop of its verdict; `own` asks the host for
ownership. A held line parks with LATE_FENCE (R43). -/
def homeFill (a : Acc) (k : LineKey) (wr own noSa : Bool) : M HomeLine := do
  let s ← get
  match s.heldOf k with
  | some h => do
    set { s with lateLine := fput a.ctx (lineCode k) s.lateLine, fenceMask := fdel a.ctx s.fenceMask, lateHeld := fdel a.ctx s.lateHeld }
    throw (.park 2 h.fid)
  | none =>
    let hit := (s.homeLine k).any fun h => h.valid = 15
    let (pa, e) ← match if hit && !wr then (s.homeLine k).bind (·.pa) else none with
      | some pa => pure (pa, 2 ^ 53)
      | none =>
        let (s', v) := s.verdict a.asid k
        set s'
        match v with
        | .ok pa e => pure (pa, e)
        | v => throw (stopOf k v)
    if wr && !bit e 53 then trap cPerm
    hostAgree k pa own noSa
    let s ← get
    let (s, h) := s.fillHome k pa
    set (s.event (s.homeDie k) (if hit then 0x01 else 0x02) a.vf 1)
    return h

/-- A replica goes to the scrim of a die, a replica chosen freely leaving a full set (R58, R61). -/
def State.putReplica (s : State) (d : Nat) (k : LineKey) (data : Line) : State :=
  let set := if s.replicas.isEmpty then [] else s.replicas.filter fun e => e.1 % 4 = d && e.1 ≠ replicaKey d k && l2Set (lineOf (e.1 / 4)).va = l2Set k.va
  match freeWay 0 (s.ways d) (set.map (·.2.1)) with
  | some w => { s with replicas := fput (replicaKey d k) (w, data) s.replicas }
  | none => match s.choose (set.map (·.1)) with
    | none => s
    | some (c, s) =>
      let w := ((fget? s.replicas c).map (·.1)).getD 0
      { s.scrimCount d (lineOf (c / 4)) 0 1 with replicas := fput (replicaKey d k) (w, data) (fdel c s.replicas) }

/-- A read request at the home directory (R61): the line's data for an L1 of the place, or for an agent
that keeps no copy when `keep` is false, which places no replica (log 85). -/
def dirRead (a : Acc) (k : LineKey) (keep : Bool) : M Line := do
  waitFor (!(← get).lineBusy k && !(← get).closed k)
  needHome k
  if keep then needDir k
  let d := dieOf a.place
  modify fun s => (s.deliverSkims d k).downgrade k
  let h ← homeFill a k false false false
  let s ← get
  let hd := s.homeDie k
  let e := s.dir k
  let others := !e.l.isEmpty || e.p.any (· != d)
  let s := if d ≠ hd && others then s.modRegion k.asid k.va fun r => { r with share := min 0xFFFF (r.share + 1) } else s
  let s := s.modGran k.asid k.va fun p => { p with sharers := addTo p.sharers d }
  let s := (s.flits d hd 0 a.vf).flits hd d 1 a.vf
  if !keep then
    set (s.passOn k)
    return h.data
  if d = hd then
    set ((s.setDir k { e with l := addTo e.l a.place }).passOn k)
    return h.data
  let deg := match s.regionOf k with | some r => r.degree | none => 0
  let place := s.ways d ≠ 0 && (e.q.contains d || e.q.length < deg)
  let s := if place then s.putReplica d k h.data else s
  set ((s.setDir k { e with p := addTo e.p d, q := if place then addTo e.q d else e.q }).passOn k)
  return h.data

/-- What an ownership grant carries: the data, the sectors that the former owner sends dirty, those with an uncorrectable
error, their provenance, and whether skims are awaited. -/
structure Granted where
  data : Line
  dirty : Nat
  bad : Nat
  prov : FMap Prov
  mark : Bool
  deriving DecidableEq, Repr
/-- An ownership request at the home directory for a tile (R61). Sectors that are dirty in the home partition stay dirty
there; an owner's dirty sectors go to the requester. -/
def dirOwn (a : Acc) (k : LineKey) (wr noSa : Bool) : M Granted := do
  waitFor ((← get).lineQuiet k && !(← get).closed k)
  needHome k
  needDir k
  modify fun s => s.deliverSkims (dieOf a.place) k
  let h ← homeFill a k wr true noSa
  let s ← get
  let noSa := noSa && inT3 (h.pa.getD 0) && (s.hostSt (h.pa.getD 0) == .s || s.hostSt (h.pa.getD 0) == .e)
  let s := if noSa then s.setHome { h with noSa := true } else s
  let s := s.modGran k.asid k.va fun p => { p with sharers := addTo p.sharers (dieOf a.place) }
  let s := (s.flits (dieOf a.place) (s.homeDie k) 0 a.vf).flits (s.homeDie k) (dieOf a.place) 1 a.vf
  match (s.dir k).own with
  | some o =>
    let l := s.l1 o k
    let s := s.invalL1 o k
    set ((s.setDir k { s.dir k with own := some a.place }).passOn k)
    return ⟨blend (secMask l.dirty) h.data l.data, l.dirty, l.bad, if l.dirty = 0 then [] else l.prov, false⟩
  | none =>
    let (s, dies) := s.revoke k (some a.place) false
    set ((s.setDir k { s.dir k with own := some a.place }).passOn k)
    return ⟨h.data, 0, 0, [], !dies.isEmpty⟩

-- ## Stores in state W (R54, R114, R117)

/-- The order of two accesses of one class, or with class 15 (R114). -/
def related (a b : Nat) : Bool := a == b || a == 15 || b == 15
/-- Lines of a tile with stores in state W. -/
def State.wLines (s : State) (t : Nat) : List L1Line := ((s.place t).l1.map (·.2)).filter fun l => !l.pend.isEmpty
/-- A store that an access waits for (R113, R114, R63): its class is one that `rel` names, and it is unmerged while
the pair's scope `sc` is a die or more, or it lies in a line with the pending-skim mark while `sc` is the
package or more. `sc` takes the store's own scope. -/
def State.predecessor (s : State) (t ctx : Nat) (rel : Nat → Bool) (sc : Nat → Nat) (cand : Pend → Bool) : Bool :=
  (s.place t).l1.any fun (_, l) =>
    (l.pend.any fun p => cand p && p.prov.ctx == ctx && rel p.oc && sc p.scope ≥ 1) ||
    (l.mark && ((sc 0 ≥ 2 && l.prov.any fun (_, p) => p.ctx == ctx && (range 0 16).any fun c => bit p.mask c && rel c) ||
      (sc 2 ≥ 2 && (range 0 16).any fun c => bit l.wide c && rel c)))
/-- The bytes of which a mask names some bit. -/
def wholeBytes (m : Line) : Line :=
  let lo : Line := BitVec.ofNat 1024 ((2 ^ 1024 - 1) / 17)
  m ||| ((m &&& lo) <<< 4) ||| ((m >>> 4) &&& lo)
/-- An older store of the same agent to a byte of this one waits in the line (R114, R118). -/
def olderOnByte (l : L1Line) (b : Pend) : Bool :=
  l.pend.any fun p => p.order < b.order && p.prov.ctx == b.prov.ctx && p.prov.queue == b.prov.queue && (wholeBytes p.mask &&& wholeBytes b.mask) != 0
/-- The predecessors under R114 of a store held in state W are performed as R117 asks. -/
def State.mayMerge (s : State) (t : Nat) (k : LineKey) (b : Pend) : Bool :=
  !olderOnByte (s.l1 t k) b &&
  !s.predecessor t b.prov.ctx (fun c => b.prov.queue.isNone && related b.oc c) (max b.scope) fun p =>
    p.order < b.order && p.prov.queue.isNone

/-- Merge one store into its line, which is owned; `rel` marks a write that R112 hides. -/
def mergeOne (l : L1Line) (b : Pend) : L1Line :=
  let secs := secsOf b.mask
  { l with data := blend b.mask l.data b.data, dirty := l.dirty ||| secs, prov := mergeProv l.prov secs l.dirty b.prov,
           hide := l.hide || (b.rel && b.scope ≥ 2 && l.mark),
           wide := if b.scope ≥ 2 && l.mark then l.wide ||| 2 ^ b.oc else l.wide, pend := l.pend.erase b }
/-- Stores in state W of a tile in program order. -/
def State.pends (s : State) (t : Nat) : List (LineKey × Pend) :=
  let all := (s.wLines t).flatMap fun l => l.pend.map fun p => (l.key, p)
  sortBy (fun a => a.2.order) all
/-- Merge every store of a tile whose line is owned and whose predecessors allow it (R117). -/
def State.mergeAll (s : State) (t : Nat) : State :=
  (s.pends t).foldl (fun s (k, b) =>
    let l := s.l1 t k
    if l.st = .m && s.mayMerge t k b then s.setL1 t (mergeOne l b) else s) s

/-- A grant reaches its L1: the fill merges beneath the held bytes and the line becomes M (R54). -/
def State.install (s : State) (t : Nat) (k : LineKey) (g : Granted) : State :=
  let l := s.l1 t k
  (s.setL1 t { l with st := .m, data := g.data, valid := 15, dirty := g.dirty, bad := g.bad, prov := g.prov, mark := g.mark }).mergeAll t

/-- The grant on its way to a tile arrives (R54). -/
def State.takeGrant (s : State) (t : Nat) (k : LineKey) : State :=
  match s.msgs.find? fun m => match m with
    | .grant t' k' _ _ _ _ _ => t' == t && k' == k
    | _ => false with
  | some (.grant t' k' d dirty bad prov mark) => (s.unsend (.grant t' k' d dirty bad prov mark)).install t k ⟨d, dirty, bad, prov, mark⟩
  | _ => s

/-- The stores of state W of a line, gathered in order: bits, data, and the provenance of each sector. -/
def gatherPend (l : L1Line) : Line × Line × FMap Prov :=
  l.pend.foldl (fun (m, d, q) b => (m ||| b.mask, blend b.mask d b.data, mergeProv q (secsOf b.mask) (secsOf m) b.prov)) (0, 0, [])

/-- A write that no line takes is held; what the home partition has dirty is older and is held before it (R40, R43, R132).
`none` when there is no room for both. -/
def State.holdNew (s : State) (k : LineKey) (m d : Line) (pr : FMap Prov) (v : Verdict) : Option State :=
  let s := ((s.revoke k none true).1).cleanOut k
  if (s.homeLine k).isSome then none else s.hold k m d pr v false
/-- An ownership request for a store is served, or refused, and the stores held (R40, R61, R132). -/
def State.ownForStore (s : State) (t : Nat) (k : LineKey) : State :=
  let l := s.l1 t k
  match l.pend.head? with
  | none => s
  | some b =>
    let a : Acc := ⟨t, b.prov.asid, b.prov.vf, b.prov.ctx, b.prov.queue, b.prov.seq⟩
    let refuse (s : State) (v : Verdict) : State :=
      let (m, d, p) := gatherPend l
      match s.holdNew k m d p v with
      -- a store that became held orders no merge any more (R117, R133)
      | some s => (s.setL1 t (L1Line.empty k)).mergeAll t
      | none => s.holdBlocked b.prov.vf
    if !s.lineQuiet k || s.closed k then s
    else if (s.heldOf k).isSome then refuse s .unmapped
    else
      let (s', v) := s.verdict a.asid k
      let grant (s' : State) : State :=
        match (dirOwn a k false false).run s' with
        | .ok g s'' => s''.send (.grant t k g.data g.dirty g.bad g.prov g.mark)
        | .error _ s'' => s''
      let cached := (s.homeLine k).any fun h => h.valid = 15 && h.pa.isSome
      match v with
      | .ok _ e => if bit e 53 || cached then grant s' else refuse s' v
      | v => if cached then grant s' else refuse s' v

-- ## Permissions (R25, R26)

/-- The PMC entry for a VA, filled from the RHT on a miss, one of 64 chosen freely leaving; a region without an entry
grants nothing. -/
def pmcLookup (place asid va : Nat) : M (Option Perm) := do
  let s ← get
  let pmc := (s.place place).pmc
  match fget? pmc (regionCode (some asid) va), fget? pmc (regionCode none va) with
  | some p, _ => return some p
  | none, some p => return some p
  | none, none =>
    match s.region (some asid) va with
    | none => return none
    | some r =>
      let (s, out) := s.makeRoom (pmc.map (·.1)) 64
      set (s.modPlace place fun t => { t with pmc := fput (regionCode r.asid va) r.perm (match out with | some x => fdel x t.pmc | none => t.pmc) })
      return some r.perm

/-- What an access needs (R26). -/
inductive Need where
  | x | r | w | rwa
  deriving DecidableEq, Repr
def Perm.grants (p : Perm) : Need → Bool
  | .x => p.x
  | .r => p.r
  | .w => p.w
  | .rwa => p.r && p.w && p.a

/-- The check of R11 on a formed address. -/
def checkVa (va : Nat) : M Unit := need cPerm (va < 2 ^ 56)
/-- The PMC check of a VA under an access (R26); PERM when it fails. -/
def checkPerm (a : Acc) (va : Nat) (n : Need) : M Perm := do
  match ← pmcLookup a.place a.asid va with
  | none => trap cPerm
  | some p => if p.grants n && p.vf == a.vf then return p else trap cPerm

-- ## Ways of the L1 (R53)

/-- A line that takes a way of its L1. -/
def L1Line.present (l : L1Line) : Bool := l.st != .i || !l.pend.isEmpty || l.mark
/-- The owner writes the line back: its dirty sectors go home, and the entry is freed (R61). -/
def State.ownerEvicts (s : State) (k : LineKey) : State :=
  let d := s.dir k
  match d.own with
  | none => s
  | some o =>
    if !d.k.isEmpty || (s.l1 o k).mark || !(s.l1 o k).pend.isEmpty then s
    else match s.ownerRoom k with
      | none => s
      | some s => ((((s.downgrade k).invalL1 o k).setDir k { d with own := none })).passOn k
/-- A line leaves its L1: an owner writes it back, a shared copy goes silently (R61). -/
def State.evictL1 (s : State) (t : Nat) (k : LineKey) : State :=
  if (s.l1 t k).st = .m then s.ownerEvicts k else s.invalL1 t k
/-- The last copies of a line on a die other than its home, none of them owned or marked, are dropped, and the directory
hears of it. -/
def State.dropCopies (s : State) (die : Nat) (k : LineKey) : State :=
  let d := s.dir k
  let busy := (s.places.any fun e => e.1 < 512 && dieOf e.1 = die && ((s.l1 e.1 k).mark || !(s.l1 e.1 k).pend.isEmpty)) || s.lineBusy k
  if !d.p.contains die || busy then s
  else
    let had := (s.replica die k).isSome
    let s := (s.invalDie die k none).dropReplica die k
    let s := if had then s.scrimCount die k 0 1 else s
    ((s.setDir k { d with p := remove d.p die, q := remove d.q die }).flits die (s.homeDie k) 0 (s.lineFn k)).passOn k
/-- A way of the L1 for a line, a victim chosen freely having left; it waits while every way of the set is in W or
marked (R53). -/
def l1Room (t : Nat) (k : LineKey) : M Unit := do
  let s ← get
  let all := (s.place t).l1
  if !(s.l1 t k).present && 8 ≤ all.length then
    let mates := (all.map (·.2)).filter fun l => l.present && l.key != k && bits l.key.va 13 7 = bits k.va 13 7
    if 8 ≤ mates.length then
      match s.choose ((mates.filter fun l => l.pend.isEmpty && !l.mark).map fun l => lineCode l.key) with
      | none => throw .stall
      | some (c, s) =>
        let s := s.evictL1 t (lineOf c)
        set s
        waitFor (!(s.l1 t (lineOf c)).present)

-- ## Reading global memory through the L1 (R54, R61, R111)

/-- Bits of a line from byte `off`, `n` bytes. -/
def byteMask (off n : Nat) : Line := BitVec.ofNat 1024 ((2 ^ (8 * n) - 1) * 2 ^ (8 * off))
def lineBytes (d : Line) (off n : Nat) : List Byte := bytesOf n (d.toNat / 2 ^ (8 * off))

/-- Sectors of a line arrive in the L1 of a tile in state S (R53). -/
def State.fillL1 (s : State) (t : Nat) (k : LineKey) (data : Line) (secs : Nat) : State :=
  let l := s.l1 t k
  s.setL1 t { l with st := .s, data := blend (secMask secs) l.data data, valid := l.valid ||| secs }
/-- Read bytes of one line through the tile's L1. The CC's own stores in W forward, and its other bytes wait for the fill;
other agents' stores must merge first, and a hidden write answers no other agent (R54, R111, R112). -/
def l1Read (a : Acc) (k : LineKey) (off n : Nat) : M (List Byte) := do
  modify fun s => s.touch k none
  let s ← get
  let l := s.l1 a.place k
  let m := byteMask off n
  let secs := secsOf m
  let mine := l.pend.filter fun p => p.prov.queue == a.queue && a.queue.isNone
  waitFor (l.pend.all fun p => mine.contains p || (p.mask &&& m) == 0)
  let cover := mine.foldl (fun c p => c ||| p.mask) (0 : Line)
  let patch (d : Line) : Line := mine.foldl (fun d p => blend p.mask d p.data) d
  if (cover &&& m) == m then return lineBytes (patch 0) off n
  waitFor (!(l.hide && a.queue.isSome))
  if (l.st = .m || (l.st ≠ .i && l.pend.isEmpty)) && l.valid &&& secs = secs then return lineBytes (patch l.data) off n
  waitFor l.pend.isEmpty
  l1Room a.place k
  let s ← get
  let hd := s.homeDie k
  let d := dieOf a.place
  match if d ≠ hd then s.replica d k else none with
  | some data =>
    set ((((s.fillL1 a.place k data secs).scrimCount d k 1 0).count a.place 0x008 1).event d 0x03 a.vf 1)
    return lineBytes data off n
  | none =>
    let data ← dirRead a k true
    modify fun s => (s.fillL1 a.place k data secs).count a.place 0x008 1
    return lineBytes data off n

/-- Read bytes that may span lines. -/
def spanLines (va n : Nat) : List (Nat × Nat × Nat) :=
  (range (va / 128) ((va + n + 127) / 128 - va / 128)).map fun l =>
    let lo := max va (l * 128)
    let hi := min (va + n) (l * 128 + 128)
    (l * 128, lo - l * 128, hi - lo)
def readL1 (a : Acc) (va n : Nat) : M (List Byte) := do
  let s ← get
  (spanLines va n).foldlM (fun acc (lva, off, m) => do return acc ++ (← l1Read a (s.keyOf a.asid lva) off m)) []

/-- Read at the home partition, or from the local scrim, keeping no copy (R55, R129). -/
def homeRead (a : Acc) (scrim : Bool) (k : LineKey) (off n : Nat) : M (List Byte) := do
  modify fun s => s.touch k none
  let s ← get
  if isTile a.place then
    waitFor ((s.l1 a.place k).pend.all fun p => (p.mask &&& byteMask off n) == 0)
  match if scrim && dieOf a.place ≠ s.homeDie k then s.replica (dieOf a.place) k else none with
  | some d => return lineBytes d off n
  | none => return lineBytes (← dirRead a k false) off n
def readHome (a : Acc) (scrim : Bool) (va n : Nat) : M (List Byte) := do
  let s ← get
  (spanLines va n).foldlM (fun acc (lva, off, m) => do return acc ++ (← homeRead a scrim (s.keyOf a.asid lva) off m)) []

-- ## Writing global memory

/-- The store sequence that the running context's next store takes. -/
def nextSeq (a : Acc) : M Nat := do return fget 0 (← get).storeSeq a.ctx
/-- A store has been made: it takes the sequence, which the store log records (R41). -/
def takeSeq (a : Acc) (pc : Word) : M Unit :=
  modify fun s =>
    let q := fget 0 s.storeSeq a.ctx
    { s with storeSeq := fset 0 s.storeSeq a.ctx ((q + 1) % 2 ^ 32) }.modPlace a.place fun t =>
      { t with slog := fput (q % 4096) (q, pc) t.slog }

/-- A store of an agent has its place in program order. -/
def State.tookPlace (s : State) (a : Acc) : State := if isTile a.place then s.modPlace a.place fun t => { t with order := t.order + 1 } else s
/-- A store to a line would be held, and there is no room for it (R43). -/
def State.noRoomFor (s : State) (a : Acc) (k : LineKey) : Bool :=
  (s.holdRoom (s.homeDie k) a.vf).isNone && ((s.heldOf k).isSome || match (s.verdict a.asid k).2 with
    | .ok _ e => !bit e 53
    | _ => true)
/-- Stores of a queue wait in an L1 for room to be held: the queue holds (R43). -/
def State.queueBlocked (s : State) (t q : Nat) : Bool :=
  !s.holdWait.isEmpty && (s.wLines t).any fun l => l.pend.any fun p =>
    p.prov.queue == some q && s.holdWait.contains p.prov.vf &&
      s.noRoomFor ⟨t, p.prov.asid, p.prov.vf, p.prov.ctx, some q, p.prov.seq⟩ l.key
/-- A store of masked bits of one line through the L1 (R54); an L1 holds 32 lines in W, and a context of a function whose
held writes have no room parks at a miss; an engine write that has none waits at its engine (R43). -/
def l1Write (a : Acc) (k : LineKey) (mask data : Line) (oc scope : Nat) (rel : Bool) (seq : Nat) : M Unit := do
  modify fun s => s.touch k none
  let s ← get
  let l := s.l1 a.place k
  if a.queue.isSome && l.st ≠ .m && s.noRoomFor a k then
    set (s.holdBlocked a.vf)
    throw .stall
  if l.pend.isEmpty && l.st ≠ .m then
    if l.st = .i && s.holdWait.contains a.vf && a.queue.isNone then
      set { s with fenceMask := fdel a.ctx s.fenceMask, lateLine := fdel a.ctx s.lateLine, lateHeld := fdel a.ctx s.lateHeld }
      throw (.park 2 ((s.held.find? fun h => h.vf == a.vf).map (·.fid) |>.getD 0))
    waitFor ((s.wLines a.place).length < 32)
    l1Room a.place k
    if l.st = .i then modify fun s => s.count a.place 0x008 1
  let s ← get
  let t := s.place a.place
  let p : Pend := ⟨mask, data, oc, scope, rel, t.order, a.prov seq (2 ^ oc) t.order⟩
  let s := s.tookPlace a
  set ((s.setL1 a.place { s.l1 a.place k with pend := (s.l1 a.place k).pend ++ [p] }).mergeAll a.place)

/-- The line data whose bytes from `off` are `bs`. -/
def placeBytes (off : Nat) (bs : List Byte) : Line := BitVec.ofNat 1024 (numOf bs * 2 ^ (8 * off))
/-- Store bytes that may span lines. -/
def writeL1 (a : Acc) (va : Nat) (bs : List Byte) (oc scope : Nat) (rel : Bool) (seq : Nat) : M Unit := do
  let s ← get
  let _ ← (spanLines va bs.length).foldlM (fun (rest : List Byte) (lva, off, m) => do
    l1Write a (s.keyOf a.asid lva) (byteMask off m) (placeBytes off (rest.take m)) oc scope rel seq
    return rest.drop m) bs
  return ()

/-- A write merged at the home partition, every copy gone first (R55, R64, R129); refused, it is held,
and it waits when there is no room. `noSa`: that of an atomic, which takes no host ownership of a host line (R73). -/
def homeMergeBy (noSa : Bool) (a : Acc) (k : LineKey) (mask data : Line) : M Unit := do
  modify fun s => s.touch k none
  waitFor ((← get).lineQuiet k && !(← get).closed k)
  needHome k
  let s ← get
  let p := a.prov a.seq (2 ^ 15) (s.place a.place).order
  let refuse (s : State) (v : Verdict) : M Unit :=
    match s.holdNew k mask data (mergeProv [] (secsOf mask) 0 p) v with
    | some s => set (s.tookPlace a)
    | none => do
      set (s.holdBlocked a.vf)
      throw .stall
  if (s.heldOf k).isSome then refuse s .unmapped
  else
    let (s, v) := s.verdict a.asid k
    match v with
    | .ok pa e =>
      if bit e 53 then
        set s
        hostAgree k pa true noSa
        let s ← get
        let shared := noSa && inT3 pa && (s.hostSt pa == .s || s.hostSt pa == .e)
        let hit := (s.homeLine k).any fun h => h.valid = 15
        let s := (s.revoke k none true).1
        let (s, h) := s.fillHome k pa
        let s := (s.event (s.homeDie k) (if hit then 0x01 else 0x02) a.vf 1).flits (dieOf a.place) (s.homeDie k) 1 a.vf
        let secs := secsOf mask
        set (((s.setHome { h with data := blend mask h.data data, dirty := h.dirty ||| secs, prov := mergeProv h.prov secs h.dirty p
                                  noSa := h.noSa || shared }).modGran
          k.asid k.va fun p => { p with dirty := true }).passOn k |>.tookPlace a)
      else refuse s v
    | v => refuse s v
def homeMerge (a : Acc) (k : LineKey) (mask data : Line) : M Unit := homeMergeBy false a k mask data
def writeHome (a : Acc) (va : Nat) (bs : List Byte) : M Unit := do
  let s ← get
  let _ ← (spanLines va bs.length).foldlM (fun (rest : List Byte) (lva, off, m) => do
    homeMerge a (s.keyOf a.asid lva) (byteMask off m) (placeBytes off (rest.take m))
    return rest.drop m) bs
  return ()

/-- Own a line in the L1 for an atomic or CDROP (R56): the grant is taken at once. -/
def l1Own (a : Acc) (k : LineKey) (noSa : Bool) : M Unit := do
  modify fun s => s.touch k none
  let s ← get
  waitFor (s.l1 a.place k).pend.isEmpty
  if (s.l1 a.place k).st ≠ .m then
    l1Room a.place k
    let miss := (s.l1 a.place k).st = .i
    let g ← dirOwn a k true noSa
    modify fun s => (s.install a.place k g).count a.place 0x008 (if miss then 1 else 0)

-- ## Cleaning and shoot-down (R30, R245)

/-- A grant of the line that is on its way arrives. -/
def State.landGrant (s : State) (k : LineKey) : State :=
  match s.msgs.findSome? fun m => match m with
    | .grant t k' _ _ _ _ _ => if k' == k then some t else none
    | _ => none with
  | some t => s.takeGrant t k
  | none => s
/-- Clean and invalidate every cached copy of a line (R30, R83), a grant on its way having arrived: dirty sectors go home and
back to the frame, or to the hold buffer; stores of state W stay and will be translated afresh. A line whose owner finds no
room for its sectors stays. -/
def State.flushLine (s : State) (k : LineKey) : State :=
  let s := s.landGrant k
  match s.ownerRoom k with
  | none => s
  | some s =>
    let pa := (s.homeLine k).bind (·.pa)
    (((s.revoke k none true).1).cleanOut k).unkept k pa
/-- Clean and invalidate every line that a test names. -/
def State.flushLines (s : State) (p : LineKey → Bool) : State :=
  let keys := ((s.home.map (·.2.key)) ++ (s.dirs.map (·.2.key))).eraseDups.filter p
  let s := keys.foldl State.flushLine s
  let s := { s with replicas := s.replicas.filter fun e => !p (lineOf (e.1 / 4)) }
  s.places.foldl (fun s e => e.2.l1.foldl (fun s l =>
    if p l.2.key && (s.dir l.2.key).own ≠ some e.1 then s.invalL1 e.1 l.2.key else s) s) s

/-- Write every dirty sector of a line back, copies staying valid and clean (R245); `ownerRoom` must have room. -/
def State.cleanLine (s : State) (k : LineKey) : State :=
  let s := (s.ownerRoom k).getD s
  let s := match (s.dir k).own with
    | some o =>
      let l := s.l1 o k
      (s.toHome k l.data l.dirty l.bad l.prov).setL1 o { l with dirty := 0, bad := 0, prov := if l.mark then l.prov else [] }
    | none => s
  (s.writeBack k).passOn k

/-- SHOOT of an address space (or of the global set) over pages [lo, hi) of 8 KiB, or all of it. -/
def State.shoot (s : State) (asid : Option Nat) (all : Bool) (lo hi : Nat) : State :=
  let c := asidCode asid
  let covers (page lvl : Nat) : Bool := all || (page * 2 ^ (10 * lvl) < hi && lo < (page + 1) * 2 ^ (10 * lvl))
  let s := { s with
    roots := match asid with | some a => if all then fdel a s.roots else s.roots | none => s.roots
    mtus := (range 0 10).foldl (fun ms i =>
    fmod Mtu.reset ms i fun m => { m with
      sdseq := match asid with | some a => fset 0 m.sdseq a ((fget 0 m.sdseq a + 1) % 2 ^ 32) | none => m.sdseq
      sdglobal := match asid with | none => (m.sdglobal + 1) % 2 ^ 32 | some _ => m.sdglobal
      tlb := m.tlb.filter fun e => !((e.1 / 4) / 2 ^ 43 = c && covers (e.1 / 4 % 2 ^ 43) (e.1 % 4))
      upper := m.upper.filter fun e => !((c = 0 || (e.1 / 8) / 2 ^ 43 = c) && covers (e.1 / 8 % 2 ^ 43) (e.1 % 8)) }) s.mtus }
  let hitsRegion (code : Nat) : Bool := code / 2 ^ 35 = c && (all || (code % 2 ^ 35 * 256 < hi && lo < (code % 2 ^ 35 + 1) * 256))
  let s := s.places.foldl (fun s e => s.modPlace e.1 fun t => { t with pmc := t.pmc.filter fun p => !hitsRegion p.1 }) s
  s.flushLines fun k => k.asid == asid && covers (k.line / 64) 0

-- ## Physical accesses (R21, R75, R404): stewards, DMA, the host

/-- Bring a PA's latest data into its frame, keeping copies when `keep`. -/
def State.syncPa (s : State) (pa : Nat) (keep : Bool) : State :=
  match s.reverse pa with
  | none => s
  | some k => if keep then s.cleanLine k else s.flushLine k
/-- An access to a line outside the caches must wait: the line is under way or held, its home die is being gated, or its
owner's sectors find no room. -/
def State.lineWaits (s : State) (k : LineKey) : Bool := !s.lineQuiet k || (s.heldOf k).isSome || s.closed k || (s.ownerRoom k).isNone
def State.paBusy (s : State) (pa : Nat) : Bool :=
  match s.reverse pa with
  | none => false
  | some k => s.lineWaits k
/-- What the host must be asked before an access to a PA that a page maps: of a device-homed line (R75) and of a host line
(R72). -/
def State.paAsk (s : State) (pa : Nat) (own : Bool) : Option Msg :=
  if !inT3 pa && s.hostSt pa == .i then none
  else (s.reverse pa).bind fun k => (s.hostAsk k pa own false).map fun n => .toHost k n
/-- An access to a PA can go on at once. -/
def State.paReady (s : State) (pa : Nat) (own : Bool) : Bool := !s.paBusy pa && (s.paAsk pa own).isNone
/-- The request that an access to a PA makes of the host, if it waits for it. -/
def State.paRequest (s : State) (pa : Nat) (own : Bool) : State :=
  match s.paAsk pa own with
  | some m => if s.paBusy pa then s else s.sendOnce m
  | none => s
def paWait (pa : Nat) (own : Bool) : M Unit := do
  modify fun s => s.paRequest pa own
  waitFor ((← get).paReady pa own)
/-- The granule of a frame has been written (R88). -/
def State.frameDirty (s : State) (pa : Nat) : State :=
  match s.reverse pa with
  | some k => s.modGran k.asid k.va fun p => { p with dirty := true }
  | none => s
/-- Write bytes at a PA; the granule's frame has been written, and a host line has been written back (R72, R88). -/
def State.frameWrite (s : State) (pa : Nat) (bs : List Byte) : State :=
  let s := (s.memWrite pa bs).frameDirty pa
  match if inT3 pa then s.reverse pa else none with
  | some k => s.unkept k (some pa)
  | none => s
/-- Bytes of one line as they are once it is clean: the home partition's, which a host's copy in O makes newer than the
frame's (R75). -/
def State.latest (s : State) (k : LineKey) (pa n : Nat) : List Byte :=
  match s.homeLine k with
  | some h => lineBytes (blend (secMask h.valid) (s.memLine (pa / 128 * 128)) h.data) (pa % 128) n
  | none => s.memRead pa n
/-- Write bytes at a PA coherently: cached copies of its lines go first. -/
def State.putPa (s : State) (pa : Nat) (bs : List Byte) : State := (s.syncPa pa false).frameWrite pa bs
/-- Read bytes of one line at a PA, as an agent without a cache does. -/
def State.readPa (s : State) (pa n : Nat) : State × List Byte :=
  match s.reverse pa with
  | none => (s, s.memRead pa n)
  | some k =>
    let s := s.cleanLine k
    (s.unkept k (some pa), s.latest k pa n)
def physRead (pa n : Nat) : M (List Byte) := do
  paWait pa false
  let (s, bs) := (← get).readPa pa n
  set s
  return bs
/-- The host's copies after a teardown: a host line is in I (R72, R74), and the host is asked to give up what it has of a
device-homed line, with its dirty data (R75). -/
def State.leaveHosts (s : State) (mine : LineKey → Bool) : State :=
  s.hosts.foldl (fun s e => match s.reverse (128 * e.1) with
    | some k => if !mine k then s else if inT3 (128 * e.1) then s.setHost (128 * e.1) .i else s.sendOnce (.toHost k 5)
    | none => s) s
/-- The address spaces of which a write of `bs` at a PA clears V in the descriptor: each is flushed and shot down before, so
that it can be made valid again (R74, R409, log 87). -/
def State.retireAsids (s : State) (pa : Nat) (bs : List Byte) : State :=
  let lo := (max pa s.asdBase - s.asdBase) / 16
  let hi := min 65536 ((pa + bs.length + 15 - s.asdBase) / 16)
  let new := s.memWrite pa bs
  ((range lo (hi - lo)).filter fun a => bit (s.asd a) 0 && !bit (new.asd a) 0).foldl (fun s a =>
    (s.shoot (some a) true 0 0).leaveHosts fun k => k.asid == some a) s
/-- Write bytes at a PA that may hold address-space descriptors (R15, R409). -/
def State.writePa (s : State) (pa : Nat) (bs : List Byte) : State :=
  let s := (s.syncPa pa false).retireAsids pa bs
  (s.frameWrite pa bs).keepRoots s pa bs.length
def physWrite (pa : Nat) (bs : List Byte) : M Unit := do
  paWait pa true
  modify fun s => s.writePa pa bs

/-- Of an access that has not begun, what the host was asked stays asked. -/
def State.keepAsks (s s' : State) : State :=
  { s with
    msgs := s.msgs ++ s'.msgs.filter fun m => !s.msgs.contains m && match m with | .toHost _ _ => true | _ => false
    freeCount := s'.freeCount, mtus := s'.mtus, holdWait := s'.holdWait }

-- ## Trace records (R415, R416)

/-- The oldest record of a die's buffer that waits is written, a write that is performed at system scope; its line may have to
be given up first (log 91). -/
def State.putTrace (s : State) (d : Nat) : State :=
  match s.traces.find? fun e => e.1 == d with
  | none => s
  | some e =>
    let n := s.regBits (dieReg d 0x1308) 4 0
    let prod := s.regN (dieReg d 0x1310)
    let pa := s.regBits (dieReg d 0x1300) 51 6 * 64 + 32 * (prod % 2 ^ n)
    if !s.paReady pa true then s.paRequest pa true
    else
      let s := { s with traces := s.traces.erase e }
      let s := if s.populated pa then s.putPa pa (bytesOf 32 (setBits e.2 0 0 (phaseBit prod n))) else s.logMtu (mtuOf pa) pa 3
      s.setReg (dieReg d 0x1310) (BitVec.ofNat 64 (prod + 1))
/-- Every record of a die that can be written is, in order. -/
def State.putTraces (s : State) (d : Nat) : State := (s.traces.filter fun e => e.1 == d).foldl (fun s _ => s.putTrace d) s
/-- A trace record, if the die's buffer takes it; no record delays what it tells of. -/
def State.trace (s : State) (d kind pc arg arg2 ctx tile vf : Nat) : State :=
  let ctl := s.regN (dieReg d 0x1320)
  let n := s.regBits (dieReg d 0x1308) 4 0
  if bit ctl 24 && bit ctl kind && (bits ctl 22 16 = 127 || bits ctl 22 16 = vf) && 6 ≤ n && n ≤ 20 then
    let prod := s.regN (dieReg d 0x1310) + (s.traces.filter fun e => e.1 == d).length
    if !bit ctl 23 && prod - s.regN (dieReg d 0x1318) = 2 ^ n then s.setReg (dieReg d 0x1328) (s.reg (dieReg d 0x1328) + 1)
    else
      let r := s.tick % 2 ^ 64 * 2 ^ 192 + pc % 2 ^ 56 * 2 ^ 136 + arg % 2 ^ 32 * 2 ^ 104 + arg2 % 2 ^ 32 * 2 ^ 72 +
        ctx % 2 ^ 16 * 2 ^ 56 + tile % 512 * 2 ^ 47 + vf % 128 * 2 ^ 40 + kind % 256 * 2 ^ 32
      { s with traces := s.traces ++ [(d, r)] }.putTraces d
  else s
/-- A trace record about a tile and the context on it. -/
def State.traceTile (s : State) (t kind pc arg arg2 : Nat) : State :=
  let p := s.place t
  s.trace (dieOf t) kind pc arg arg2 p.ctx t p.vf

end Sys2Proof.Machine
end

