-- ==== Sys2Proof/Machine/Sp.lean ====
section
/-! DEFINITION. The scratchpad: bytes, nibble writes, poison, mapped regions (R31 to R33, R48 to R52). -/
namespace Sys2Proof.Machine

/-- A scratchpad byte; after a light restore an unwritten one is a free value (R154, log 10). -/
def spReads (epoch o : Nat) : Option Byte → Byte
  | some b => b
  | none => if epoch = 0 then 0 else (Config.freeWord epoch o).truncate 8
def Place.spByte (t : Place) (o : Nat) : Byte := spReads t.spEpoch o (fget? t.sp o)
/-- Set a scratchpad byte, keeping the canonical form. -/
def Place.setSp (t : Place) (o : Nat) (b : Byte) : Place :=
  { t with sp := if t.spEpoch = 0 then fset 0 t.sp o b else fput o b t.sp }
def Place.spBytes (t : Place) (o n : Nat) : List Byte :=
  let m := fslice o n t.sp
  (range o n).map fun i => spReads t.spEpoch i (fget? m i)
def Place.putSp (t : Place) (o : Nat) (bs : List Byte) : Place :=
  { t with sp := fsplice o bs.length ((fnumber o bs).filter fun e => t.spEpoch ≠ 0 || e.2 != 0) t.sp }
def Place.spNum (t : Place) (o n : Nat) : Nat := numOf (t.spBytes o n)

/-- Aligned 32-bit words that bytes [o, o + n) touch. -/
def wordsOf (o n : Nat) : List Nat := if n = 0 then [] else range (o / 4) ((o + n - 1) / 4 + 1 - o / 4)
/-- Whether a read of the bytes meets a poisoned word (R52). -/
def Place.spBad (t : Place) (o n : Nat) : Bool := (wordsOf o n).any fun w => fget false t.spPoison w
/-- A write of the nibbles from `o` up, `n` of them: exactly these change (R49), and a word whose 32 bits are all written
is no longer poisoned (R52). -/
def Place.putNibbles (t : Place) (o n v : Nat) : Place :=
  let lo := o / 2
  let len := (o + n + 1) / 2 - lo
  let sh := 2 ^ (4 * (o % 2))
  let old := t.spNum lo len
  let kept := old % sh + old / (2 ^ (4 * n) * sh) * (2 ^ (4 * n) * sh)
  { t.putSp lo (bytesOf len (kept + v % 2 ^ (4 * n) * sh)) with spPoison := fclear t.spPoison fun w => o ≤ 8 * w && 8 * w + 8 ≤ o + n }
/-- A write that covers all 32 bits of a word clears its poison (R52). -/
def Place.unpoison (t : Place) (o n : Nat) : Place :=
  { t with spPoison := fclear t.spPoison fun w => o ≤ 4 * w && 4 * w + 4 ≤ o + n }
/-- The mapped region that holds an offset (R32). -/
def Place.mapAt (t : Place) (o : Nat) : Option MapEntry :=
  (t.maps.find? fun (_, e) => e.spbase ≤ o && o < e.spbase + e.len).map (·.2)
/-- The line of an offset is no unfilled line of a lazy region (R33). -/
def Place.filledAt (t : Place) (o : Nat) : Bool :=
  (t.mapAt (o / 128 * 128)).all fun e => !e.lazy || fget false t.mapFilled (o / 128)
/-- A TBWAIT has seen its word zero (R252). -/
def Place.watch (t : Place) : Place :=
  match t.tb with
  | some (o, d, false) => if t.spNum o 8 = 0 then { t with tb := some (o, d, true) } else t
  | _ => t
/-- Written sectors of mapped regions become dirty (R33, R336). -/
def Place.markDirty (t : Place) (o n : Nat) : Place :=
  if t.maps.isEmpty || n = 0 then t
  else { t with mapDirty := (range (o / 32) ((o + n - 1) / 32 + 1 - o / 32)).foldl (fun m sec =>
    if (t.mapAt (32 * sec)).isSome then fput sec true m else m) t.mapDirty }

/-- The scratchpad bound of R31, R404. -/
def checkSp (place o n : Nat) : M Unit := need cSpbound (o + n ≤ spSize place)

/-- Fill the unfilled lines of lazy regions that an access touches (R33). -/
def spTouch (a : Acc) (o n : Nat) : M Unit := do
  let t := (← get).place a.place
  if !t.maps.isEmpty && n ≠ 0 then
    (range (o / 128) ((o + n - 1) / 128 + 1 - o / 128)).forM fun l => do
      let t := (← get).place a.place
      match t.mapAt (128 * l) with
      | none => pure ()
      | some e =>
        if e.lazy && !fget false t.mapFilled l then
          let bs ← readHome a true (e.vabase + (128 * l - e.spbase)) 128
          onPlace a.place fun t => { t.putSp (128 * l) bs with mapFilled := fput l true t.mapFilled }

/-- Fill what several ranges touch. -/
def touchAll (a : Acc) (l : List (Nat × Nat)) : M Unit := l.forM fun (o, n) => spTouch a o n
/-- Read scratchpad bytes (R48, R51). -/
def rdSp (a : Acc) (o n : Nat) : M (List Byte) := do
  spTouch a o n
  return ((← get).place a.place).spBytes o n
/-- Write scratchpad bytes (R49). -/
def wrSp (a : Acc) (o : Nat) (bs : List Byte) : M Unit := do
  spTouch a o bs.length
  onPlace a.place fun t => (((t.putSp o bs).unpoison o bs.length).markDirty o bs.length).watch
/-- Write a run of nibbles (R49). -/
def wrSpNibbles (a : Acc) (o n v : Nat) : M Unit := do
  let lo := o / 2
  let len := (o + n + 1) / 2 - lo
  spTouch a lo len
  onPlace a.place fun t => ((t.putNibbles o n v).markDirty lo len).watch
/-- Write one nibble of a scratchpad byte (R49). -/
def wrSpNibble (a : Acc) (o : Nat) (high : Bool) (v : Nat) : M Unit := do
  spTouch a o 1
  onPlace a.place fun t =>
    let b := (t.spByte o).toNat
    (t.setSp o (BitVec.ofNat 8 (if high then b % 16 + 16 * (v % 16) else b / 16 * 16 + v % 16))).markDirty o 1 |>.watch

/-- Write one sector of a mapped region back, with the provenance of its XMAP; it is clean from the moment
it is read. A poisoned word is written as read, which the answer says (R52). -/
def writeSector (a : Acc) (e : MapEntry) (sec : Nat) : M Bool := do
  let t := (← get).place a.place
  writeHome { a with seq := e.seq } (e.vabase + (32 * sec - e.spbase)) (t.spBytes (32 * sec) 32)
  onPlace a.place fun t => { t with mapDirty := fdel sec t.mapDirty, mapSince := fdel sec t.mapSince }
  return t.spBad (32 * sec) 32

/-- Zero a scratchpad range, clearing poison (R272, R409). -/
def Place.zeroSp (t : Place) (o n : Nat) : Place :=
  let whole := o = 0 && n ≥ 0x180000
  let t := if whole then { t with sp := [], spEpoch := 0 }
    else if t.spEpoch = 0 then { t with sp := fclear t.sp fun a => o ≤ a && a < o + n }
    else t.putSp o (List.replicate n 0)
  ({ t with spPoison := fclear t.spPoison fun w => o < 4 * w + 4 && 4 * w < o + n }).markDirty o n |>.watch

end Sys2Proof.Machine
end

