-- ==== Sys2Proof/Machine/Bstore.lean ====
section
/-! DEFINITION. The B-store: AES-128 in counter mode over row tags and key slots (R76 to R81). -/
namespace Sys2Proof.Machine

-- ## AES-128 (FIPS 197): blocks are lists of 16 bytes, first byte first

/-- The S-box: byte `i` of this number is the substitute of `i`. -/
def sboxTable : Nat :=
  0x16bb54b00f2d99416842e6bf0d89a18cdf2855cee9871e9b948ed9691198f8e1 * 2 ^ 1792 +
  0x9e1dc186b95735610ef6034866b53e708a8bbd4b1f74dde8c6b4a61c2e2578ba * 2 ^ 1536 +
  0x08ae7a65eaf4566ca94ed58d6d37c8e779e4959162acd3c25c2406490a3a32e0 * 2 ^ 1280 +
  0xdb0b5ede14b8ee4688902a22dc4f816073195d643d7ea7c41744975fec130ccd * 2 ^ 1024 +
  0xd2f3ff1021dab6bcf5389d928f40a351a89f3c507f02f94585334d43fbaaefd0 * 2 ^ 768 +
  0xcf584c4a39becb6a5bb1fc20ed00d153842fe329b3d63b52a05a6e1b1a2c8309 * 2 ^ 512 +
  0x75b227ebe28012079a059618c323c7041531d871f1e5a534ccf73f362693fdb7 * 2 ^ 256 +
  0xc072a49cafa2d4adf04759fa7dc982ca76abd7fe2b670130c56f6bf27b777c63 * 2 ^ 0
def sbox (x : Nat) : Nat := sboxTable / 256 ^ x % 256
/-- Multiplication by x in GF(2^8). -/
def xtime (a : Nat) : Nat := if a < 128 then 2 * a else (2 * a) ^^^ 0x11B
def subBytes (b : List Nat) : List Nat := b.map sbox
def at16 (b : List Nat) (i : Nat) : Nat := (nth? b i).getD 0
/-- ShiftRows on a column-major block. -/
def shiftRows (b : List Nat) : List Nat := (range 0 16).map fun i => at16 b ((i + 4 * (i % 4)) % 16)
def mixColumn (a b c d : Nat) : List Nat :=
  let t := a ^^^ b ^^^ c ^^^ d
  [a ^^^ t ^^^ xtime (a ^^^ b), b ^^^ t ^^^ xtime (b ^^^ c), c ^^^ t ^^^ xtime (c ^^^ d), d ^^^ t ^^^ xtime (d ^^^ a)]
def mixColumns (b : List Nat) : List Nat :=
  (range 0 4).flatMap fun c => mixColumn (at16 b (4 * c)) (at16 b (4 * c + 1)) (at16 b (4 * c + 2)) (at16 b (4 * c + 3))
def xorB (a b : List Nat) : List Nat := (a.zip b).map fun (x, y) => x ^^^ y
/-- The next round key. -/
def nextKey (rcon : Nat) (k : List Nat) : List Nat :=
  let w (i : Nat) : List Nat := (range 0 4).map fun j => at16 k (4 * i + j)
  let r := match w 3 with
    | [a, b, c, d] => [sbox b ^^^ rcon, sbox c, sbox d, sbox a]
    | l => l
  let w0 := xorB (w 0) r
  let w1 := xorB (w 1) w0
  let w2 := xorB (w 2) w1
  w0 ++ w1 ++ w2 ++ xorB (w 3) w2
/-- Rounds 1 to 10 on a block. -/
def aesRounds : Nat → Nat → List Nat → List Nat → List Nat
  | 0, _, _, b => b
  | n + 1, rcon, k, b =>
    let k := nextKey rcon k
    let b := shiftRows (subBytes b)
    aesRounds n (xtime rcon) k (xorB (if n = 0 then b else mixColumns b) k)
def aes128 (key block : List Nat) : List Nat := aesRounds 10 1 key (xorB block key)

-- ## Rows (R76, R78, R79)

/-- The counter block of a column word (R79). -/
def counterBlock (pkg tile col row slot gen : Nat) : Nat :=
  pkg % 1024 * 2 ^ 118 + tile % 512 * 2 ^ 109 + col % 64 * 2 ^ 103 + row * 2 ^ 89 + slot * 2 ^ 85 + gen * 2 ^ 37
/-- The keystream of a column word, byte 0 first; bit 127 of the block is the top bit of its first byte. -/
def keystream (key pkg tile col row slot gen : Nat) : List Nat :=
  let w := counterBlock pkg tile col row slot gen
  aes128 ((range 0 16).map fun i => key / 256 ^ i % 256) ((range 0 16).map fun i => w / 256 ^ (15 - i) % 256)
/-- Encipher or decipher one column word. -/
def cipherWord (key pkg tile col row slot gen : Nat) (bs : List Byte) : List Byte :=
  (bs.zip (keystream key pkg tile col row slot gen)).map fun (b, k) => b ^^^ BitVec.ofNat 8 k

/-- The valid key slot bound to a function (R80). -/
def Place.slotOf (t : Place) (f : Nat) : Option (Nat × KeySlot) := t.keys.find? fun e => e.2.valid && e.2.fn == f
/-- B-store bytes of a row's column word. -/
def bstOff (row col : Nat) : Nat := row * 1024 + col * 16

/-- Commit one 1,024-byte row under a slot (R77, R78); `none` when the row's GEN is exhausted. -/
def State.bstCommit (s : State) (t row slot key : Nat) (bs : List Byte) : Option State :=
  let p := s.place t
  let gen := match fget? p.tags row with
    | some tag => tag.gen
    | none => 0
  if gen = 2 ^ 48 - 1 then none
  else
    let g := gen + 1
    let enc := (range 0 64).flatMap fun c => cipherWord key s.pkgNum t c row slot g ((bs.drop (16 * c)).take 16)
    some (s.modPlace t fun p => { p with
      bst := fsplice (row * 1024) 1024 ((fnumber (row * 1024) enc).filter fun e => e.2 != 0) p.bst
      tags := fput row ⟨slot, g⟩ p.tags
      bstBad := fclear p.bstBad fun w => w / 64 = row
      tagBad := fdel row p.tagBad })

/-- What a latch fill delivers of a column word to a function (R81): the plaintext, or zero bytes with the cause it
reports. -/
def State.bstWord (s : State) (t f row col : Nat) : List Byte × Option Nat :=
  let p := s.place t
  let zero := List.replicate 16 (0 : Byte)
  if fget false p.tagBad row then (zero, some cPoison)
  else match fget? p.tags row with
  | none => (zero, none)
  | some tag =>
    match fget? p.keys tag.slot with
    | some k =>
      if !(k.valid && k.fn == f) then (zero, some cPerm)
      else if fget false p.bstBad (row * 64 + col) then (zero, some cPoison)
      else (cipherWord k.key s.pkgNum t col row tag.slot tag.gen ((range (bstOff row col) 16).map (fget 0 (fslice (bstOff row col) 16 p.bst))), none)
    | none => (zero, some cPerm)

end Sys2Proof.Machine
end

