-- ==== Sys2Proof/Machine/Rse.lean ====
section
/-! DEFINITION. KV objects (R96 to R101) and the residency engine's queues: evaluation of a context, deadlines
and serve-in-place marks (R89 to R94, R106, R107). -/
namespace Sys2Proof.Machine

-- ## Coherent reads that move nothing

/-- The latest value of a byte of a resident page: the owner's, the home partition's, or the frame's. -/
def State.peekByte (s : State) (asid va : Nat) : Option Byte :=
  match s.walkPage asid va with
  | .leaf e l =>
    if !s.populated (paOf e l va) then none
    else
      let k := s.keyOf asid va
      let at' (d : Line) : Byte := BitVec.ofNat 8 (d.toNat / 2 ^ (8 * (va % 128)))
      let home := (s.homeLine k).filter fun h => bit h.valid (va % 128 / 32)
      -- a hidden write answers no other agent (R112)
      some (match ((s.dir k).own.map fun o => s.l1 o k).filter fun l => l.st == .m && !l.hide with
        | some own => at' own.data
        | none => match home with
          | some h => at' h.data
          | none => s.memByte (paOf e l va))
  | _ => none
def State.peek (s : State) (asid va n : Nat) : Option Nat :=
  (range 0 n).foldr (fun i (acc : Option Nat) =>
    match acc, s.peekByte asid (va + i) with
    | some a, some b => some (b.toNat + 256 * a)
    | _, _ => none) (some 0)

-- ## KV objects

/-- A KV descriptor as its 512 bits (R97). -/
structure Kvd where
  va : Nat
  w : Nat
  deriving DecidableEq, Repr
def Kvd.f (k : Kvd) (hi lo : Nat) : Nat := bits k.w hi lo
def Kvd.btab (k : Kvd) : Nat := k.f 511 456
def Kvd.gtab (k : Kvd) : Nat := k.f 455 400
def Kvd.npos (k : Kvd) : Nat := k.f 399 352
def Kvd.sink (k : Kvd) : Nat := k.f 227 215
def Kvd.ring (k : Kvd) : Nat := 2 ^ k.f 214 210
def Kvd.layers (k : Kvd) : Nat := k.f 209 202
def Kvd.heads (k : Kvd) : Nat := k.f 201 194
def Kvd.dim (k : Kvd) : Nat := 2 ^ k.f 193 190
def Kvd.fmt (k : Kvd) : Nat := k.f 189 188
def Kvd.zbytes (k : Kvd) : Nat := if k.fmt = 0 then 2 else 1
/-- Record size, slots per page, sink pages, pages per layer (R98). -/
def Kvd.rb (k : Kvd) : Nat := 2 * k.heads * k.dim * k.zbytes
def Kvd.spp (k : Kvd) : Nat := 65536 / k.rb
def Kvd.sinkPages (k : Kvd) : Nat := (k.sink + k.spp - 1) / k.spp
def Kvd.ppl (k : Kvd) : Nat := k.sinkPages + k.ring / k.spp
/-- R98. -/
def Kvd.valid (k : Kvd) : Bool :=
  bit k.w 186 && k.sink ≤ 4096 && 6 ≤ k.f 214 210 && k.f 214 210 ≤ 24 && 1 ≤ k.layers && 1 ≤ k.heads && k.heads ≤ 128 &&
    5 ≤ k.f 193 190 && k.f 193 190 ≤ 8 && k.fmt ≠ 3 && k.btab % 8 = 0 && k.gtab % 8 = 0 &&
    256 ≤ k.rb && k.rb ≤ 32768 && 2 ^ k.rb.log2 = k.rb && k.spp ≤ k.ring
/-- KVTVA, KVTASID, KVTSIZE of a function (R96). -/
def State.kvtVa (s : State) (f : Nat) : Nat := s.regBits (fnReg f 0x1020) 55 0
def State.kvtAsid (s : State) (f : Nat) : Nat := s.regBits (fnReg f 0x1028) 47 32
def State.kvtSize (s : State) (f : Nat) : Nat := s.regBits (fnReg f 0x1028) 20 0
/-- The descriptor's VA, for an index inside the table. -/
def State.kvdVa (s : State) (f handle : Nat) : Option Nat :=
  if handle % 2 ^ 20 < s.kvtSize f then some (s.kvtVa f + 64 * (handle % 2 ^ 20)) else none
def State.kvd (s : State) (f handle : Nat) : Option Kvd :=
  (s.kvdVa f handle).bind fun va => (s.peek (s.kvtAsid f) va 64).bind fun w =>
    let k : Kvd := ⟨va, w⟩
    if bit w 186 && k.f 239 228 = handle / 2 ^ 20 % 4096 then some k else none

-- ## Granules

/-- The PGD entry of the granule at a VA, with the address space that tags it. -/
def State.granAt (s : State) (asid va : Nat) : Option (Option Nat × Pgd) :=
  let a := (s.keyOf asid va).asid
  (s.gran a va).map fun p => (a, p)
/-- The KV granules of one object in an address space, sink granules marked (R90). -/
def State.objectGranules (s : State) (asid : Nat) (k : Kvd) : List (Nat × Bool) :=
  let pages := (range 0 (k.layers * k.ppl)).flatMap fun i =>
    match s.peek asid (k.btab + 8 * i) 8 with
    | some e => if bit e 0 then (range 0 8).map fun j => (bits e 55 16 * 65536 + 8192 * j, decide (i % k.ppl < k.sinkPages)) else []
    | none => []
  let lo := k.gtab / 8192
  pages ++ (range lo ((k.gtab + 4 * k.layers * k.ring + 8191) / 8192 - lo)).map fun g => (8192 * g, false)
/-- The objects that a context names. -/
def State.objectsOf (s : State) (c : Nat) : List Kvd :=
  (range 0 8).filterMap fun i =>
    if s.ctxd c (768 + i) (768 + i) = 1 then s.kvd (s.ctxVf c) (s.ctxd c (543 + 32 * i) (512 + 32 * i)) else none
/-- KV granules of a context: VA, sink mark, whether its object serves late pages in place. An object whose descriptor
breaks R98 contributes none (the model's choice, log 77). -/
def State.kvGranules (s : State) (c : Nat) : List (Nat × Bool × Bool) :=
  (s.objectsOf c).filter Kvd.valid |>.flatMap fun k => (s.objectGranules (s.ctxAsid c) k).map fun g => (g.1, g.2, bit k.w 187)

-- ## The residency engine's queues

def Rse.reset : Rse := ⟨[], none, [], [], [], []⟩
def State.rse (s : State) (d : Nat) : Rse := fget Rse.reset s.rses d
def State.modRse (s : State) (d : Nat) (f : Rse → Rse) : State := { s with rses := fmod Rse.reset s.rses d f }
/-- A function is in host-assisted mode on a die (R89). -/
def State.rseHa (s : State) (d f : Nat) : Bool :=
  if f < 64 then bit (s.regN (dieReg d 0x1010)) f else bit (s.regN (dieReg d 0x1018)) 0
/-- Queue a residency event (R107): for functions in host-assisted mode, KIND 3 for all. An event that no context has
caused has CTX 0 (the model's choice, log 77). -/
def State.resEvent (s : State) (d kind va asid ctx vf : Nat) : State :=
  if kind = 3 || s.rseHa d vf then
    s.modRse d fun r => { r with events := r.events ++
      [s.tick % 2 ^ 64 * 2 ^ 192 + va * 2 ^ 136 + asid * 2 ^ 120 + ctx % 65536 * 2 ^ 104 + vf * 2 ^ 97 + kind * 2 ^ 94] }
  else s
/-- The home die of a granule's region. -/
def State.granDie (s : State) (a : Option Nat) (va : Nat) : Nat := s.homeDie ⟨a, va / 128⟩
/-- The RSE moves only 8 KiB pages of regions with an HBM path (R86). -/
def State.movable (s : State) (a : Option Nat) (va : Nat) : Bool :=
  match s.gran a va, fget? s.regions (regionCode a va) with
  | some p, some r => !p.large && r.path < 2
  | _, _ => false
/-- An entry already queued keeps the earlier deadline (R91, R93). -/
def State.enqueuePromote (s : State) (a : Option Nat) (va dl owner : Nat) : State :=
  let g := granCode a va
  s.modRse (s.granDie a va) fun r =>
    if r.queue.any fun m => m.gran = g && m.promote then
      { r with queue := modFirst (fun m => m.gran = g && m.promote) (fun m => { m with deadline := min m.deadline dl }) r.queue }
    else { r with queue := r.queue ++ [⟨g, true, dl, owner, false⟩] }
def State.enqueueDemote (s : State) (a : Option Nat) (va owner : Nat) : State :=
  let g := granCode a va
  s.modRse (s.granDie a va) fun r =>
    if r.queue.any fun m => m.gran = g then r else { r with queue := r.queue ++ [⟨g, false, 0, owner, false⟩] }
/-- A wake inside the horizon cancels demotions that have not begun (R93). -/
def State.cancelDemote (s : State) (a : Option Nat) (va : Nat) : State :=
  s.modRse (s.granDie a va) fun r => { r with queue := r.queue.filter fun m => !(m.gran = granCode a va && !m.promote) }

/-- R91's evaluation of a context. A PWAKE below MARGIN gives the deadline 0 (the model's choice, log 77). -/
def State.evaluate (s : State) (c : Nat) : State :=
  let d := c / 16384 % 4
  if s.rseHa d (s.ctxVf c) then s
  else
    let cfg (hi lo : Nat) : Nat := 1000 * s.regBits (dieReg d 0x1008) hi lo
    let now := s.tick
    let w := s.ctxd c 191 128
    let st := s.ctxState c
    if st = 1 || st = 2 || (cfg 63 48 ≠ 0 && w ≤ now + cfg 63 48) then
      (s.kvGranules c).foldl (fun s (va, _, _) =>
        match s.granAt (s.ctxAsid c) va with
        | some (a, p) =>
          let s := s.cancelDemote a va
          if p.tier = 2 && p.st = 0 && s.movable a va then s.enqueuePromote a va (w - cfg 31 16) c else s
        | none => s) s
    else if w > now + cfg 63 48 + cfg 47 32 then
      (s.kvGranules c).foldl (fun s (va, sink, _) =>
        match s.granAt (s.ctxAsid c) va with
        | some (a, p) => if p.tier = 1 && !p.pin && !sink && p.owner = some c && s.movable a va then s.enqueueDemote a va c else s
        | none => s) s
    else s

/-- A queued promotion of the granule has missed its deadline (R94). -/
def State.missed (s : State) (a : Option Nat) (va : Nat) : Bool :=
  (s.rse (s.granDie a va)).queue.any fun m => m.gran = granCode a va && m.promote && m.deadline ≤ s.tick
/-- R94 for an eligible context: late T2 granules of objects with SIPOK are marked, and the VA of a granule
that parks the context is answered. -/
def State.tierCheck (s : State) (c : Nat) : State × Option Nat :=
  (s.kvGranules c).foldl (fun (acc : State × Option Nat) (va, _, sipok) =>
    let s := acc.1
    match s.granAt (s.ctxAsid c) va with
    | some (a, p) =>
      if p.tier = 3 then (s, some (acc.2.getD va))
      else if p.tier = 2 && s.missed a va then
        (if sipok then (s.modGran a va fun p => { p with sip := true }, acc.2) else (s, some (acc.2.getD va)))
      else acc
    | none => acc) (s, none)
/-- No granule remains below T1 of an object of a context that names the granule at `va` (R94, R151). -/
def State.objectInT1 (s : State) (c va : Nat) : Bool :=
  ((s.objectsOf c).filter Kvd.valid).all fun k =>
    let l := s.objectGranules (s.ctxAsid c) k
    !(l.any fun g => g.1 = va / 8192 * 8192) || l.all fun g => match s.granAt (s.ctxAsid c) g.1 with
      | some (_, p) => p.tier ≤ 1
      | none => true

end Sys2Proof.Machine
end

