-- ==== Sys2Proof/Machine/Ops.lean ====
section
/-! DEFINITION. The operations that instructions share: who accesses memory, control-transfer targets,
TAKING AN EXCEPTION (R357, R362 to R365, R404) and escalation. -/
namespace Sys2Proof.Machine

/-- The acting core as an agent of memory: the running context's address space and function. The SC's
stores carry the context's provenance (R41); a CFE and a steward core are no context (65536). -/
def curAcc : M Acc := do
  let s ← get
  let t := s.here
  return ⟨s.cur, t.asid, t.vf, if isTile s.cur then t.ctx else 65536, none, 0⟩
/-- A steward core at privilege 1 or above addresses memory physically (R404). -/
def State.physical (s : State) : Bool := isSteward s.cur && s.here.cc.priv ≥ 1

/-- The checks a control transfer makes on its target (R178). -/
def checkTarget (t : Word) : M Unit := do
  need cAlign (t.toNat % 8 = 0)
  need cPerm (t.toNat < 2 ^ 56)

/-- PMP check of a steward core at privilege 1 or 2 (R405): one region grants every one of `rights`, 1 R, 2 W, 3 X as XWR
bits. -/
def State.pmpAllows (s : State) (pa n : Nat) (rights : List Nat) : Bool :=
  let p := s.here.cc.priv
  if p ≥ 3 then true
  else (range 0 16).any fun j =>
    let w := s.regN (iodReg 0 (0x6008 + 0x100 * (s.cur - 516) + 8 * j))
    let sz := bits w 11 6
    let base := bits w 51 12 * 4096
    bit w 0 && 12 ≤ sz && sz ≤ 52 && base % 2 ^ sz = 0 && bit w (if p = 2 then 5 else 4) && rights.all (fun r => bit w r) &&
      base ≤ pa && pa + n ≤ base + 2 ^ sz

-- ## Taking an exception

/-- `sys.cause` of a cause (R362). -/
def causeWord (code detail : Nat) (queue : Option Nat) : Word :=
  BitVec.ofNat 64 (detail % 2 ^ 32 * 2 ^ 32 + queue.getD 0 * 2 ^ 13 + b2n queue.isSome * 2 ^ 12 + code % 256)

/-- The tile stays frozen, `CTXD.INCOMP` is set, and the event escalates to the monitor firmware (R364,
R371, R413). -/
def State.escalate (s : State) (t : Nat) : State :=
  (s.setCtxd (s.place t).ctx 53 53 1).modPlace t fun p => { p with hold := .escalated, entering := none }
/-- A cause of the SC escalates with the SC's pc and cause (R364). -/
def State.escalateSc (s : State) (t code detail : Nat) : State :=
  (s.modPlace t fun p => { p with scEvent := some (p.sc.pc, causeWord code detail none) }).escalate t

/-- The SC reads its handler's address at `sys.tvec` + 8c as a load that needs R, and begins there; an
entry of zero or a faulting read escalates; a page on its way makes the SC wait (R364, R365). -/
def State.enterHandler (s : State) (t : Nat) : State :=
  let p := s.place t
  match p.entering with
  | none => s
  | some c =>
    let va := p.tvec + 8 * c
    let a : Acc := ⟨t, p.asid, p.vf, p.ctx, none, 0⟩
    let read : M Nat := do
      checkVa va
      need cAlign (va % 8 = 0)
      let _ ← checkPerm a va .r
      let h := numOf (← readL1 a va 8)
      checkTarget (BitVec.ofNat 64 h)
      return h
    match read.run s with
    | .ok h s' =>
      -- an entry of zero, which names no cause of its own (log 89)
      if h = 0 then s'.escalateSc t 0 0
      else s'.modPlace t fun p => { p with entering := none, sc := { p.sc with pc := BitVec.ofNat 64 h, priv := 1 } }
    | .error (.trap c d) s' => s'.escalateSc t c d
    | .error _ s' => s'

/-- TAKE an exception at a tile whose CC runs (R357): the CC freezes, `sys.cause` and `sys.epc` are
written, the SC receives copies of the registers and begins at the handler at privilege 1. -/
def State.takeTrap (s : State) (t code detail : Nat) (queue : Option Nat) (epc : Word) : State :=
  let s := s.modPlace t fun p => { p with
    frozen := true, hold := .running, cause := causeWord code detail queue, epc := epc,
    sc := { p.sc with g := p.cc.g, f := p.cc.f, priv := 1 }, entering := some code, cutPc := epc, stepArm := false, stallSince := none, begun := none, tb := none }
  (s.traceTile t 0x03 epc.toNat ((s.place t).cause.toNat % 2 ^ 32) detail).enterHandler t

/-- A trap of a steward core: privilege 1 or 2 enters the next layer at STEWCTL.TVEC + 8 × cause with
PPRIV the trapping privilege; privilege 3 halts the core and sets BOOTST.ERR (R404, log 11). -/
def State.takeStewardTrap (s : State) (k code detail : Nat) (epc : Word) : State :=
  let p := s.place k
  let ctl := iodReg 0 (0x6000 + 0x100 * (k - 516))
  if p.cc.priv ≥ 3 then
    let s := if s.regBits 0x8 23 16 = 0 then s.setRegBits 0x8 23 16 0x30 else s
    s.modPlace k fun p => { p with hold := .halted, cause := causeWord code detail none, epc := epc }
  else
    let tvec := s.regBits ctl 63 16 * 256
    (s.setRegBits ctl 3 2 p.cc.priv).modPlace k fun p => { p with
      cause := causeWord code detail none, epc := epc, hold := .running
      cc := { p.cc with pc := BitVec.ofNat 64 (tvec + 8 * code), priv := p.cc.priv + 1 } }

/-- The next asynchronous cause of a place, WATCHDOG first, then in order of report (R364). -/
def nextAsync (l : List Async) : Option (Async × List Async) :=
  match l.find? fun a => a.code == cWatchdog with
  | some a => some (a, l.erase a)
  | none => match l with
    | [] => none
    | a :: r => some (a, r)

/-- Take the pending asynchronous cause of a tile at this boundary (R364). -/
def State.takeAsync (s : State) (t : Nat) : Option State :=
  let p := s.place t
  if p.frozen then none
  else match nextAsync p.async with
    | none => none
    | some (a, r) => some ((s.modPlace t fun p => { p with async := r }).takeTrap t a.code a.detail a.queue p.cc.pc)

/-- Registers go back from the SC to the CC below the bound (R366). -/
def Place.copyBack (t : Place) : Place :=
  { t with cc := { t.cc with
      g := (range 0 t.regbnd).foldl (fun m i => fset 0 m i (t.sc.getG i)) t.cc.g
      f := (range 0 (t.regbnd / 2)).foldl (fun m i => fset 0 m i (t.sc.getF i)) t.cc.f } }
/-- The pc and the action that `sys.epc` holds at an ERET (R366). -/
def eretPc (epc : Word) : Word := epc &&& ~~~7
/-- The return from an exception that thaws the CC at the pc of `sys.epc` (R366, R417). -/
def Place.thaw (t : Place) (step : Bool) : Place :=
  let t := t.copyBack
  { t with cc := { t.cc with pc := eretPc t.epc }, frozen := false, stepArm := step, bpSkip := true, entering := none }

end Sys2Proof.Machine
end

