-- ==== Sys2Proof/Machine/Context.lean ====
section
/-! DEFINITION. Contexts: coherent access of the schedulers to memory, the save images, and the state
changes of a context (R148 to R154, R368 to R370, R419). -/
namespace Sys2Proof.Machine

-- ## Memory as the CFE, CXS and RSE reach it: at the home partitions (R55, R108)

/-- What such an access meets. -/
inductive Got where
  | ok (bs : List Byte)
  | wait
  | bad
  deriving DecidableEq, Repr

/-- The PA of a resident page's address. -/
def State.vaPa (s : State) (asid va : Nat) : Option Nat :=
  match s.walkPage asid va with
  | .leaf e l => if s.pstAt (s.keyOf asid va) e l = 0 && s.populated (paOf e l va) then some (paOf e l va) else none
  | _ => none
/-- A host copy of a device-homed line must go, or yield, first (R75). -/
def State.vaReady (s : State) (asid va : Nat) (own : Bool) : Bool :=
  match s.vaPa asid va with
  | some pa => (s.paAsk pa own).isNone
  | none => true
def State.vaAsk (s : State) (asid va : Nat) (own : Bool) : State :=
  match s.vaPa asid va with
  | some pa => s.paRequest pa own
  | none => s
/-- Read bytes of one line coherently. -/
def State.fetchLine (s : State) (asid va n : Nat) : State × Got :=
  let k := s.keyOf asid va
  if s.lineWaits k || !s.vaReady asid va false then (s.vaAsk asid va false, .wait)
  else
    let s := s.cleanLine k
    match s.walkPage asid va with
    | .leaf e l =>
      let pa := paOf e l va
      if ptePst e = 1 || ptePst e = 2 then (s, .wait)
      else if s.populated pa && s.pstAt k e l = 0 then (s.unkept k (some pa), .ok (s.latest k pa n)) else (s, .bad)
    | _ => (s, .bad)
/-- Read bytes coherently; `vf` asks for read permission of the region for that function. -/
def State.fetch (s : State) (asid : Nat) (vf : Option Nat) (va n : Nat) : State × Got :=
  (spanLines va n).foldl (fun (s, g) (lva, off, m) =>
    match g with
    | .ok bs =>
      let allowed := match vf with
        | none => true
        | some f => match s.region (some asid) lva with
          | some r => r.perm.r && r.perm.vf == f && !r.perm.dev
          | none => false
      if !allowed then (s, .bad)
      else match s.fetchLine asid (lva + off) m with
        | (s, .ok b) => (s, .ok (bs ++ b))
        | (s, g) => (s, g)
    | g => (s, g)) (s, .ok [])
/-- Write bytes coherently into resident pages; `none` when a page is not there. -/
def State.putVa (s : State) (asid va : Nat) (bs : List Byte) : Option State :=
  ((spanLines va bs.length).foldl (fun (acc : Option State × List Byte) (lva, off, m) =>
    match acc with
    | (none, r) => (none, r)
    | (some s, r) =>
      let k := s.keyOf asid lva
      if s.lineWaits k || !s.vaReady asid lva true then (none, r)
      else match s.vaPa asid (lva + off) with
        | none => (none, r)
        | some pa => (some ((s.flushLine k).frameWrite pa (r.take m)), r.drop m)) (some s, bs)).1

-- ## Save images

/-- No load of the landing buffer still reads, but for one that has parked its context, and no store is under way (R277,
R358). -/
def Place.memRest (p : Place) : Bool := p.landing.all fun l => l.kind ≠ 5 && (l.kind ≠ 4 || l.again)
/-- No command of a tile is started. -/
def State.enginesRest (s : State) (t : Nat) : Bool :=
  (range 0 6).all (fun q => (s.engq t q).cur.isNone) && (s.place t).memRest
/-- The landing buffer as it is saved: its times count from the first ck in which nothing has issued (R277, R358). -/
def Place.landingAt (p : Place) : List Landing := if p.veIssued then p.landing.map fun l => { l with rem := l.rem - 1 } else p.landing
/-- Landing-buffer records in the layout of R369. -/
def nibbleMask (m : VReg) : List Byte :=
  bytesOf 64 ((range 0 512).foldl (fun a i => if m.toNat / 2 ^ (4 * i) % 2 = 1 then a + 2 ^ i else a) 0)
def landingBytes (l : Landing) : List Byte :=
  let head := b2n (l.kind = 4 && l.sp) * 2 ^ 128 + l.lanes * 2 ^ 64 + l.seq * 2 ^ 32 + l.sinc * 2 ^ 28 + l.ssem * 2 ^ 20 + l.data.length * 2 ^ 16 +
    l.base * 2 ^ 11 + l.kind * 2 ^ 8 + l.rem
  bytesOf 32 head ++
    (if l.kind = 2 then bytesOf 16 ((l.data.headD 0).toNat % 2 ^ 64)
     else if l.kind = 4 then l.addrs.flatMap (bytesOf 8)
     else l.data.flatMap (fun v => bytesOf 256 v.toNat) ++ (if l.kind = 3 then l.mask.flatMap nibbleMask else []))
/-- The bits that lanes name. -/
def laneBits (lanes : Nat) : VReg :=
  (range 0 64).foldl (fun m i => if bit lanes i then m ||| ((BitVec.allOnes 32).zeroExtend 2048 <<< (32 * i)) else m) 0
def unnibble (n : Nat) : VReg :=
  (range 0 512).foldl (fun m i => if bit n i then m ||| ((BitVec.allOnes 4).zeroExtend 2048 <<< (4 * i)) else m) 0

/-- Light and full images share bits [447:0] (R368, R369). -/
def State.imageHead (s : State) (t : Nat) (resume : Word) (gm fm : Nat) : Nat :=
  let p := s.place t
  (range 0 6).foldl (fun a i => a + (s.engq t i).next % 2 ^ 32 * 2 ^ (256 + 32 * i))
    (p.mesr * 2 ^ 224 + p.vesr * 2 ^ 192 + p.srseed * 2 ^ 160 + fm % 2 ^ 32 * 2 ^ 128 + gm % 2 ^ 64 * 2 ^ 64 + p.lead * 2 ^ 60 +
      resume.toNat % 2 ^ 56)
/-- Live registers in ascending number, `g` before `f` (R368). -/
def liveRegs (p : Place) (gm fm : Nat) : List Word :=
  ((range 1 63).filter (bit gm)).map p.cc.getG ++ ((range 0 32).filter (bit fm)).map p.cc.getF
/-- The 256-byte light image (R368). -/
def State.lightImage (s : State) (t : Nat) (resume : Word) (gm fm : Nat) : Nat :=
  let p := s.place t
  let regs := liveRegs p gm fm
  s.imageHead t resume gm fm +
    ((range 0 16).foldl (fun a k => a + ((nth? regs k).getD 0).toNat * 2 ^ (448 + 64 * k)) 0) +
    ((range 0 32).foldl (fun a i => a + p.getSem i * 2 ^ (1472 + 16 * i)) 0)

/-- The cut of a queue: LASTC and FIRSTU (R359). -/
def State.cut (s : State) (t q : Nat) : Nat :=
  let e := s.engq t q
  let r := s.ring t q
  let unstarted := if e.cur.isSome then r.filled - 1 else r.filled
  let firstu := (e.next + 2 ^ 32 - unstarted % 2 ^ 32) % 2 ^ 32
  (firstu + 2 ^ 32 - 1) % 2 ^ 32 * 2 ^ 32 + firstu
/-- `sys.cutv`k (R359): `k` 0 holds LB and PC, `k` 1 to 6 the queues. -/
def State.cutv (s : State) (t k : Nat) : Nat :=
  if k = 0 then b2n (!(s.place t).landing.isEmpty) * 2 ^ 56 + (s.place t).cutPc.toNat % 2 ^ 56 / 8 * 8 else s.cut t (k - 1)

/-- Listed matrix configuration entries as bytes of an image at `o`. -/
def wordsAt (o : Nat) (m : FMap Word) (n : Nat) : List (Nat × List Byte) :=
  (m.filter fun e => e.1 < n).map fun e => (o + 8 * e.1, bytesOf 8 e.2.toNat)
def mapBits (e : MapEntry) : Nat :=
  e.vabase * 2 ^ 72 + e.wb * 2 ^ 66 + b2n e.lazy * 2 ^ 65 + 2 ^ 64 + e.len * 2 ^ 21 + e.spbase
def grantBits (e : Grant) : Nat :=
  b2n e.v * 2 ^ 127 + e.vf * 2 ^ 120 + e.rights * 2 ^ 115 + e.pklo * 2 ^ 105 + e.pkhi * 2 ^ 95 + e.tlo * 2 ^ 86 + e.thi * 2 ^ 77 +
    e.oflo * 2 ^ 56 + e.ofhi * 2 ^ 35
def grantOfBits (w : Nat) : Grant :=
  ⟨bit w 127, bits w 126 120, bits w 119 115, bits w 114 105, bits w 104 95, bits w 94 86, bits w 85 77, bits w 76 56, bits w 55 35⟩

/-- The full image as pieces by rising offset, zero elsewhere (R369). -/
def State.fullImage (s : State) (t : Nat) (resume : Word) (cut0 : Nat) : List (Nat × List Byte) :=
  let p := s.place t
  [(0, bytesOf 56 (s.imageHead t resume 0 0)), (0x38, bytesOf 8 p.exc.toNat)] ++
  ((range 0 7).map fun k => (0x40 + 8 * k, bytesOf 8 (if k = 0 then cut0 else s.cutv t k))) ++
  wordsAt 0x80 p.cc.g 64 ++ wordsAt 0x280 p.cc.f 32 ++
  ((range 0 8).map fun i => (0x380 + 8 * i, bytesOf 8 (p.getM i).toNat)) ++
  (p.sem.map fun e => (0x400 + 2 * e.1, bytesOf 2 e.2)) ++
  ((range 0 64).map fun q => (0x600 + 16 * q, bytesOf 16 (ringBits q (s.ring t q)))) ++
  (p.maps.map fun e => (0xA00 + 16 * e.1, bytesOf 16 (mapBits e.2))) ++
  wordsAt 0xB00 p.mcShadow 32 ++ wordsAt 0xC00 p.mcPending 32 ++ wordsAt 0xD00 p.mcActive 32 ++
  [(0xE00, bytesOf 1 (b2n p.mcOcc))] ++
  (p.v.map fun e => (0x1000 + 256 * e.1, bytesOf 256 e.2.toNat)) ++
  ((p.grants.zip (range 0 64)).map fun e => (0x3000 + 16 * e.2, bytesOf 16 (grantBits e.1))) ++
  [(0x3400, bytesOf 6144 (p.mapDirty.foldl (fun a e => if e.2 then a + 2 ^ e.1 else a) 0)),
   (0x4C00, p.landingAt.flatMap landingBytes)] ++
  (if p.accEpoch = 0 then p.acc.map fun e => (0x10000 + 4 * e.1, bytesOf 4 e.2.toNat)
    else (range 0 16384).map fun i => (0x10000 + 4 * i, bytesOf 4 (p.accAt i))) ++
  (if p.spEpoch = 0 then p.sp.map fun e => (0x20000 + e.1, [e.2])
    else (range 0 1536).map fun i => (0x20000 + 1024 * i, p.spBytes (1024 * i) 1024))

/-- Zero the listed bytes of a range of physical memory. -/
def State.clearPa (s : State) (pa n : Nat) : State := { s with mem := fclear s.mem fun a => pa ≤ a && a < pa + n }
/-- The 8 KiB pages of an image, each at its PA; `none` when one is not resident. -/
def State.imagePages (s : State) (asid va n : Nat) : Option (List Nat) :=
  (range 0 ((n + 8191) / 8192)).foldr (fun i (acc : Option (List Nat)) =>
    match acc, s.vaPa asid (va + 8192 * i) with
    | some l, some pa => some (pa :: l)
    | _, _ => none) (some [])
/-- Replace `n` bytes of memory from `pa` by the listed ones from `off` of a table of bytes. -/
def State.placeBytes (s : State) (pa n off : Nat) (m : FMap Byte) : State :=
  { s with mem := fsplice pa n ((fslice off n m).map fun e => (e.1 - off + pa, e.2)) s.mem }
/-- What the host must be asked for before a unit reads or replaces a range of frames: its copies of device-homed lines
(R75), and every host line (R72). -/
def State.rangeAsks (s : State) (pa n : Nat) (own : Bool) : List Msg :=
  let lines := if inT3 pa then (range 0 ((n + 127) / 128)).map fun i => pa + 128 * i
    else (s.hosts.filter fun e => pa / 128 ≤ e.1 && e.1 < (pa + n + 127) / 128).map fun e => 128 * e.1
  lines.filterMap fun a => s.paAsk a own
/-- The same for an image; nothing while its pages are not there. -/
def State.imageAsks (s : State) (asid va n : Nat) (own : Bool) : List Msg :=
  match s.imagePages asid va n with
  | some pages => (pages.zip (range 0 pages.length)).flatMap fun (pa, i) => s.rangeAsks pa (min 8192 (n - 8192 * i)) own
  | none => []
/-- Write an image whose pages lie at `pages`; their frames have been written (R88). -/
def State.writeImage (s : State) (pages : List Nat) (size : Nat) (pieces : List (Nat × List Byte)) : State :=
  let image : FMap Byte := pieces.flatMap fun (o, bs) => (fnumber o bs).filter fun e => e.2 != 0
  (pages.zip (range 0 pages.length)).foldl (fun s (pa, i) => (s.placeBytes pa (min 8192 (size - 8192 * i)) (8192 * i) image).frameDirty pa) s
/-- Bytes of an image. -/
def State.imageNum (s : State) (pages : List Nat) (o n : Nat) : Nat :=
  numOf ((range o n).map fun i => s.memByte ((nth? pages (i / 8192)).getD 0 + i % 8192))
/-- Forget cached copies of the pages before the CXS writes or reads them in memory. -/
def State.settle (s : State) (asid va n : Nat) : State :=
  s.flushLines fun k => (k.asid == some asid || k.asid == none) && va / 128 ≤ k.line && k.line < (va + n + 127) / 128

def fullSize : Nat := 0x1A0000

/-- What the host must be asked for before counts are added to a context's area. -/
def State.counterAsks (s : State) (c : Nat) : List Msg :=
  let va := s.ctxd c 503 448
  (range 0 4).filterMap fun i => (s.vaPa (s.ctxAsid c) (va / 128 * 128 + 128 * i)).bind fun pa => s.paAsk pa true
/-- What the host must be asked for before the context of a tile is saved. -/
def State.saveAsks (s : State) (t : Nat) (light : Bool) : List Msg :=
  let p := s.place t
  (if light then s.imageAsks p.asid (s.ctxd p.ctx 311 256 + 256 * p.gpos) 256 true
    else s.imageAsks p.asid (s.ctxd p.ctx 375 320 + fullSize * p.gpos) fullSize true) ++ s.counterAsks p.ctx
/-- Save the context of a tile in either form (R153, R368, R369); `none` when an image page is not
there. Word 0 of the CTXD is written last (R148, R370). -/
def State.saveImage (s : State) (t pos : Nat) (resume : Word) (light : Option (Nat × Nat)) : Option State :=
  let p := s.place t
  let c := p.ctx
  match light with
  | some (gm, fm) =>
    let va := s.ctxd c 311 256 + 256 * pos
    let s := s.settle p.asid va 256
    (s.putVa p.asid va (bytesOf 256 (s.lightImage t resume gm fm))).map fun s =>
      (s.setCtxd c 54 54 1).setCtxd c 52 52 0
  | none =>
    let va := s.ctxd c 375 320 + fullSize * pos
    let s := s.settle p.asid va fullSize
    match s.imagePages p.asid va fullSize with
    | none => none
    | some pages =>
      let cut0 := b2n (!p.landing.isEmpty) * 2 ^ 56 + resume.toNat
      let s := s.writeImage pages fullSize (s.fullImage t resume cut0)
      let s := (range 0 7).foldl (fun s k => s.setCtxd c (1215 + 64 * k) (1152 + 64 * k) (if k = 0 then cut0 else s.cutv t k)) s
      some ((s.setCtxd c 54 54 1).setCtxd c 52 52 1)

-- ## Restore

/-- The saved landing records from offset `o` of an image (R369). The tile's first ck still comes, so one ck is added to
each time. -/
def State.loadLanding (s : State) (pages : List Nat) : Nat → Nat → List Landing
  | 0, _ => []
  | n + 1, o =>
    let h := s.imageNum pages o 32
    let kind := bits h 10 8
    let count := bits h 19 16
    let lanes := bits h 127 64
    let mk (data mask : List VReg) (addrs : List Nat) : Landing :=
      ⟨bits h 7 0 + 1, bits h 15 11, data, mask, kind, lanes, kind = 4 && bit h 128, addrs, bits h 27 20, bits h 31 28, bits h 63 32, false, kind = 4⟩
    let regsAt (o : Nat) : List VReg := (range 0 count).map fun i => BitVec.ofNat 2048 (s.imageNum pages (o + 256 * i) 256)
    if kind = 1 then
      mk (regsAt (o + 32)) (List.replicate count (laneBits lanes)) [] :: s.loadLanding pages n (o + 32 + 256 * count)
    else if kind = 2 then
      mk [BitVec.ofNat 2048 (s.imageNum pages (o + 32) 8)] [BitVec.ofNat 2048 (2 ^ 64 - 1)] [] :: s.loadLanding pages n (o + 48)
    else if kind = 3 then
      mk (regsAt (o + 32)) ((range 0 count).map fun i => unnibble (s.imageNum pages (o + 32 + 256 * count + 64 * i) 64)) [] ::
        s.loadLanding pages n (o + 32 + 320 * count)
    else if kind = 4 then
      mk [0] [0] ((range 0 64).map fun i => s.imageNum pages (o + 32 + 8 * i) 8) :: s.loadLanding pages n (o + 544)
    else []

/-- A table read from consecutive words of an image. -/
def tableOf {α} [DecidableEq α] (d : α) (n : Nat) (f : Nat → α) : FMap α := (range 0 n).foldl (fun m i => fset d m i (f i)) []
/-- The listed bytes of the image's pages between two offsets, moved down to 0. -/
def State.imageBytes (s : State) (pages : List Nat) (lo : Nat) : FMap Byte :=
  ((pages.drop (lo / 8192)).zip (range 0 (pages.length - lo / 8192))).flatMap fun (pa, i) =>
    (fslice pa 8192 s.mem).map fun c => (c.1 - pa + 8192 * i, c.2)
def mapOfBits (w : Nat) : MapEntry := ⟨bits w 127 72, bits w 67 66, bit w 65, bits w 41 21, bits w 20 0, 0⟩

/-- What holds a core when its tile changes hands: a HALT stays until RESTART (R270, log 105). -/
def Hold.kept (h : Hold) : Hold := if h == .halted then .halted else .running
/-- A place that belongs to nobody: registers, files and queues of a context are gone; the parts that no context owns stay
(R35, R36, R369, R409). -/
def Place.freshContext (p : Place) : Place := { p with
  cc := { Core.reset with pc := p.cc.pc, priv := 0 }, sc := Core.reset, frozen := false, hold := p.hold.kept
  exc := 0, cause := 0, epc := 0, cutPc := 0, scEvent := none, lead := 0
  v := [], m := [], sem := [], landing := [], veIssued := false, met := none, qstep := none, q := [], entering := none, async := []
  stepArm := false, bpSkip := false, node := none, switch := none, victim := false, stallSince := none, begun := none, tb := none, recWait := false, promised := [], amoWait := none
  maps := [], mapDirty := [], mapSince := [], mapFilled := [], mcPending := [], mcOcc := false
  cnt := [] }

/-- Registers and files of a full image (R369). It holds neither which lines of a mapped region are filled nor the XMAP's
sequence: all are filled and the sequence is 0 where nothing is kept of them (`returnMaps`, log 75). -/
def State.restoreFull (s : State) (t asid va : Nat) : Option State :=
  let s := s.settle asid va fullSize
  match s.imagePages asid va fullSize with
  | none => none
  | some pages =>
    let num := s.imageNum pages
    let w64 (o i : Nat) : Word := BitVec.ofNat 64 (num (o + 8 * i) 8)
    let head := num 0 64
    let maps := (range 0 16).filterMap fun i => let w := num (0xA00 + 16 * i) 16; if bit w 64 then some (i, mapOfBits w) else none
    let dirty := num 0x3400 6144
    let grants := (range 0 64).map fun i => grantOfBits (num (0x3000 + 16 * i) 16)
    some (s.modPlace t fun p => { p.freshContext with
      cc := { g := tableOf 0 64 (w64 0x80), f := tableOf 0 32 (w64 0x280), pc := BitVec.ofNat 64 (bits head 55 3 * 8), priv := 0 }
      lead := bits head 63 60, srseed := bits head 191 160, vesr := bits head 223 192, mesr := bits head 255 224
      exc := excFields (w64 0x38 0)
      m := tableOf 0 8 fun i => if i = 0 then 0 else w64 0x380 i
      sem := tableOf 0 256 fun i => num (0x400 + 2 * i) 2
      rings := tableOf Ring.reset 64 fun q => ringOfBits (num (0x600 + 16 * q) 16)
      maps := maps
      mapDirty := maps.foldl (fun m e => (range (e.2.spbase / 32) (e.2.len / 32)).foldl (fun m i => if bit dirty i then fput i true m else m) m) []
      mapFilled := maps.foldl (fun m e => (range (e.2.spbase / 128) (e.2.len / 128)).foldl (fun m i => fput i true m) m) []
      mcShadow := tableOf 0 32 (w64 0xB00), mcPending := tableOf 0 32 (w64 0xC00), mcActive := tableOf 0 32 (w64 0xD00)
      mcOcc := num 0xE00 1 % 2 == 1, accEpoch := 0, spEpoch := 0
      v := tableOf 0 32 (fun i => BitVec.ofNat 2048 (num (0x1000 + 256 * i) 256)), spPoison := []
      grants := grants
      landing := s.loadLanding pages 256 0x4C00, veIssued := true
      acc := tableOf 0 16384 fun i => BitVec.ofNat 32 (num (0x10000 + 4 * i) 4)
      sp := s.imageBytes pages 0x20000
      q := tableOf EngQ.reset 6 fun i => { EngQ.reset with next := bits head (287 + 32 * i) (256 + 32 * i) } })

/-- The matrix configuration holds no defined value (R154): 32 free values. -/
def freeConfig (ep base : Nat) : FMap Word := tableOf 0 32 fun i => Config.freeWord ep (base + i)
/-- Registers of a light image: what it does not hold reads zero, and scratchpad, ACC and matrix
configuration hold free values (R154, R368, log 10). -/
def State.restoreLight (s : State) (t asid va : Nat) : Option State :=
  let s := s.settle asid va 256
  match s.fetch asid none va 256 with
  | (s, .ok bs) =>
    let im := numOf bs
    let gm := bits im 127 64
    let fm := bits im 159 128
    let regs : List Word := (range 0 16).map fun k => BitVec.ofNat 64 (bits im (511 + 64 * k) (448 + 64 * k))
    let gl := (range 1 63).filter (bit gm)
    let fl := (range 0 32).filter (bit fm)
    let ep := s.freeCount + 1
    some ({ s with freeCount := ep }.modPlace t fun p =>
      { p.freshContext with
        cc := { g := (gl.zip regs).foldl (fun (m : FMap Word) (e : Nat × Word) => fset 0 m e.1 e.2) [], f := (fl.zip (regs.drop gl.length)).foldl (fun (m : FMap Word) (e : Nat × Word) => fset 0 m e.1 e.2) []
                pc := BitVec.ofNat 64 (bits im 55 3 * 8), priv := 0 }
        lead := bits im 63 60, srseed := bits im 191 160, vesr := bits im 223 192, mesr := bits im 255 224
        sem := tableOf 0 32 fun i => bits im (1487 + 16 * i) (1472 + 16 * i)
        mcShadow := freeConfig ep 0x1000000, mcPending := freeConfig ep 0x1000100, mcActive := freeConfig ep 0x1000200, mcOcc := false
        acc := [], accEpoch := ep, sp := [], spEpoch := ep
        rings := p.rings.map fun (e : Nat × Ring) => (e.1, { e.2 with head := 0, tail := 0, claimed := 0 })
        q := tableOf EngQ.reset 6 fun i => { EngQ.reset with next := bits im (287 + 32 * i) (256 + 32 * i) } })
  | _ => none

-- ## Steps

def State.stepOf (s : State) (id : Nat) : Option Step := s.steps.find? fun st => st.id == id
def State.modStep (s : State) (id : Nat) (f : Step → Step) : State := { s with steps := modFirst (fun st => st.id == id) f s.steps }
def State.stepAt (s : State) (t : Nat) : Option Step := (s.place t).step.bind s.stepOf
def Step.modPos (st : Step) (j : Nat) (f : Position → Position) : Step :=
  { st with positions := (st.positions.zip (range 0 st.positions.length)).map fun (p, i) => if i = j then f p else p }
def State.modPos (s : State) (id j : Nat) (f : Position → Position) : State := s.modStep id fun st => st.modPos j f

/-- `sys.bmask` of a tile as one map (R146). -/
def State.bmaskNat (s : State) (t : Nat) : Nat :=
  (range 0 4).foldl (fun a i => a + (fget 0 (s.place t).bmask i).toNat * 2 ^ (64 * i)) 0
/-- Set the membership map of a tile. -/
def Place.setBmask (p : Place) (w : Nat) : Place :=
  { p with bmask := tableOf 0 4 fun i => BitVec.ofNat 64 (bits w (64 * i + 63) (64 * i)) }
/-- Contexts of a step whose bit is set in a map; a single-context step has bit 0 (R163). -/
def Step.active (st : Step) (map : Nat) : List Nat :=
  if st.batched then ((st.members.zip (range 0 st.members.length)).filter fun e => bit map e.2).map (·.1) else st.members
/-- The contexts that a step runs, or would. -/
def Step.current (st : Step) : List Nat := if st.started then st.active st.map else st.members
/-- Clear a member's batch bit, on every tile of the step too (R146, R151). -/
def State.clearMember (s : State) (st : Step) (i : Nat) : State :=
  (st.positions.foldl (fun s p => match p.tile with
    | some t => s.modPlace t fun q => q.setBmask (setBits (s.bmaskNat t) i i 0)
    | none => s) s).modStep st.id fun x => { x with map := setBits x.map i i 0 }
/-- A member of a started batched step that parks by itself leaves the batch (R94, R151). -/
def State.leaveBatch (s : State) (c : Nat) : State :=
  match s.steps.find? fun st => st.started && st.batched && st.current.contains c with
  | some st => match (st.members.zip (range 0 st.members.length)).find? fun e => e.1 = c with
    | some (_, i) => s.clearMember st i
    | none => s
  | none => s

-- ## Context states (R149, R151)

/-- A count is added to a context's counter area (R419). -/
def State.addCounter (s : State) (c n k : Nat) : State :=
  let va := s.ctxd c 503 448 + 8 * n
  match s.vaPa (s.ctxAsid c) va with
  | some pa =>
    let (s, old) := s.readPa pa 8
    s.putPa pa (bytesOf 8 ((numOf old + k) % 2 ^ 64))
  | none => s
/-- A park that is no switch of a tile, or of a member of a batched step: its trace record and its count, both of the lead
where a batched step runs the context (R416, R419). -/
def State.notePark (s : State) (die c reason pc tile : Nat) : State :=
  let lead := match s.steps.find? fun st => st.started && st.batched && st.current.contains c with
    | some st => st.chief
    | none => c
  (s.trace die 0x04 pc reason 0 lead tile (s.ctxVf c)).addCounter lead 0x009 1

/-- Write STATE and PREASON of a context, which the RSE then evaluates (R91). Entering Ready stamps READYT,
the trace notes it, and the rules of R94 for an eligible context apply: it may park at once. -/
def State.setCtxState (s : State) (c st reason : Nat) : State :=
  let s := ((s.setCtxd c 63 61 st).setCtxd c 60 57 reason).evaluate c
  if st = 1 then
    let s := (s.setCtxd c 1087 1024 s.tick).trace (c / 16384 % 4) 0x05 0 0 0 c 0 (s.ctxVf c)
    let below := (s.kvGranules c).any fun (va, _, _) => match s.granAt (s.ctxAsid c) va with | some (_, p) => p.tier ≥ 2 | none => false
    let s := if below then s.resEvent (c / 16384 % 4) 0 0 (s.ctxAsid c) c (s.ctxVf c) else s
    match s.tierCheck c with
    | (s, some va) => { (((((s.notePark (c / 16384 % 4) c 4 0 0).leaveBatch c).setCtxd c 63 61 3).setCtxd c 60 57 4).setCtxd c 1151 1088 va).evaluate c with waiters := addTo s.waiters c }
    | (s, none) => s
  else s
/-- Park a context: PREASON and PARKINFO, and the CXS watches its condition (R151). -/
def State.parkCtx (s : State) (c reason info : Nat) : State :=
  let s := (s.setCtxd c 1151 1088 info).setCtxState c 3 reason
  { s with waiters := addTo s.waiters c }
/-- A context's park condition has cleared: Ready, or PREASON 0 while Swapped (R149). -/
def State.unparkCtx (s : State) (c : Nat) : State :=
  let s := { s with waiters := remove s.waiters c, fenceMask := fdel c s.fenceMask, lateLine := fdel c s.lateLine, lateHeld := fdel c s.lateHeld }
  if s.ctxState c = 3 then s.setCtxState c 1 0 else if s.ctxState c = 4 then s.setCtxd c 60 57 0 else s

/-- Counts since load go to the context's counter area and start again (R419). -/
def State.flushCounters (s : State) (t : Nat) : State :=
  let p := s.place t
  (p.cnt.foldl (fun s (n, k) => s.addCounter p.ctx n k) s).modPlace t fun p => { p with cnt := [] }

/-- The store log of a tile goes to a second bank, to be written in the background (R41). -/
def State.bankLog (s : State) (t : Nat) : State :=
  s.modPlace t fun p => { p with slogBusy := if p.slog.isEmpty then none else some (p.ctx, p.slog), slog := [] }

/-- Key of what is kept of a context's queue at a gang position. -/
def queueKey (c j q : Nat) : Nat := 8 * (c + 65536 * j) + q
/-- The numbers of a context's queues are kept while it has no tile (R182, R258). -/
def State.keepQueues (s : State) (t : Nat) : State :=
  let p := s.place t
  (range 0 6).foldl (fun s q =>
    { s with queueSaved := fset (0, []) s.queueSaved (queueKey p.ctx p.gpos q) ((s.engq t q).next, (s.engq t q).reported) }) s
/-- A queue of a context as it comes to a tile. -/
def State.queueOf (s : State) (c j q : Nat) : EngQ :=
  let e := fget (0, []) s.queueSaved (queueKey c j q)
  { EngQ.reset with next := e.1, reported := e.2 }
/-- What the image does not hold of a tile's mapped regions stays with the context (R33, log 75). -/
def State.keepMaps (s : State) (t : Nat) : State :=
  let p := s.place t
  { s with mapSaved := fset ([], []) s.mapSaved (p.ctx + 65536 * p.gpos) (p.mapFilled, p.maps.map fun e => (e.1, e.2.seq)) }
/-- It comes back with the image. -/
def State.returnMaps (s : State) (c j t : Nat) : State :=
  match fget? s.mapSaved (c + 65536 * j) with
  | some (filled, seqs) => s.modPlace t fun p => { p with mapFilled := filled, maps := p.maps.map fun e => (e.1, { e.2 with seq := fget 0 seqs e.1 }) }
  | none => s
/-- A context leaves its tile: its counts, its store log, the numbers of its queues and its regions' state stay with it. -/
def State.putAway (s : State) (t : Nat) : State := (((s.flushCounters t).bankLog t).keepQueues t).keepMaps t
/-- Nothing is kept of a context's queues. -/
def State.dropQueues (s : State) (c : Nat) : State :=
  { s with queueSaved := s.queueSaved.filter fun e => e.1 / 8 % 65536 ≠ c, mapSaved := s.mapSaved.filter fun e => e.1 % 65536 ≠ c }

/-- Nothing is kept of a context: it is created, or freed (R149). -/
def State.forgetCtx (s : State) (c : Nat) : State :=
  { s with
    ctxAsync := fdel c s.ctxAsync, storeSeq := fdel c s.storeSeq, fenceMask := fdel c s.fenceMask, lateLine := fdel c s.lateLine
    lateHeld := fdel c s.lateHeld, parkPos := fdel c s.parkPos, progress := s.progress.filter fun e => e.1 / 8 % 65537 ≠ c }.dropQueues c

/-- A seed rotated left by 16 bits (R214). -/
def rotl16 (w : Nat) : Nat := w * 65536 % 2 ^ 32 + w / 65536

/-- The requirements of the light form hold (R153). -/
def Place.lightOk (p : Place) (sw : Switch) : Bool :=
  sw.light && (match p.node with
    | some (gm, fm) => (liveRegs p gm.toNat fm.toNat).length ≤ 16
    | none => false) && (range 32 224).all fun i => p.getSem i = 0

/-- All global stores of the tile are performed at package scope, held ones apart (R135). -/
def State.quiet (s : State) (t : Nat) : Bool :=
  (s.place t).l1.all fun (_, l) => l.pend.isEmpty && !l.mark

end Sys2Proof.Machine
end

