-- ==== Sys2Proof/Machine/Record.lean ====
section
/-! DEFINITION. Recording and replay of a context's inputs (R421 to R423). -/
namespace Sys2Proof.Machine

/-- Registers of recording slot `k` of function `f`. -/
def recReg (f k o : Nat) : Nat := fnReg f (0x2000 + 0x40 * k + o)
def State.recN (s : State) (f k : Nat) : Nat := s.regBits (recReg f k 0x10) 4 0
def State.recMode (s : State) (f k : Nat) : Nat := s.regBits (recReg f k 0x10) 9 8
def State.recUsed (s : State) (f k : Nat) : Nat := s.regN (recReg f k 0x18) - s.regN (recReg f k 0x20)
/-- Slots of a context that are enabled and have begun. -/
def State.recSlotsOf (s : State) (c : Nat) : List Nat :=
  let f := s.ctxVf c
  (range 0 4).filter fun k =>
    fget false s.recSlots (4 * f + k) && bit (s.regN (recReg f k 0)) 16 && s.regBits (recReg f k 0) 15 0 = c &&
      12 ≤ s.recN f k && s.recN f k ≤ 30
def State.recording (s : State) (c : Nat) : List Nat := (s.recSlotsOf c).filter fun k => s.recMode (s.ctxVf c) k < 2
def State.replaying (s : State) (c : Nat) : Option Nat := (s.recSlotsOf c).find? fun k => s.recMode (s.ctxVf c) k = 2

/-- INSTR of a context: the stored word, and what its tile has counted since load (R419). -/
def State.instrs (s : State) (c t : Nat) : Nat :=
  let stored := match s.vaPa (s.ctxAsid c) (s.ctxd c 503 448) with
    | some pa => numOf (s.readPa pa 8).2
    | none => 0
  stored + (if s.runs t c then fget 0 (s.place t).cnt 0 else 0)
/-- Write bytes at a position of the log's byte ring. -/
def State.recBytes (s : State) (c base n pos : Nat) (bs : List Byte) : State :=
  let o := pos % 2 ^ n
  let first := bs.take (2 ^ n - o)
  let s := (s.putVa (s.ctxAsid c) (base + o) first).getD s
  if first.length = bs.length then s else (s.putVa (s.ctxAsid c) base (bs.drop first.length)).getD s
/-- One entry: the head of R421 and the padded payload. -/
def State.recEntry (s : State) (c t k kind addr aux : Nat) (payload : List Byte) : State :=
  let f := s.ctxVf c
  let prod := s.regN (recReg f k 0x18)
  let head := s.tick % 2 ^ 64 * 2 ^ 192 + s.instrs c t % 2 ^ 64 * 2 ^ 128 + addr % 2 ^ 56 * 2 ^ 72 + payload.length % 2 ^ 16 * 2 ^ 56 +
    kind * 2 ^ 48 + aux % 2 ^ 32 * 2 ^ 16
  let bs := bytesOf 32 head ++ payload ++ List.replicate ((32 - payload.length % 32) % 32) 0
  (s.recBytes c (s.regN (recReg f k 8)) (s.recN f k) prod bs).setReg (recReg f k 0x18) (BitVec.ofNat 64 (prod + bs.length))
/-- Bytes an entry takes. -/
def entrySize (n : Nat) : Nat := 32 + (n + 31) / 32 * 32
/-- The horizon ends a recording (R422). -/
def State.horizonAt (s : State) (c t k : Nat) : State :=
  let f := s.ctxVf c
  let s := s.recEntry c t k 6 0 0 []
  let s := { (s.setReg (recReg f k 0x28) (BitVec.ofNat 64 s.tick)).setRegBits (recReg f k 0) 16 16 0 with recSlots := fdel (4 * f + k) s.recSlots }
  s.trace (dieOf t) 0x08 0 k (s.instrs c t) c t f
/-- Log an input of the context on a tile in one slot, as its mode says when the entry does not fit: in the STALL mode `held`
inputs wait, and `none` says so; others go to the reserve, and the tile waits until space frees (R422). -/
def State.logSlot (s : State) (c t k kind addr aux : Nat) (payload : List Byte) (held : Bool) : Option State :=
  let f := s.ctxVf c
  let room := 2 ^ s.recN f k - s.recUsed f k
  let size := entrySize payload.length
  if size + 64 ≤ room then some (s.recEntry c t k kind addr aux payload)
  else if s.recMode f k = 0 || (!held && room < size + 32) then some (s.horizonAt c t k)
  else if held then none
  else
    let s := s.recEntry c t k kind addr aux payload
    some (if s.runs t c then s.modPlace t fun p => { p with recWait := true } else s)
/-- Log it in every slot that records the context. -/
def State.logInput (s : State) (c t kind addr aux : Nat) (payload : List Byte) (held : Bool) : Option State :=
  (s.recording c).foldl (fun (acc : Option State) k => acc.bind fun s => s.logSlot c t k kind addr aux payload held) (some s)
/-- A host write merged into a line of an address space is an input of every context that records there (R421). -/
def State.recordHost (s : State) (asid : Option Nat) (va : Nat) (bs : List Byte) : State :=
  s.recSlots.foldl (fun s (key, _) =>
    let c := s.regBits (recReg (key / 4) (key % 4) 0) 15 0
    if s.recMode (key / 4) (key % 4) < 2 && (asid.isNone || asid == some (s.ctxAsid c)) && (s.recording c).contains (key % 4) then
      (s.logInput c ((s.places.find? fun e => s.runs e.1 c).map (·.1) |>.getD 0) 5 va 0 bs false).getD s
    else s) s
/-- A context that replays has this address space: real host writes wait (R423). -/
def State.replaysIn (s : State) (asid : Option Nat) : Bool :=
  s.places.any fun e => e.1 < 512 && e.2.step.isSome && some e.2.asid == asid && (s.replaying e.2.ctx).isSome
/-- Bytes of a log at a position. -/
def State.recRead (s : State) (c f k pos n : Nat) : List Byte :=
  let base := s.regN (recReg f k 8)
  let o := pos % 2 ^ s.recN f k
  let first := min n (2 ^ s.recN f k - o)
  [(base + o, first), (base, n - first)].flatMap fun (va, n) => (spanLines va n).flatMap fun (lva, off, m) =>
    match s.vaPa (s.ctxAsid c) (lva + off) with
    | some pa => (s.readPa pa m).2
    | none => List.replicate m 0
/-- The next entry of a replayed log: head and payload. -/
def State.replayHead (s : State) (c f k : Nat) : Option (Nat × List Byte) :=
  if s.recUsed f k = 0 then none
  else
    let pos := s.regN (recReg f k 0x20)
    let head := numOf (s.recRead c f k pos 32)
    some (head, s.recRead c f k (pos + 32) (bits head 71 56))
/-- Pass over the next entry. -/
def State.replayTake (s : State) (f k len : Nat) : State :=
  s.setReg (recReg f k 0x20) (BitVec.ofNat 64 (s.regN (recReg f k 0x20) + entrySize len))

/-- A replay passes over the START entry (R423). -/
def State.replayBegin (s : State) (c f k : Nat) : State :=
  match s.replayHead c f k with
  | some (h, bs) => if bits h 55 48 = 0 then s.replayTake f k bs.length else s
  | none => s
/-- Recording begins at the switch-in after EN is set, with no horizon yet (R421). -/
def State.beginRecording (s : State) (c t : Nat) : State :=
  let f := s.ctxVf c
  (range 0 4).foldl (fun s k =>
    if bit (s.regN (recReg f k 0)) 16 && s.regBits (recReg f k 0) 15 0 = c && !fget false s.recSlots (4 * f + k) && s.recMode f k ≠ 3 then
      let s := { s with recSlots := fput (4 * f + k) true s.recSlots }
      if s.recMode f k = 2 then s.replayBegin c f k
      else
        let s := s.setReg (recReg f k 0x28) 0
        (s.logSlot c t k 0 0 0 [] false).getD s
    else s) s

/-- In the STALL mode the CC of a tile issues nothing and its engines start nothing until an entry of a value fits (R422). -/
def State.recFull (s : State) (t : Nat) : Bool :=
  (s.place t).recWait && (s.recording (s.place t).ctx).any fun k =>
    s.recMode (s.ctxVf (s.place t).ctx) k = 1 && s.recUsed (s.ctxVf (s.place t).ctx) k + entrySize 8 + 64 > 2 ^ s.recN (s.ctxVf (s.place t).ctx) k

/-- An input of the log that takes effect by itself is due at a tile: INSTR has reached its ICOUNT (R423). -/
def State.inputDue (s : State) (t : Nat) : Bool :=
  match s.replaying (s.place t).ctx with
  | none => false
  | some k => match s.replayHead (s.place t).ctx (s.ctxVf (s.place t).ctx) k with
    | none => false
    | some (h, _) => 2 ≤ bits h 55 48 && bits h 55 48 ≤ 5 && bits h 191 128 ≤ s.instrs (s.place t).ctx t
/-- The value that a read of the tick returns (`kind` 1), or that a promise takes at a copy's start (2), logged or replayed.
A replayed promise comes from the log by itself, and stands as not started before; a tick that the log does not give at
this INSTR is the real one: such a run has no defined relation to the recording (R423). -/
def loggedValue (kind aux : Nat) (v : Word) : M Word := do
  let s ← get
  let t := s.here
  if isTile s.cur && t.step.isSome then
    match s.replaying t.ctx with
    | some k =>
      if kind = 2 then return BitVec.ofNat 64 (fget (2 ^ 64 - 2) t.promised aux)
      else match s.replayHead t.ctx (s.ctxVf t.ctx) k with
      | some (h, bs) =>
        if bits h 55 48 = kind && bits h 191 128 = s.instrs t.ctx s.cur then
          set (s.replayTake (s.ctxVf t.ctx) k bs.length)
          return BitVec.ofNat 64 (numOf bs)
        else return v
      | none => return v
    | none =>
      match s.logInput t.ctx s.cur kind 0 aux (bytesOf 8 v.toNat) true with
      | some s => set (s.modHere fun t => { t with recWait := false })
      | none => do
        onHere fun t => { t with recWait := true }
        throw .stall
      return v
  else return v

end Sys2Proof.Machine
end

