-- ==== Sys2Proof/Machine/Sched.lean ====
section
/-! DEFINITION. Launching and scheduling: packets, steps, the loop-nest walker, kernel load, iteration
start and end, gang barriers, and switching contexts (R137 to R177, R401, R409). -/
namespace Sys2Proof.Machine

-- ## Packets and records (R161 to R163)

def Packet.f (p : Packet) (hi lo : Nat) : Nat := Sys2Proof.Machine.bits p.bits hi lo
def Packet.type (p : Packet) : Nat := p.f 3 0
def Packet.ctx (p : Packet) : Nat := p.f 167 152
def Packet.gang (p : Packet) : Nat := p.f 142 135
def Packet.bcount (p : Packet) : Nat := p.f 151 143
def Packet.cls (p : Packet) : Nat := p.f 130 129
def Packet.deadline (p : Packet) : Nat := p.f 511 448
def Packet.mask (p : Packet) : List Nat := (range 0 4).filter fun d => p.f (131 + d) (131 + d) == 1
def Packet.shape (p : Packet) (i : Nat) : Nat := p.f (575 + 64 * i) (512 + 64 * i)
def Packet.cpl (p : Packet) : Nat := p.f 223 168

def LaunchQ.reset : LaunchQ := ⟨0, 0, [], [], [], none⟩
def lqKey (d q : Nat) : Nat := 64 * d + q
def State.lq (s : State) (d q : Nat) : LaunchQ := fget LaunchQ.reset s.lqs (lqKey d q)
def State.setLq (s : State) (d q : Nat) (l : LaunchQ) : State := { s with lqs := fset LaunchQ.reset s.lqs (lqKey d q) l }
/-- LQDESC of a queue: its 128 bits (R160). -/
def State.lqdesc (s : State) (d q : Nat) : Nat := s.regN (dieReg d (0x20 * q)) + 2 ^ 64 * s.regN (dieReg d (0x20 * q + 8))
def State.lqEn (s : State) (d q : Nat) : Bool := bit (s.lqdesc d q) 0
def State.lqVf (s : State) (d q : Nat) : Nat := bits (s.lqdesc d q) 55 49
def State.lqAsid (s : State) (d q : Nat) : Nat := bits (s.lqdesc d q) 71 56
def State.lqNlog (s : State) (d q : Nat) : Nat := bits (s.lqdesc d q) 48 44
/-- A die is online (R408), neither gated nor on the way to it. -/
def State.online (s : State) (d : Nat) : Bool := bit (s.regN 0x8) (4 + d) && !s.gated.contains d && (fget? s.gating d).isNone

/-- Region of a range grants W to a function (R26). -/
def State.mayStore (s : State) (asid vf va : Nat) : Bool :=
  match s.region (some asid) va with
  | some r => r.perm.w && r.perm.vf == vf && !r.perm.dev
  | none => false
/-- The PA of a record ring's next record of `len` bytes; none while the ring is full or unconfigured. -/
def State.recordAt (s : State) (base log prod cons lo len : Nat) : Option Nat :=
  let n := s.regBits log 4 0
  let p := s.regN prod
  let b := s.regBits base 51 6 * 64
  if b = 0 || n < lo || 16 < n || (p + 2 ^ 32 - s.regBits cons 31 0) % 2 ^ 32 ≥ 2 ^ n then none else some (b + len * (p % 2 ^ n))
/-- A deferred-fault record of a function waits though its ring has room for it. -/
def State.dfrDue (s : State) (vf : Nat) : Bool :=
  s.dfrs.any (fun d => d.vf == vf) && (s.recordAt (fnReg vf 0x1000) (fnReg vf 0x1008) (fnReg vf 0x1010) (fnReg vf 0x1018) 6 64).isSome
/-- A completion record can be written now: its line is free, and its page is not on its way. -/
def State.recordReady (s : State) (asid va : Nat) : Bool :=
  let k := s.keyOf asid va
  s.lineQuiet k && (s.heldOf k).isNone && s.vaReady asid va true && match s.walkPage asid va with
    | .leaf e _ => ptePst e ≠ 1 && ptePst e ≠ 2
    | _ => true
/-- Write a completion record (R163): bytes 8 to 63, then byte 0. One that cannot be written yet waits, as does one behind a
deferred-fault record whose ring has room (R386); one whose address the
function may not write is none. -/
def State.putRecordCpl (s : State) (asid vf cpl tag map status : Nat) : State :=
  if cpl = 0 || !s.mayStore asid vf cpl then s
  else
    let r := tag * 2 ^ 448 + s.tick % 2 ^ 64 * 2 ^ 384 + map % 2 ^ 256 * 2 ^ 128 + status * 2 ^ 8 + 1
    if s.recordReady asid cpl && !s.dfrDue vf then (s.putVa asid cpl (bytesOf 64 r)).getD s
    else { s.vaAsk asid cpl true with cpls := s.cpls ++ [⟨asid, vf, cpl, r⟩] }
/-- Completion records that waited. -/
def State.writeCpls (s : State) : State :=
  s.cpls.foldl (fun s c =>
    if s.recordReady c.asid c.va && !s.dfrDue c.vf then { (s.putVa c.asid c.va (bytesOf 64 c.word)).getD s with cpls := s.cpls.erase c } else s) s

/-- R162's check of a LAUNCH packet, on the tiles the function may use on a die. DESIGN CHOICE (log 100): the low bits of
ENTRY count as a misaligned pointer also where CTXENT = 1, and those of PROLOG do not count here (`Packet.kind`). -/
def Packet.bad (p : Packet) (quota : Nat → Nat) : Bool :=
  p.type ≠ 1 || p.f 7 4 ≠ 0 || p.f 63 11 ≠ 0 || p.f 128 128 ≠ 0 ||
    p.f 394 392 ≠ 0 || p.f 341 336 ≠ 0 || p.f 282 280 ≠ 0 || p.f 226 224 ≠ 0 || p.f 173 168 ≠ 0 ||
    p.gang = 0 || p.gang > 128 || p.bcount > 256 || p.mask.isEmpty || p.mask.any fun d => quota d < p.gang

/-- Tiles of a die that a function may hold: TILESd, or the shared remainder of a time-sliced one (R401). -/
def State.tileQuota (s : State) (f d : Nat) : Nat :=
  let q := s.quota f
  if !bit q 0 then 0
  else if bit q 1 then
    128 - (range 0 65).foldl (fun a f => let q := s.quota f; if bit q 0 && !bit q 1 then a + bits q (23 + 8 * d) (16 + 8 * d) else a) 0
  else bits q (23 + 8 * d) (16 + 8 * d)

-- ## Loop nests (R143, R144, R174)

/-- The used levels of an LNR as (KIND, TRIP), or none when it is invalid (R143). -/
def lnrLevels (w : Nat) : Option (List (Nat × Nat)) :=
  let n := bits w 2 0
  let lv := (range 0 n).map fun i => (bits w (191 + 64 * i) (190 + 64 * i), bits w (159 + 64 * i) (128 + 64 * i))
  let rsv := bits w 127 3 ≠ 0 || (range 0 n).any fun i => bits w (189 + 64 * i) (160 + 64 * i) ≠ 0
  if n = 0 || n > 6 || rsv || lv.any (fun (k, t) => k = 3 || t = 0) || (lv.filter fun (k, _) => k = 2).length > 1 then none
  else some lv

/-- Chains of die number `m` of `n` in the mask: the radix of each level, temporal ones 1, the dies
level counting only its own indices (R144, R174). -/
def chainRadix (lv : List (Nat × Nat)) (m n : Nat) : List Nat :=
  lv.map fun (k, t) => if k = 0 then 1 else if k = 2 then (t + n - 1 - m) / n else t
/-- The point of rank `r`: lexicographic, level 0 most significant. -/
def pointOfRank (lv : List (Nat × Nat)) (radix : List Nat) (m n r : Nat) : List Nat :=
  ((lv.zip radix).foldr (fun ((k, _), b) (acc : List Nat × Nat) =>
    let d := acc.2 % b
    ((if k = 2 then m + n * d else d) :: acc.1, acc.2 / b)) ([], r)).1
/-- The next point of a chain: temporal indices ascend, the lower level more significant (R174). -/
def nextPoint (lv : List (Nat × Nat)) (p : List Nat) : Option (List Nat) :=
  let (q, carry) := (lv.zip p).foldr (fun ((k, t), i) (acc : List Nat × Bool) =>
    if k = 0 && acc.2 then (if i + 1 < t then ((i + 1) :: acc.1, false) else (0 :: acc.1, true)) else (i :: acc.1, acc.2)) ([], true)
  if carry then none else some q

-- ## Gang barriers (R157)

def Barrier.reset : Barrier := ⟨0, [], [], 0, []⟩
/-- Barriers 0 to 63 belong to the tile's die, 64 to 79 to the package. -/
def barKey (t n : Nat) : Nat := if n < 64 then 64 * dieOf t + n else 256 + n
def State.bar (s : State) (k : Nat) : Barrier := fget Barrier.reset s.barriers k
def State.setBar (s : State) (k : Nat) (b : Barrier) : State := { s with barriers := fset Barrier.reset s.barriers k b }
/-- A generation completes whenever every member has arrived; without members the barrier is free. -/
def Barrier.settle (b : Barrier) : Barrier :=
  if b.m.isEmpty then Barrier.reset
  else if b.a.length = b.m.length then { b with a := [], gen := b.gen + 1 } else b
def Barrier.leave (b : Barrier) (j : Nat) : Barrier :=
  { b with m := remove b.m j, a := remove b.a j, last := fdel j b.last }.settle
/-- Where a die stands in the mask, for the chains of a level over dies: number, dies, cursor. -/
def Step.share (st : Step) (d : Nat) : Nat × Nat × Nat :=
  if st.levels.any fun l => l.1 = 2 then ((st.mask.filter (· < d)).length, st.mask.length, d) else (0, 1, 0)
/-- Chains of a die's share. -/
def Step.chains (st : Step) (d : Nat) : Nat :=
  let (m, n, _) := st.share d
  (chainRadix st.levels m n).foldl (· * ·) 1
/-- A die has a chain left to hand out. -/
def Step.chainLeft (st : Step) (d : Nat) : Bool := fget 0 st.cursor (st.share d).2.2 < st.chains d
/-- The point at which a position goes on with its chain, which its tile left behind when it was freed (R173, R174). -/
def Step.more (st : Step) (p : Position) : Option (List Nat) :=
  if p.busy || p.saved || st.aborted || st.failed.isSome then none else p.point.bind (nextPoint st.levels)
/-- A position of a started step awaits a tile: its saved iteration does, or points that are not handed out. -/
def Step.awaitsTile (st : Step) (p : Position) : Bool :=
  st.started && p.tile.isNone &&
    (p.saved || (st.more p).isSome || (!p.busy && !st.aborted && st.failed.isNone && st.chainLeft p.die))
/-- A gang position leaves every barrier of its step (R157). -/
def State.leaveBarriers (s : State) (id j : Nat) : State :=
  s.barriers.foldl (fun s e => if e.2.step = id && e.2.m.contains j then s.setBar e.1 (e.2.leave j) else s) s

-- ## Ownership of a tile (R409)

/-- Zero what R409 zeroes when a tile passes to another function. -/
def Place.zeroOwner (p : Place) : Place := { p.freshContext with
  sp := [], spEpoch := 0, spPoison := [], acc := [], accEpoch := 0, rings := [], grants := [], slog := [], kernel := none
  mcShadow := [], mcPending := [], mcActive := [], mcOcc := false }
/-- The function the tile's state belongs to changes (R409). -/
def State.ownTile (s : State) (t vf : Nat) : State :=
  if (s.place t).owner = vf then s else s.modPlace t fun p => { p.zeroOwner with owner := vf }
/-- The tile has no context any more (R38, R151). -/
def Place.vacate (p : Place) : Place := { p.freshContext with step := none, firstDone := false, point := [], grants := p.grants }
/-- A tile that may take a step. -/
def State.freeTile (s : State) (t : Nat) : Bool :=
  let p := s.place t
  p.step.isNone && (p.hold == .running) && p.switch.isNone && p.slogBusy.isNone && s.online (dieOf t) &&
    (range 0 6).all (fun q => (s.engq t q).cur.isNone) && s.steps.all fun st => !st.reserved.contains t && st.positions.all fun p => p.tile ≠ some t

-- ## Kernel load (R176)

/-- The kernel of a step. -/
def Step.kernelIs (st : Step) (p : Place) (kid : Nat) : Bool := p.kernel == some ⟨st.vf, st.entry - 256, kid⟩
/-- Load the bytes of a range as the CFE does. -/
def State.cfeRead (s : State) (st : Step) (va n : Nat) : State × Got := s.fetch st.asid (some st.vf) va n
/-- Default placement of engine queue `k` (R193). -/
def defaultQueue (k : Nat) : Ring := ⟨0, 0, 0, 8, 0, 0, true, 0x160000 + 0x1000 * k⟩
/-- A ring record that R250 or R193 refuses. -/
def badRing (q : Nat) (r : Ring) : Bool :=
  if q < 6 then !r.v || r.sszm ≠ 0 || r.scope ≠ 0 || r.slog < 4 || r.slog > 12 || r.base % 16 ≠ 0 || !r.fits
  else q < 8 || r.base % 16 ≠ 0 || (r.v && !r.fits)

/-- How a kernel load ends. -/
inductive Loaded where
  | done (s : State)
  | wait (s : State)
  | failed (s : State)

/-- Load a step's kernel on a tile, in the order of R176. -/
def State.loadKernel (s : State) (st : Step) (t : Nat) : Loaded :=
  let fail (s : State) : Loaded := .failed (s.modPlace t fun p => { p with kernel := none })
  match s.cfeRead st (st.entry - 256) 256 with
  | (s, .wait) => .wait s
  | (s, .bad) => fail s
  | (s, .ok bs) =>
    let h := numOf bs
    let fld (o n : Nat) : Nat := h / 2 ^ (8 * o) % 2 ^ (8 * n)
    let kid := fld 8 8
    if st.kernelIs (s.place t) kid then .done s
    else if fld 0 4 ≠ 0x4B494831 || fld 4 4 ≠ 1 || fld 24 4 % 16 ≠ 0 || fld 28 4 + fld 24 4 > 0x180000 || fld 40 4 % 1024 ≠ 0 ||
        fld 44 4 % 1024 ≠ 0 || fld 44 4 + fld 40 4 > 0xC00000 || fld 56 4 > 64 || fld 60 4 > 64 || h / 2 ^ 640 ≠ 0 then fail s
    else
      match s.cfeRead st (fld 48 8) (16 * fld 56 4) with
      | (s, .wait) => .wait s
      | (s, .bad) => fail s
      | (s, .ok gb) =>
        let grants := (range 0 (fld 56 4)).map fun i => grantOfBits (numOf ((gb.drop (16 * i)).take 16))
        -- the grants take effect at the first instruction (R35): until then the tile admits nothing
        let s := s.modPlace t fun p => { p with grants := grants, kernel := none }
        match s.cfeRead st (fld 64 8) (16 * fld 60 4) with
        | (s, .wait) => .wait s
        | (s, .bad) => fail s
        | (s, .ok rb) =>
          let recs := (range 0 (fld 60 4)).map fun i => numOf ((rb.drop (16 * i)).take 16)
          let named : FMap Ring := recs.foldl (fun m w => fput (bits w 85 80) { ringOfBits (w % 2 ^ 80) with head := 0, tail := 0, claimed := 0 } m) []
          if recs.any fun w => w / 2 ^ 86 ≠ 0 || bit w 64 || bits w 63 21 ≠ 0 ||
              badRing (bits w 85 80) { ringOfBits (w % 2 ^ 80) with head := 0 } then fail s
          else
            let rings := (range 0 6).foldl (fun m k => if (fget? m k).isNone then fput k (defaultQueue k) m else m) named
            let s := s.modPlace t fun p => { p with rings := rings }
            let setDone (s : State) (slots : List Nat) : Loaded :=
              .done (s.modPlace t fun p => { p with kernel := some ⟨st.vf, st.entry - 256, kid⟩, bstSlots := slots })
            if fld 32 8 = 0 then setDone s []
            else
              match (s.place t).slotOf st.vf with
              | none => fail s
              | some (slot, key) =>
                match s.cfeRead st (fld 32 8) (fld 40 4) with
                | (s, .wait) => .wait s
                | (s, .bad) => fail s
                | (s, .ok img) =>
                  let rows := fld 40 4 / 1024
                  match (range 0 rows).foldl (fun (acc : Option State × List Byte) i =>
                    (acc.1.bind fun s => s.bstCommit t (fld 44 4 / 1024 + i) slot key.key (acc.2.take 1024), acc.2.drop 1024)) (some s, img) with
                  | (some s, _) => setDone s [slot]
                  | (none, _) => fail s

-- ## Iterations (R145, R172, R203, R205)

/-- The leader of a step: the member of its lowest set bit (R146). -/
def Step.lead (st : Step) (map : Nat) : Nat := ((st.active map).head?).getD 0

/-- The `.sp` image and the `.sem` values, written at a step's first iteration on a tile (R203, R205). A page on its way
makes the iteration wait; one that may not be read ends the step as a failed load does (log 80). -/
def State.firstImages (s : State) (st : Step) (t : Nat) : Loaded :=
  match s.cfeRead st (st.entry - 256) 256 with
  | (s, .wait) => .wait s
  | (s, .bad) => .failed s
  | (s, .ok bs) =>
    let h := numOf bs
    let fld (o n : Nat) : Nat := h / 2 ^ (8 * o) % 2 ^ (8 * n)
    match if fld 16 8 = 0 then (s, Got.ok []) else s.cfeRead st (fld 16 8) (fld 24 4) with
    | (s, .wait) => .wait s
    | (s, .bad) => .failed s
    | (s, .ok sp) =>
      match if fld 72 8 = 0 then (s, Got.ok []) else s.cfeRead st (fld 72 8) 480 with
      | (s, .wait) => .wait s
      | (s, .bad) => .failed s
      | (s, .ok sem) => .done (s.modPlace t fun p =>
        { (p.putSp (fld 28 4) sp).unpoison (fld 28 4) sp.length with
          sem := tableOf 0 256 fun i => if i < 16 then p.getSem i else numOf ((sem.drop (2 * (i - 16))).take 2) })

/-- Start an iteration at a point on a gang position's tile (R145). -/
def State.startIteration (s : State) (st : Step) (j t : Nat) (point : List Nat) : State :=
  let first := !(s.place t).firstDone
  let s := s.modPlace t fun p =>
    let keep := if first then { p.cc with g := [], f := [] } else p.cc
    let put (c : Core) (i : Nat) (v : Nat) : Core := if i < p.regbnd then c.setG i (BitVec.ofNat 64 v) else c
    let c := (range 0 6).foldl (fun c i => put c (3 + i) ((nth? point i).getD 0)) keep
    let c := (range 0 8).foldl (fun c i => put c (9 + i) (if st.direct then 0 else st.packet.shape i)) c
    let c := { put c 2 0x180000 with pc := BitVec.ofNat 64 st.entry, priv := 0 }
    { p with cc := c, point := point, firstDone := true, node := none, frozen := false, bpSkip := false }
  s.modPos st.id j fun p => { p with point := some point, busy := true }

/-- The iteration of a tile has retired; a further point of its chain starts there at once (R174), unless the tile is to be
freed (R173). -/
def State.endIteration (s : State) (t : Nat) (kill : Bool) : State :=
  match s.stepAt t with
  | none => s
  | some st =>
    let j := (s.place t).gpos
    let s := s.leaveBarriers st.id j
    let s := if kill then s.modStep st.id fun st => { st with aborted := true } else s
    let s := s.modPos st.id j fun p => { p with busy := false, left := kill }
    match if st.aborted || kill || (s.place t).victim then none else nextPoint st.levels (s.place t).point with
    | some pt => s.startIteration st j t pt
    | none => s

-- ## Switching (R153, R260, R366)

/-- Every queue is drained and the landing buffer empty. -/
def State.drained (s : State) (t : Nat) : Bool :=
  (range 0 6).all (fun q => (s.engq t q).cur.isNone && (s.ring t q).filled = 0) && (s.place t).landing.isEmpty

/-- Dirty sectors of the mapped regions with write-back go to memory, and the entries become invalid (R33, R153). -/
def State.flushMaps (s : State) (t : Nat) : State × Bool :=
  let p := s.place t
  let (s, ok) := p.mapDirty.foldl (fun (acc : State × Bool) x =>
    match if acc.2 then (p.mapAt (32 * x.1)).filter fun e => e.wb ≠ 0 else none with
    | none => acc
    | some e => match (writeSector ⟨t, p.asid, p.vf, p.ctx, some 2, e.seq⟩ e x.1).run acc.1 with
      | .ok bad s => (if bad then s.postFrom t p.ctx ⟨cPoison, e.seq, some 2⟩ else s, true)
      | .error _ s' => (acc.1.keepAsks s', false)) (s, true)
  (if ok then s.modPlace t fun p => { p with maps := [], mapDirty := [], mapSince := [], mapFilled := [] } else s, ok)

/-- Phase counters of a step's positions as the phase table and the tiles hold them (R370). -/
def State.phasesOf (s : State) (st : Step) : FMap Nat :=
  ((st.positions.zip (range 0 st.positions.length)).flatMap fun (p, j) =>
    (range 0 4).map fun k => (4 * j + k, fget 0 (match p.tile with | some t => (s.place t).phase | none => p.phases) k)).foldl
    (fun m e => fset 0 m e.1 e.2) []
/-- The incoming half of a switch: registers of the position's image, on this tile (R153, R370). -/
def State.resumeOn (s : State) (st : Step) (j t : Nat) : Option State :=
  match nth? st.positions j with
  | none => none
  | some pos =>
    let map := st.map
    let lead := st.chief
    let r := if pos.full then s.restoreFull t st.asid (s.ctxd lead 375 320 + fullSize * j)
      else s.restoreLight t st.asid (s.ctxd lead 311 256 + 256 * j)
    r.map fun s =>
      let s := s.modPlace t fun p => { p.setBmask map with
        ctx := lead, asid := st.asid, vf := st.vf, regbnd := s.ctxd lead 27 21, gpos := j, phase := pos.phases, wdogGt := pos.wdog, nbPhase := s.phasesOf st, step := some st.id
        point := pos.point.getD [], firstDone := true, hold := p.hold.kept, frozen := false, async := fget [] s.ctxAsync lead
        q := tableOf EngQ.reset 6 fun i => { s.queueOf lead j i with next := (fget EngQ.reset p.q i).next } }
      let s := { s with ctxAsync := fdel lead s.ctxAsync }.returnMaps lead j t
      let s := (st.active map).foldl (fun s c => (s.setCtxState c 2 0).setCtxd c 54 54 0) s
      ((s.modPos st.id j fun p => { p with tile := some t, saved := false, seat := t }).beginRecording lead t)

def Cxs.reset : Cxs := ⟨0, [], none, 0, [], none⟩
def State.cxsOf (s : State) (d : Nat) : Cxs := fget Cxs.reset s.cxs d
/-- The load of a position's kernel or image stalls on its tile (R176). -/
def State.loading (s : State) (p : Position) : Bool := match p.tile with
  | some t => (s.place t).step.isNone
  | none => false
/-- Tiles reserved for a step on a die, or taken by it. -/
def Step.holds (st : Step) (d : Nat) : Nat := (st.reserved.filter fun t => dieOf t = d).length
-- ## Quotas of tiles (R401)

def State.timeSliced (s : State) (f : Nat) : Bool := bit (s.limits f) 1
/-- Tiles of a die that a function holds, reserved ones included; those of every time-sliced function together. -/
def State.heldTiles (s : State) (f d : Nat) : Nat :=
  let same (g : Nat) : Bool := if s.timeSliced f then s.timeSliced g else g == f
  (s.places.filter fun e => e.1 < 512 && dieOf e.1 = d && e.2.step.isSome && same e.2.owner).length +
    s.steps.foldl (fun a st => if same st.vf then a + st.holds d + (st.positions.filter fun p => p.die = d && s.loading p).length else a) 0
/-- Tiles a function may still take on a die. -/
def State.allowance (s : State) (f d : Nat) : Nat := s.tileQuota f d - s.heldTiles f d
/-- A time-sliced function runs in its own turn only. -/
def State.inTurn (s : State) (f d : Nat) : Bool := !s.timeSliced f || (s.cxsOf d).sliceFn == some f
/-- A gang position of a starting step comes to its tile: the context's bound and queues (R140, R182), the membership map,
empty engine queues (R193), the phases (R158) and the streams of its engines (R214). -/
def State.seat (s : State) (st : Step) (c map j t : Nat) : State :=
  let s := s.ownTile t st.vf
  s.modPlace t fun p => { p.setBmask map with
    step := some st.id, firstDone := false, wdogGt := 0, asid := st.asid, vf := st.vf, ctx := c, gpos := j, hold := p.hold.kept
    regbnd := s.ctxd c 27 21, q := tableOf EngQ.reset 6 (s.queueOf c j), vesr := p.srseed, mesr := rotl16 p.srseed
    rings := p.rings.map fun (e : Nat × Ring) => if e.1 < 6 then (e.1, { e.2 with head := 0, tail := 0, claimed := 0 }) else e
    mcPending := [], mcOcc := false, phase := [], nbPhase := [], exc := 0, async := if j = 0 then fget [] s.ctxAsync c else [] }
/-- The kernel entry of a step that starts with a lead context: its own one when the packet says so (R161). -/
def State.entryOf (s : State) (st : Step) (lead : Nat) : Nat := if st.packet.f 10 10 = 1 then s.ctxd lead 247 192 else st.entry
/-- A single-context step of one tile starts there. -/
def State.seatOne (s : State) (st : Step) (c t : Nat) : State :=
  let s := (s.setCtxState c 2 0).seat st c 1 0 t
  (({ s with ctxAsync := fdel c s.ctxAsync }).beginRecording c t).trace st.die 0x06 (s.entryOf st c) 0 st.packet.index c 0 st.vf

/-- A direct step for a context on one tile (R260). -/
def State.directStep (s : State) (t c : Nat) : State :=
  let id := fget 0 s.nextStep (dieOf t)
  let st : Step := {
    id := 4 * id + dieOf t, packet := ⟨0, 0⟩, vf := s.ctxVf c, asid := s.ctxAsid c, cls := s.ctxd c 56 55, deadline := s.ctxd c 127 64
    die := dieOf t, queue := 0, members := [c], batched := false, entry := s.ctxd c 247 192, bucket := none, levels := [], gang := 1
    mask := [dieOf t], reserved := [], started := true, direct := true, template := false, posted := false, aborted := false, deferPark := none
    failed := none, cursor := [], positions := [Position.new (dieOf t) t], causalD := 0, trialBase := 0, told := false, map := 1, chief := c }
  { s with steps := s.steps ++ [st], nextStep := fset 0 s.nextStep (dieOf t) (id + 1) }.seatOne st c t

/-- Take a pending step whose gang is one tile of this die (R260). -/
def State.takeStep (s : State) (st : Step) (t : Nat) : State :=
  let c := (st.members.head?).getD 0
  (s.modStep st.id fun st => { st with
    started := true, reserved := [], positions := [Position.new (dieOf t) t], chief := c
    entry := s.entryOf st c }).seatOne st c t

/-- A descriptor with which a context may be scheduled (R148). -/
def State.soundCtx (s : State) (c : Nat) : Bool := 16 ≤ s.ctxd c 27 21 && s.ctxd c 27 21 ≤ 64 && s.ctxReason c < 8 && s.ctxState c ≤ 4
/-- A pending single-context step that names a context and needs one tile of this die only (R260). -/
def Step.single (t c : Nat) (st : Step) : Bool :=
  !st.started && !st.batched && st.members == [c] && st.gang == 1 && st.mask == [dieOf t] && st.failed.isNone
def State.pendingSingle (s : State) (t c : Nat) : Option Step :=
  s.steps.find? (Step.single t c)
/-- A position of a step of a context that awaits a tile of a die (R260). -/
def State.savedPos (s : State) (c : Nat) (here : Nat → Bool) : Option (Step × Nat) :=
  s.steps.findSome? fun st =>
    if st.started && st.current.contains c then
      ((st.positions.zip (range 0 st.positions.length)).find? fun e => st.awaitsTile e.1 && here e.1.die).map fun e => (st, e.2)
    else none
/-- A position whose tile was freed comes to a tile again: its phases and its watchdog go on (R158, R173, R371). -/
def State.reseat (s : State) (st : Step) (p : Position) (j t : Nat) : State :=
  let s := s.seat st st.chief st.map j t
  let s := (st.active st.map).foldl (fun s c => s.setCtxState c 2 0) s
  let s := if j = 0 then { s with ctxAsync := fdel st.chief s.ctxAsync } else s
  let s := s.modPlace t fun x => { x with phase := p.phases, wdogGt := p.wdog, nbPhase := s.phasesOf st }
  (s.modPos st.id j fun p => { p with tile := some t, seat := t }).beginRecording st.chief t
/-- Where the saved image of a gang position lies, and its size (R368, R369). -/
def State.imageOf (s : State) (st : Step) (p : Position) (j : Nat) : Nat × Nat :=
  if p.full then (s.ctxd st.chief 375 320 + fullSize * j, fullSize) else (s.ctxd st.chief 311 256 + 256 * j, 256)
/-- A position comes back to a tile; the kernel is loaded first, as before every restore (R176, R369). -/
def State.resumeLoaded (s : State) (st : Step) (j t : Nat) : Loaded :=
  match (s.ownTile t st.vf).loadKernel st t, nth? st.positions j with
  | .done s, some p =>
    if !p.saved then .done (s.reseat st p j t)
    else
      match s.imageAsks st.asid (s.imageOf st p j).1 (s.imageOf st p j).2 false with
      | [] => match s.resumeOn st j t with
        | some s => .done s
        | none => .wait s
      | l => .wait (l.foldl State.sendOnce s)
  | .done s, none => .wait s
  | .wait s, _ => .wait s
  | .failed s, _ => .failed s
/-- The load before a restore fails: the step ends with LOADFAIL once its running iterations have retired, and what was saved
of it is lost (R176, log 94). -/
def State.loadFails (s : State) (id : Nat) : State :=
  match s.stepOf id with
  | none => s
  | some st =>
    let lost := (st.positions.zip (range 0 st.positions.length)).filter fun e => e.1.saved || s.loading e.1
    let s := lost.foldl (fun s e => (s.leaveBarriers id e.2).modPos id e.2 fun p => { p with saved := false, busy := false, tile := none }) s
    ((st.active st.map).foldl (fun s c => s.setCtxd c 54 54 0) s).modStep id fun st => { st with failed := some 0x09 }
/-- A position takes a tile: a load that must wait stalls there (R176). -/
def State.takePosition (s : State) (st : Step) (j t : Nat) : State :=
  match s.resumeLoaded st j t with
  | .done s => s
  | .wait s => s.modPos st.id j fun p => { p with tile := some t }
  | .failed s => s.loadFails st.id
/-- Loads that stall on their tiles go on. -/
def State.goOnLoads (s : State) : State :=
  s.steps.foldl (fun s st => (st.positions.zip (range 0 st.positions.length)).foldl (fun s (p, j) =>
    match p.tile, s.stepOf st.id with
    | some t, some st => if st.started && s.loading p then s.takePosition st j t else s
    | _, _ => s) s) s
/-- A new step of a function may take a tile of a die now (R398, R401). -/
def State.mayTake (s : State) (vf d : Nat) : Bool := s.fnEnabled vf && s.inTurn vf d && s.allowance vf d ≠ 0
/-- Run a context on a freed tile, by the first case of R260 that applies; where its function may have no tile now, or start
no step, the tile stays free (log 93). -/
def State.bringIn (s : State) (t c : Nat) : State :=
  match s.pendingSingle t c with
  | some st => if s.mayTake st.vf (dieOf t) then s.takeStep st t else s
  | none => match s.savedPos c (· == dieOf t) with
    | some (st, j) => if s.inTurn st.vf (dieOf t) && s.allowance st.vf (dieOf t) ≠ 0 then s.takePosition st j t else s
    | none => if s.mayTake (s.ctxVf c) (dieOf t) then s.directStep t c else s

/-- A running context after its switch-out: parked, or Ready (R149). A WAKE that came first makes an EXPLICIT park a no-op
(R152). -/
def State.switchedOut (s : State) (c pos : Nat) (park : Option (Nat × Nat)) : State :=
  if s.ctxState c ≠ 2 then s
  else match park with
    | none => s.setCtxState c 1 0
    | some (r, i) =>
      if r = 5 && s.ctxd c 51 51 = 1 then (s.setCtxd c 51 51 0).setCtxState c 1 0
      else { s with parkPos := if r = 6 || r = 7 then fput c pos s.parkPos else s.parkPos }.parkCtx c r i
/-- Finish a switch-out once the started commands have ended and the stores are performed (R135, R153,
R370); a save that cannot be made leaves the context frozen with INCOMP and escalates. -/
def State.finishSwitch (s : State) (t : Nat) : State :=
  let p := s.place t
  match p.switch, s.stepAt t with
  | some sw, some st =>
    let light := p.lightOk sw
    if !s.enginesRest t || !s.quiet t || p.slogBusy.isSome || p.amoWait.isSome || (light && !s.drained t) then s
    else
      match s.saveAsks t light, if light then s.flushMaps t else (s, true) with
      | m :: r, _ => (m :: r).foldl State.sendOnce s
      | [], (s, false) => s
      | [], (s, true) =>
        let form := if light then p.node.map fun (g, f) => (g.toNat, f.toNat) else none
        let p0 := s.place t
        let s := s.modPlace t fun p => { p with cc := (if p.frozen then p.copyBack.cc else p.cc) }
        let s := s.modPlace t fun p => if sw.incoming.isSome then { p with cc := p.cc.setG sw.dreg 0 } else p
        match s.saveImage t p0.gpos sw.resume form with
        | none => s.escalate t
        | some s =>
          let s := s.count t 0x009 (if sw.park.isSome then 1 else 0)
          let s := match sw.park with
            | some (r, _) => s.traceTile t 0x04 sw.pc.toNat r 0
            | none => s
          let s := st.current.foldl (fun s c => s.switchedOut c p0.gpos sw.park) s
          let s := { s with ctxAsync := if (s.place t).async.isEmpty then s.ctxAsync else fput (s.place t).ctx (s.place t).async s.ctxAsync }
          -- of a ring that a light image holds as empty, reserved slots are gone (R344)
          let s := if light then s.losePushes t fun _ => true else s
          let s := s.putAway t
          let s := s.modPos st.id p0.gpos fun q => { q with tile := none, saved := true, phases := p0.phase, wdog := p0.wdogGt, full := !light }
          let s := s.modPlace t Place.vacate
          match sw.incoming with
          | some (some c) => if s.ctxState c = 1 && s.soundCtx c then s.bringIn t c else s
          | _ => s
  | _, _ => s

/-- Begin to switch a tile's context out (R151, R153). -/
def State.beginSwitch (s : State) (t : Nat) (sw : Switch) : State :=
  (s.modPlace t fun p => { p with switch := some sw, stallSince := none, begun := none, tb := none }).finishSwitch t
/-- Park the context of a tile at the instruction of `pc`, to go on at `resume` (R151). A switch that is under way ends as
the park. -/
def State.parkAt (s : State) (t reason info : Nat) (resume pc : Word) : State :=
  match (s.place t).switch with
  | some w => if w.park.isSome then s else s.beginSwitch t { w with park := some (reason, info), light := false }
  | none => s.beginSwitch t ⟨some (reason, info), resume, false, none, 0, pc⟩
/-- Park the context of a tile at an instruction that it executes again. -/
def State.parkTile (s : State) (t reason info : Nat) (resume : Word) : State := s.parkAt t reason info resume resume
/-- What a started command or a transfer needs parks the context of a tile. Where a handler runs it parks nothing: the command
waits or is unstarted again, so that the cut stays consistent, and it meets the same verdict after the return (R360, log 98). -/
def State.parkFor (s : State) (t reason info : Nat) : State :=
  if (s.place t).frozen then s else s.parkTile t reason info (s.place t).cc.pc

-- ## Pending steps (R165 to R168)

/-- Why a launch fails (R163). -/
def stBadpkt := 0x04
def stBadlnr := 0x05
def stNobucket := 0x06
def stProtrap := 0x07
def stNoctx := 0x08
def stLoadfail := 0x09

/-- The bucket a dispatch table selects: its number, ENTRY and the entry's bits (R166, R167). -/
def pickBucket (hdr : Nat) (ents : List Nat) (shape : Nat → Nat) : Option (Nat × Nat) :=
  (ents.zip (range 0 ents.length)).findSome? fun (e, k) =>
    if (range 0 4).all fun j =>
      !bit e (256 + j) ||
        (let v := shape (bits hdr (7 + 3 * j) (5 + 3 * j)); bits e (31 + 64 * j) (64 * j) ≤ v && v ≤ bits e (63 + 64 * j) (32 + 64 * j))
    then some (k, e) else none

/-- What becomes of an accepted packet. -/
inductive Accepted where
  | step (s : State) (st : Step)
  | failed (s : State) (status : Nat)
  | wait (s : State)

/-- Resolve a LAUNCH packet into a pending step (R143, R162, R167, R168). DESIGN CHOICE: the checks run in the order of log 60;
a dispatch table that is not aligned is an invalid one, and the low bits of a bucket's ENTRY are not checked (log 103). -/
def State.makeStep (s : State) (p : Packet) (die queue vf asid cls deadline : Nat) (members : Option (List Nat)) (template : Bool) : Accepted :=
  if p.bad (s.tileQuota vf) then .failed s stBadpkt
  else if p.cpl ≠ 0 && !s.mayStore asid vf p.cpl then .failed s stLoadfail
  else
    let got := match members with
      | some l => (s, Got.ok (l.flatMap (bytesOf 2)))
      | none => if p.bcount = 0 then (s, Got.ok (bytesOf 2 p.ctx)) else s.fetch asid (some vf) (p.f 279 224) (2 * p.bcount)
    match got with
    | (s, .wait) => .wait s
    | (s, .bad) => .failed s stLoadfail
    | (s, .ok mb) =>
      let list := (range 0 (mb.length / 2)).map fun i => numOf ((mb.drop (2 * i)).take 2)
      let batched := p.bcount ≠ 0 || members.isSome
      if list.all fun c => s.ctxState c = 0 then .failed s stNoctx
      else
        match s.fetch asid (some vf) (p.f 391 336) 64 with
        | (s, .wait) => .wait s
        | (s, .bad) => .failed s stLoadfail
        | (s, .ok lb) =>
          match lnrLevels (numOf lb) with
          | none => .failed s stBadlnr
          | some lv =>
            let ent := p.f 447 392
            let entry : State × Except (Option Nat) (Nat × Option (Nat × Nat)) :=
              -- the entry of the lead is known when the step starts
              if p.f 10 10 = 1 then (s, .ok (0, none))
              else if p.f 8 8 = 0 then (s, .ok (ent, none))
              else
                match s.fetch asid (some vf) ent 64 with
                | (s, .wait) => (s, .error none)
                | (s, .bad) => (s, .error (some stLoadfail))
                | (s, .ok hb) =>
                  let h := numOf hb
                  if h / 2 ^ 17 ≠ 0 || bits h 4 0 = 0 || bits h 4 0 > 16 || ent % 64 ≠ 0 then (s, .error (some stNobucket))
                  else
                    match s.fetch asid (some vf) (ent + 64) (64 * bits h 4 0) with
                    | (s, .wait) => (s, .error none)
                    | (s, .bad) => (s, .error (some stLoadfail))
                    | (s, .ok eb) =>
                      let ents := (range 0 (bits h 4 0)).map fun i => numOf ((eb.drop (64 * i)).take 64)
                      if ents.any fun e => bits e 455 260 ≠ 0 then (s, .error (some stNobucket))
                      else match pickBucket h ents p.shape with
                        | some (k, e) => (s, .ok (bits e 511 456, some (k, e)))
                        | none => (s, .error (some stNobucket))
            match entry with
            | (s, .error none) => .wait s
            | (s, .error (some st)) => .failed s st
            | (s, .ok (e, b)) =>
              let n := fget 0 s.nextStep die
              let st : Step := {
                id := 4 * n + die, packet := p, vf := vf, asid := asid, cls := cls, deadline := deadline, die := die, queue := queue
                members := list, batched := batched, entry := e, bucket := b, levels := lv, gang := p.gang, mask := p.mask, reserved := []
                started := false, direct := false, template := template
                posted := false, aborted := false, deferPark := none, failed := none, cursor := [], positions := [], causalD := 0, trialBase := 0, told := false, map := if batched then 0 else 1, chief := 0 }
              .step { s with nextStep := fset 0 s.nextStep die (n + 1) } st

def State.modCxs (s : State) (d : Nat) (f : Cxs → Cxs) : State := { s with cxs := fmod Cxs.reset s.cxs d f }
/-- The host schedules the steps of a function on a die (R177). -/
def State.hostHeld (s : State) (d vf : Nat) : Bool :=
  if vf < 64 then bit (s.regN (dieReg d 0x1020)) vf else bit (s.regN (dieReg d 0x1028)) 0
/-- An event of a step that the host was told of waits for ring space (R177): KIND 0 pending, 1 eligible, 2 completed. -/
def State.schedEvent (s : State) (st : Step) (kind : Nat) : State :=
  if !st.posted then s
  else s.modCxs st.die fun c => { c with events := c.events ++
    [s.tick % 2 ^ 64 * 2 ^ 192 + st.id % 2 ^ 64 * 2 ^ 128 + st.queue * 2 ^ 64 + st.packet.index * 2 ^ 32 + st.vf * 2 ^ 25 + st.cls * 2 ^ 23 + kind * 2 ^ 21] }
/-- A step joins the pending steps. -/
def State.addStep (s : State) (st : Step) : State :=
  let st := { st with posted := s.hostHeld st.die st.vf }
  ({ s with steps := s.steps ++ [st] }.setLq st.die st.queue (let l := s.lq st.die st.queue
    if st.template then l else { l with busy := l.busy ++ [st.id] })).schedEvent st 0
/-- A packet fails, or is cancelled: its record is written at once. DESIGN CHOICE (log 101): MAP of such a record is 0. -/
def State.failPacket (s : State) (p : Packet) (asid vf status : Nat) : State := s.putRecordCpl asid vf p.cpl (p.f 127 64) 0 status

-- ## Time (R171, R371, R414, R419, R424)

/-- The trial of a step ends when none of its ranges is armed and no tile of its gang owes any more: TRIALD gains what the
gang's delay has grown by (R424, R425). -/
def State.endTrial (s : State) (id : Nat) : State :=
  match s.stepOf id with
  | none => s
  | some st =>
    if !st.ranges.isEmpty || st.causalD = st.trialBase || st.positions.any (fun p => p.settled < st.causalD && (p.tile.isSome || p.saved)) then s
    else
      -- gang position 0 alone adds it (R419)
      (match st.positions.head?.bind (·.tile) with
      | some t => s.count t 0x024 (st.causalD - st.trialBase)
      | none => s.addCounter st.chief 0x024 (st.causalD - st.trialBase)).modStep id fun st => { st with trialBase := st.causalD }
/-- One tile's share of `n` gt: class time, running time, stalls and causal counters. -/
def State.tileTime (s : State) (t n : Nat) : State :=
  let p := s.place t
  match s.stepAt t with
  | none => s
  | some st =>
    let s := s.modCxs (dieOf t) fun c => { c with used := fmod 0 c.used st.cls (· + n) }
    let debt := st.causalD - ((nth? st.positions p.gpos).map (·.settled)).getD 0
    let pay := min n debt
    let s := if p.stallSince.isSome || p.recWait then s.count t 0x001 n else s
    let s := (s.count t 0x020 pay).modPos st.id p.gpos fun q => { q with settled := q.settled + pay }
    let inRange := st.ranges.any fun (_, lo, hi, _) => lo ≤ p.cc.pc.toNat && p.cc.pc.toNat < hi
    let s := if inRange then s.count t 0x023 n else s
    (s.modPlace t fun p => { p with wdogGt := p.wdogGt + (if p.stallSince.isSome then n else n - pay) }).endTrial st.id
/-- `n` gt pass: the tick advances, every tile's time is charged, and a running plug-in's time counts (R404). -/
def State.passTime (s : State) (n : Nat) : State :=
  let s := { s with tick := (s.tick + n) % 2 ^ 64 }
  let s := (range 516 4).foldl (fun s k => s.modPlace k fun p =>
    if p.cc.priv = 1 && p.hold == .running then { p with wdogGt := p.wdogGt + n } else p) s
  (s.places.filter fun e => e.1 < 512 && e.2.step.isSome).foldl (fun s e => s.tileTime e.1 n) s

end Sys2Proof.Machine
end

