-- ==== Sys2Proof/Machine/Dev.lean ====
section
/-! DEFINITION. Device register space: which register an offset names, who may write it, and what a write
does (R392 to R394, R398 to R412, R414 to R421), with the firmware operations that writes start. -/
namespace Sys2Proof.Machine

-- ## The register map (R394)

/-- Who may write a register; nobody writes those that the map gives no writers. -/
inductive Writers where
  | nobody
  | m
  | s
  | p
  | f (fn : Nat)
  deriving DecidableEq, Repr
/-- A register: 1 RW, 2 RO, 3 WO, 0 unassigned; its writers; the bits that a write sets. -/
structure RegE where
  acc : Nat
  w : Writers
  mask : Nat
  deriving DecidableEq, Repr

/-- Bits [hi:lo] set. -/
def ones (hi lo : Nat) : Nat := 2 ^ (hi + 1) - 2 ^ lo
def rwReg (w : Writers) (mask : Nat) : RegE := ⟨1, w, mask⟩
/-- A register that no write changes; a write by an agent that is not among its writers is logged all the same (R394). -/
def roReg (w : Writers) : RegE := ⟨2, w, 0⟩
def woReg (w : Writers) : RegE := ⟨3, w, ones 63 0⟩
def unassigned : RegE := ⟨0, .nobody, 0⟩

def pkgEntry (o : Nat) : RegE :=
  if o = 0 then rwReg .m (ones 9 0)
  else if o = 0x8 ∨ o = 0x28 then roReg .nobody
  else if o = 0x10 then rwReg .s (ones 63 0)
  else if o = 0x18 then rwReg .s 1
  else if o = 0x20 then woReg .s
  else if o = 0x30 then rwReg .s (ones 15 0)
  else if 0x1000 ≤ o ∧ o < 0x1000 + 64 * 65 then rwReg .s (ones 63 0)
  else if 0x3000 ≤ o ∧ o < 0x3000 + 64 * 65 then roReg .nobody
  else if 0x8000 ≤ o ∧ o < 0x9000 then rwReg .p (ones 63 0)
  else if o = 0x9000 then woReg .p
  else if o = 0x9008 then roReg .p
  else if o = 0xA000 then rwReg .m (ones 63 0)
  else if o = 0xA008 then rwReg .m 1
  else if o = 0xA010 then woReg .m
  else unassigned

def dieEntry (o : Nat) : RegE :=
  if o < 0x800 then
    -- R160 adds the PF driver to the writers of R394 (log 82)
    if o % 0x20 = 0 then rwReg .p (ones 63 44 + 1)
    else if o % 0x20 = 8 then rwReg .p (ones 7 0 + ones 63 15)
    else if o % 0x20 = 0x10 then roReg .p
    else unassigned
  else if o = 0x1000 then rwReg .m (ones 35 8 + ones 5 2 + 1)
  else if o = 0x1008 then rwReg .m (ones 63 16 + 1)
  else if o = 0x1010 then rwReg .m (ones 63 0)
  else if o = 0x1018 then rwReg .m 1
  else if o = 0x1020 then rwReg .s (ones 63 0)
  else if o = 0x1028 then rwReg .s 1
  else if 0x1040 ≤ o ∧ o < 0x1060 then rwReg .s (ones 63 24)
  else if o = 0x1060 then rwReg .s (ones 51 23)
  else if o = 0x1068 then rwReg .s (ones 63 0)
  else if o = 0x1070 then rwReg .s (ones 47 32 + ones 15 0)
  else if o = 0x1078 then woReg .s
  else if o = 0x1080 then rwReg .s (ones 63 0)
  else if o = 0x1088 then roReg .s
  else if o = 0x1090 then rwReg .m (ones 3 0)
  else if o = 0x1100 then woReg .p
  else if o = 0x1108 then rwReg .p (ones 63 0)
  else if o = 0x1110 then rwReg .p (ones 16 0)
  else if o = 0x1118 ∨ (0x1140 ≤ o ∧ o < 0x1160) then roReg .p
  else if 0x1200 ≤ o ∧ o < 0x1240 then rwReg .p (ones 14 0)
  else if 0x1240 ≤ o ∧ o < 0x1280 then rwReg .p (ones 63 0)
  else if o = 0x1300 then rwReg .p (ones 51 6)
  else if o = 0x1308 then rwReg .p (ones 4 0)
  else if o = 0x1310 ∨ o = 0x1328 then roReg .p
  else if o = 0x1318 then rwReg .p (ones 63 0)
  else if o = 0x1320 then rwReg .p (ones 24 1)
  else if 0x2000 ≤ o ∧ o < 0x2180 then
    let k := o % 0x40
    if k = 0 then rwReg .p (ones 51 6)
    else if k = 8 then rwReg .p (ones 4 0)
    else if k = 0x10 ∨ k = 0x18 ∨ k = 0x20 then rwReg .p (ones 31 0)
    else unassigned
  else if 0x3000 ≤ o ∧ o < 0x3608 then roReg .nobody
  else unassigned

def iodEntry (i o : Nat) : RegE :=
  if 0x2000 ≤ o ∧ o < 0x2040 then dieEntry o
  else if 0x3000 ≤ o ∧ o < 0x3208 then roReg .nobody
  else if 0x4000 ≤ o ∧ o < 0x6000 then rwReg .m (ones 17 0)
  else if i = 0 ∧ 0x6000 ≤ o ∧ o < 0x6400 then
    let k := o % 0x100
    if k = 0 then rwReg .m (ones 63 2)
    else if k < 0x88 then rwReg .m (ones 51 0)
    else if k = 0x90 then rwReg .m (ones 63 0)
    else unassigned
  else unassigned

def fnEntry (f o : Nat) : RegE :=
  if o < 0x800 then woReg (.f f)
  else if o = 0x1000 then rwReg .m (ones 51 6)
  else if o = 0x1008 then rwReg .m (ones 4 0)
  else if o = 0x1010 then roReg (.f f)
  else if o = 0x1018 then rwReg (.f f) (ones 31 0)
  else if o = 0x1020 then rwReg .s (ones 55 0)
  else if o = 0x1028 then rwReg .s (ones 47 32 + ones 20 0)
  else if 0x2000 ≤ o ∧ o < 0x2100 then
    let k := o % 0x40
    if k = 0 then rwReg (.f f) (ones 16 0)
    else if k = 8 ∨ k = 0x20 then rwReg (.f f) (ones 63 0)
    else if k = 0x10 then rwReg (.f f) (ones 9 8 + ones 4 0)
    else if k = 0x18 ∨ k = 0x28 then roReg (.f f)
    else unassigned
  else unassigned

def tileEntry (o : Nat) : RegE :=
  if o = 0 then rwReg .m (ones 63 0)
  else if 0x100 ≤ o ∧ o < 0x308 then roReg .nobody
  else if 0x400 ≤ o ∧ o < 0x440 then rwReg .s (if o % 16 = 0 then ones 55 0 else ones 63 30 + ones 3 0)
  else unassigned

/-- The register at an 8-byte-aligned offset; none when the offset falls in no block. -/
def regEntry (off : Nat) : Option RegE :=
  if off < 0x100000000 then some (pkgEntry off)
  else if off < 0x140000000 then some (dieEntry (off % 0x10000000))
  else if 0x200000000 ≤ off ∧ off < 0x220000000 then some (iodEntry ((off - 0x200000000) / 0x10000000) (off % 0x10000000))
  else if 0x300000000 ≤ off ∧ off < 0x300000000 + 0x10000 * 65 then some (fnEntry ((off - 0x300000000) / 0x10000) (off % 0x10000))
  else if 0x400000000 ≤ off ∧ off < 0x400000000 + 0x10000 * 512 then some (tileEntry (off % 0x10000))
  else none

/-- Whether a writer may write (R394); the host writes PF BAR0 as the PF driver, and firmware reaches
every class below its own. -/
def mayWrite (who : Who) (w : Writers) : Bool :=
  match who, w with
  | _, .nobody => false
  | .monitor, _ => true
  | .plugin, _ => false
  | .scheduler, .m => false
  | .scheduler, _ => true
  | .pf, .p => true
  | .pf, .f _ => true
  | .host, .p => true
  | .host, .f _ => true
  | .function g, .f fn => g == fn
  | _, _ => false

/-- The function that a writer acts for. -/
def writerFn (who : Who) : Nat :=
  match who with
  | .function f => f
  | _ => 0
/-- A register write that is refused, with the tile and the function that sent it (R394, R411). -/
def State.logRefused (s : State) (who : Who) (tile off : Nat) : State := s.logMtuBy 8 off 4 s.pkgNum tile (writerFn who) 0
/-- A violation record of 32 bytes as R411 lays it out. -/
def violBits (v : Viol) : Nat :=
  v.tick % 2 ^ 64 * 2 ^ 192 + v.addr % 2 ^ 56 * 2 ^ 136 + v.pkg * 2 ^ 126 + v.tile * 2 ^ 117 + v.vf * 2 ^ 110 + v.right * 2 ^ 105 + v.kind * 2 ^ 100 + 1
/-- A doubleword of a violation log at byte `o` from its start; the count word follows the records. -/
def logWord (log : List Viol) (count o : Nat) : Word :=
  if o = 0x200 then BitVec.ofNat 64 count
  else match nth? log (o / 32) with
    | some v => BitVec.ofNat 64 (violBits v / 2 ^ (64 * (o / 8 % 4)))
    | none => 0

/-- The place that a CORECTL register controls. -/
def corectlPlace (off : Nat) : Option Nat :=
  if 0x400000000 ≤ off ∧ off < 0x402000000 ∧ off % 0x10000 = 0 then some ((off - 0x400000000) / 0x10000)
  else if iodReg 0 0x6000 ≤ off ∧ off < iodReg 0 0x6400 ∧ off % 0x100 = 0x90 then some (516 + (off - iodReg 0 0x6000) / 0x100)
  else none

/-- The fields of doubleword `i` of a quota entry. A staging entry keeps what is written to its RSV bits for the check of
R400, and reads them as zero (R7, log 83). -/
def quotaFields (i : Nat) : Word := BitVec.ofNat 64 (bits (ones 511 384 + ones 153 8 + 3) (64 * i + 63) (64 * i))
/-- What a read of an aligned register returns (R392, R394). -/
def State.readReg (s : State) (off : Nat) : Word :=
  match regEntry off with
  | none => 0
  | some e =>
    if e.acc = 0 || e.acc = 3 then 0
    else if let some p := corectlPlace off then
      BitVec.ofNat 64 (bits (s.regN off) 63 3 * 8 + b2n ((s.place p).hold == .halted) * 4)
    else if 0x400000000 ≤ off ∧ off % 0x10000 ≥ 0x100 ∧ off % 0x10000 < 0x308 then
      let t := s.place ((off - 0x400000000) / 0x10000); logWord t.vlog t.vcount (off % 0x10000 - 0x100)
    else if 0x100000000 ≤ off ∧ off < 0x140000000 ∧ off % 0x10000000 < 0x800 ∧ off % 0x20 = 0x10 then
      BitVec.ofNat 64 (s.lq ((off - 0x100000000) / 0x10000000) (off % 0x10000000 / 0x20)).cons
    else if 0x100000000 ≤ off ∧ off < 0x140000000 ∧ 0x3000 ≤ off % 0x10000000 ∧ off % 0x10000000 < 0x3608 then
      let d := (off - 0x100000000) / 0x10000000
      let o := off % 0x10000000 - 0x3000
      let m := s.mtu (2 * d + o / 0x400); logWord m.vlog m.vcount (o % 0x400)
    else if 0x200000000 ≤ off ∧ off < 0x220000000 ∧ 0x3000 ≤ off % 0x10000000 ∧ off % 0x10000000 < 0x3208 then
      let m := s.mtu (8 + (off - 0x200000000) / 0x10000000); logWord m.vlog m.vcount (off % 0x10000000 - 0x3000)
    else if off = 0xA008 then BitVec.ofNat 64 (bits (s.regN off) 0 0 + 2 * b2n s.stopped)
    else if 0x1000 ≤ off ∧ off < 0x1000 + 64 * 65 then s.reg off &&& quotaFields (off % 64 / 8)
    else s.reg off

-- ## Functions and quotas (R398 to R401)

def qf (q hi lo : Nat) : Nat := bits q hi lo
def State.staging (s : State) (f : Nat) : Nat :=
  (range 0 8).foldr (fun i a => s.regN (0x1000 + 64 * f + 8 * i) + 2 ^ 64 * a) 0
/-- An entry that is no quota (R400 BADENT). -/
def badEntry (q : Nat) : Bool :=
  qf q 383 154 ≠ 0 || qf q 7 2 ≠ 0 ||
    (bit q 1 && (qf q 47 16 ≠ 0 || qf q 15 8 = 0)) || (!bit q 1 && qf q 15 8 ≠ 0) ||
    (range 0 4).any (fun d => qf q (23 + 8 * d) (16 + 8 * d) > 128 || qf q (54 + 7 * d) (48 + 7 * d) > 64 || qf q (90 + 15 * d) (76 + 15 * d) > 16384) ||
    qf q 140 136 > 16 || qf q 153 141 > 4096
/-- The code of QCOMMIT's check, the first that fails (R400). All 65 entries are checked, and only the sums leave out entries
that are not valid (log 84). -/
def State.quotaCheck (s : State) : Nat :=
  let qs := (range 0 65).map fun f => (f, s.staging f)
  let val := qs.filter fun e => bit e.2 0
  let sum (g : Nat → Nat) : Nat := val.foldl (fun a e => a + g e.2) 0
  let dieTiles (d : Nat) : Nat := if bit (s.regN 0x8) (4 + d) then 128 else 0
  if qs.any fun e => badEntry e.2 then 9
  else if (range 0 4).any fun d => sum (fun q => if bit q 1 then 0 else qf q (23 + 8 * d) (16 + 8 * d)) > dieTiles d then 2
  else if (range 0 4).any fun d => sum (fun q => qf q (54 + 7 * d) (48 + 7 * d)) > 64 then 3
  else if (range 0 4).any fun d => sum (fun q => qf q (90 + 15 * d) (76 + 15 * d)) > 16384 then 4
  else if sum (fun q => qf q 140 136) > 16 then 5
  else if sum (fun q => qf q 153 141) > 4096 then 6
  else if qs.any fun a => qs.any fun b => a.1 < b.1 && (qf a.2 511 384 &&& qf b.2 511 384) ≠ 0 then 7
  else if qs.any fun e => e.2 ≠ s.quota e.1 && (if e.1 < 64 then bit (s.regN 0x10) e.1 else bit (s.regN 0x18) 0) then 8
  else 1
/-- A write of 1 to QCOMMIT (R400). -/
def State.qcommit (s : State) (v : Nat) : State :=
  if v ≠ 1 then s
  else
    let c := s.quotaCheck
    let s := s.setReg 0x28 (BitVec.ofNat 64 c)
    if c ≠ 1 then s
    else (range 0 (65 * 8)).foldl (fun s i => s.setReg (0x3000 + 8 * i) (s.reg (0x1000 + 8 * i))) s

/-- Step 1 of R375: the function's launch queues are disabled. -/
def State.disableQueues (s : State) (f : Nat) : State :=
  (range 0 256).foldl (fun s i =>
    let off := dieReg (i / 64) (0x20 * (i % 64))
    if s.lqVf (i / 64) (i % 64) = f && bit (s.regN off) 0 then s.setRegBits off 0 0 0 else s) s
/-- A write of VFEN0 or VFEN1: a bit without a valid active entry stays 0; a cleared bit disables the
function's queues (R398). -/
def State.writeVfen (s : State) (hi v : Nat) : State :=
  let base := if hi = 0 then 0 else 64
  let n := if hi = 0 then 64 else 1
  let off := if hi = 0 then 0x10 else 0x18
  let ok := (range 0 n).foldl (fun a i => if bit v i && s.quotaValid (base + i) then a + 2 ^ i else a) 0
  let old := s.regN off
  (range 0 n).foldl (fun s i => if bit old i && !bit ok i then s.disableQueues (base + i) else s) (s.setReg off (BitVec.ofNat 64 ok))

/-- A write of an LQDESC word: BASE, NLOG, ASID and VF stay while EN = 1; EN needs a quota (R160, R401).
DESIGN CHOICE (log 99): an NLOG outside 4 to 16 is kept and means a ring of 2^NLOG slots. -/
def State.writeLqdesc (s : State) (d q hi v : Nat) : State :=
  let off := dieReg d (0x20 * q + 8 * hi)
  if hi = 1 then (if s.lqEn d q then s else s.setReg off (BitVec.ofNat 64 v))
  else
    let v := if s.lqEn d q then s.regN off / 2 * 2 + v % 2 else v
    let vf := bits v 55 49
    let used := ((range 0 64).filter fun k => k ≠ q && s.lqEn d k && s.lqVf d k == vf).length
    let en := bit v 0 && used < qf (s.limits vf) (54 + 7 * d) (48 + 7 * d)
    s.setReg off (BitVec.ofNat 64 (v / 2 * 2 + b2n en))

/-- A doorbell (R160, R375, R394): refused unless the queue is the function's own and enabled. -/
def State.doorbell (s : State) (who : Who) (tile f d q n : Nat) : State :=
  if s.lqVf d q = f && s.lqEn d q && s.fnEnabled f then s.setLq d q { s.lq d q with prod := n % 2 ^ 32 }
  else s.logRefused who tile (fnReg f (0x200 * d + 8 * q))

-- ## Contexts (R149, R410)

/-- The contexts of a die that are not Free: handles whose CTXD has a state (R148). -/
def State.liveContexts (s : State) (d : Nat) : List Nat :=
  let tb := s.regBits (dieReg d 0x1060) 51 23 * 2 ^ 23
  (s.mem.filter fun c => tb ≤ c.1 && c.1 < tb + 2 ^ 23 && c.1 % 512 == 7 && c.2.toNat ≥ 32).map fun c => 16384 * d + (c.1 - tb) / 512
def State.opStatus (s : State) (d st : Nat) : State := s.setReg (dieReg d 0x1088) (BitVec.ofNat 64 st)
/-- CTXOP CREATE. -/
def State.ctxCreate (s : State) (d h : Nat) : State :=
  if h / 16384 ≠ d || s.ctxState h ≠ 0 then s.opStatus d 4
  else
    let f := s.ctxVf h
    let n := ((s.liveContexts d).filter fun c => s.ctxVf c == f).length
    if n ≥ qf (s.limits f) (90 + 15 * d) (76 + 15 * d) then s.opStatus d 3
    else
      let s := ((s.setCtxd h 54 54 0).setCtxd h 15 0 h).setCtxState h (if s.regN (dieReg d 0x1080) = 0 then 1 else 4) 0
      (s.forgetCtx h).opStatus d 1
/-- The tile on which a context is frozen with INCOMP. -/
def State.frozenTile (s : State) (h : Nat) : Option Nat :=
  (s.places.find? fun e => e.1 < 512 && e.2.step.isSome && e.2.ctx == h && e.2.hold == .escalated).map (·.1)
/-- CTXD words 0 to 63 zero, except HANDLE (R409). -/
def State.zeroCtxd (s : State) (h : Nat) : State := (s.clearPa (s.ctxdPa h) 512).setCtxd h 15 0 h
/-- A context becomes Free, and no request of it is left in an RSE (R149). -/
def State.freeContext (s : State) (c : Nat) : State :=
  { (s.zeroCtxd c).forgetCtx c with
    waiters := remove s.waiters c
    rses := s.rses.map fun (e : Nat × Rse) => (e.1, { e.2 with queue := e.2.queue.filter fun m => m.owner ≠ c }) }
/-- CTXOP FREE (R149, R410). -/
def State.ctxFree (s : State) (d h : Nat) : State :=
  let st := s.ctxState h
  let wipe (s : State) : State :=
    (s.freeContext h).opStatus d 1
  if h / 16384 ≠ d then s.opStatus d 4
  else if st = 2 then
    match s.frozenTile h with
    | some t =>
      let s := match s.stepAt t with
        | some stp => (s.leaveBarriers stp.id (s.place t).gpos).modStep stp.id fun x => { x with aborted := true }
        | none => s
      wipe ((s.modPlace t Place.zeroOwner).modPlace t fun p => { p with step := none })
    | none => s.opStatus d 2
  else wipe s
/-- Copy a context's descriptor and images between their places and a swap area: the descriptor at +0, the
light image at +0x200, the full image of gang position j at +0x1000 + 0x1B_0000 j; while the host must give up a copy of a
line of theirs the operation ends with BUSY (log 12). -/
def State.copyPa (s : State) (src dst n : Nat) : State :=
  { s with mem := fsplice dst n ((fslice src n s.mem).map fun c => (c.1 - src + dst, c.2)) s.mem }
def State.imageSpans (s : State) (h : Nat) : List (Nat × Nat × Nat) :=
  (s.ctxd h 311 256, 0x200, 256) :: (range 0 8).map fun j => (s.ctxd h 375 320 + fullSize * j, 0x1000 + 0x1B0000 * j, fullSize)
def State.moveImages (s : State) (h area : Nat) (out : Bool) : State :=
  let asid := s.ctxAsid h
  (s.imageSpans h).foldl (fun s (va, off, n) =>
    match s.imagePages asid va n with
    | none => s
    | some pages => (pages.zip (range 0 pages.length)).foldl (fun s (pa, i) =>
        let m := min 8192 (n - 8192 * i)
        if out then s.copyPa pa (area + off + 8192 * i) m else (s.copyPa (area + off + 8192 * i) pa m).frameDirty pa) (s.settle asid va n)) s
/-- What the host must be asked for before the images of a context move (R75). -/
def State.moveAsks (s : State) (h : Nat) (own : Bool) : List Msg :=
  (s.imageSpans h).flatMap fun (va, _, n) => s.imageAsks (s.ctxAsid h) va n own
def State.ctxSwapOut (s : State) (d h : Nat) : State :=
  let st := s.ctxState h
  let area := s.regN (dieReg d 0x1080)
  if h / 16384 ≠ d || (st ≠ 1 && st ≠ 3) || !(inT2 area || inT3 area) then s.opStatus d 4
  else match s.moveAsks h false with
    | m :: r => ((m :: r).foldl State.sendOnce s).opStatus d 2
    | [] =>
      let s := (s.copyPa (s.ctxdPa h) area 512).moveImages h area true
      (s.setCtxState h 4 (s.ctxReason h)).opStatus d 1
def State.ctxSwapIn (s : State) (d h : Nat) : State :=
  let area := s.regN (dieReg d 0x1080)
  if h / 16384 ≠ d || s.ctxState h ≠ 4 then s.opStatus d 4
  else match if area = 0 then [] else s.moveAsks h true with
    | m :: r => ((m :: r).foldl State.sendOnce s).opStatus d 2
    | [] =>
      let s := if area = 0 then s else s.moveImages h area false
      (s.setCtxState h (if s.ctxReason h = 0 then 1 else 3) (s.ctxReason h)).opStatus d 1
/-- CTXOP RETRYSAVE: a full save with the watchdog disarmed (R371, R410). -/
def State.ctxRetrySave (s : State) (d h : Nat) : State :=
  match if h / 16384 = d then s.frozenTile h else none with
  | none => s.opStatus d 4
  | some t =>
    let p := s.place t
    let resume := match p.switch with | some sw => sw.resume | none => if p.frozen then eretPc p.epc else p.cc.pc
    match s.saveAsks t false, s.saveImage t p.gpos resume none with
    | m :: r, _ => ((m :: r).foldl State.sendOnce s).opStatus d 2
    | [], none => s.opStatus d 2
    | [], some s =>
      let s := (s.setCtxd h 53 53 0).setCtxState h 1 0
      let s := s.putAway t
      let s := match p.step with
        | some id => s.modPos id p.gpos fun q => { q with tile := none, saved := true, phases := p.phase, wdog := p.wdogGt, full := true }
        | none => s
      (s.modPlace t Place.vacate).opStatus d 1
def State.ctxop (s : State) (d v : Nat) : State :=
  let h := v % 65536
  let op := bits v 63 60
  if op = 1 then s.ctxCreate d h else if op = 2 then s.ctxFree d h else if op = 3 then s.ctxSwapOut d h
  else if op = 4 then s.ctxSwapIn d h else if op = 5 then s.ctxRetrySave d h else s.opStatus d 4

-- ## Cores, power, mailbox, start-up

/-- RESTART starts a halted core at [63:3] × 8, WAKE ends an IDLE (R270, R394). -/
def State.restartCore (s : State) (p pc : Nat) : State :=
  s.modPlace p fun t => if t.hold == .halted then (t.setCore { t.core with pc := BitVec.ofNat 64 (pc / 8 * 8) } |> fun t => { t with hold := .running }) else t
def State.wakeCore (s : State) (p : Nat) : State :=
  s.modPlace p fun t => if t.hold == .idle then { t with hold := .running } else t
/-- A write of CORECTL: the register keeps `v`, and its actions take `act`, the written bytes alone (R392, R394). -/
def State.corectl (s : State) (off p v act : Nat) : State :=
  let s := s.setReg off (BitVec.ofNat 64 (bits v 63 3 * 8))
  let s := if bit act 0 then s.restartCore p act else s
  if bit act 1 then s.wakeCore p else s

/-- Gating is refused while a function has fixed tiles on the die or the shared remainder serves a pending step (R412). -/
def State.mayGate (s : State) (d : Nat) : Bool :=
  (range 0 65).all (fun f => let q := s.quota f; !bit q 0 || qf q (23 + 8 * d) (16 + 8 * d) = 0) &&
    s.steps.all fun st => st.started || !st.mask.contains d || !bit (s.quota st.vf) 1
/-- The contexts of a die are out, and none of the lines that it caches is under way. -/
def State.gateReady (s : State) (d : Nat) : Bool :=
  (tilesOf d).all (fun t => let p := s.place t
    p.step.isNone && p.switch.isNone && p.l1.all fun e => e.2.pend.isEmpty && s.lineQuiet e.2.key) &&
    s.home.all fun e => s.homeDie e.2.key ≠ d || s.lineQuiet e.2.key
/-- The caches of a die are cleaned and invalidated: owners write back, copies of lines homed elsewhere go with their
notices, and the home partition is emptied (R83). -/
def State.emptyDie (s : State) (d : Nat) : State :=
  let cached (s : State) : List LineKey := (tilesOf d).flatMap fun t => (s.place t).l1.map (·.2.key)
  let s := (cached s).foldl (fun s k => if ((s.dir k).own.map dieOf) = some d then s.ownerEvicts k else s) s
  let s := (cached s ++ (s.replicas.filter fun e => e.1 % 4 = d).map fun e => lineOf (e.1 / 4)).eraseDups.foldl (fun s k =>
    if s.homeDie k ≠ d then s.dropCopies d k
    else if (s.dir k).own.isSome then s
    else (s.invalDie d k none).setDir k { s.dir k with l := [] }) s
  (s.home.filter fun e => s.homeDie e.2.key = d).foldl (fun s e => s.evictHome e.2.key) s
/-- Nothing is left in the caches of a die. -/
def State.dieEmpty (s : State) (d : Nat) : Bool :=
  (tilesOf d).all (fun t => (s.place t).l1.all fun e => !e.2.present) && !(s.replicas.any fun e => e.1 % 4 = d) &&
    !s.home.any fun e => s.homeDie e.2.key = d
/-- A tile loses power (R84): with its die's B-store in retention, rows and the unfinished visits of killed slots stay
(log 78). -/
def Place.powerOff (p : Place) (retain : Bool) : Place := { p with
  keys := if retain then p.keys.filter fun e => e.2.zeroing.isSome else []
  kernel := none, pmc := [], l1 := []
  bst := if retain then p.bst else [], tags := if retain then p.tags else []
  bstBad := if retain then p.bstBad else [], tagBad := if retain then p.tagBad else [] }
/-- The gating sequence goes on: it ends once the contexts are out and the caches are empty (R83). -/
def State.gateDie (s : State) (d : Nat) (retain : Bool) : State :=
  if !s.gateReady d then s
  else
    let s := s.emptyDie d
    if !s.dieEmpty d then s
    else
      let s := (s.places.filter fun e => e.1 < 512 && dieOf e.1 == d).foldl (fun s e => s.modPlace e.1 fun p => p.powerOff retain) s
      { s with gated := addTo s.gated d, gating := fdel d s.gating, retained := if retain then addTo s.retained d else remove s.retained d }
/-- The gating sequences under way. -/
def State.goOnGating (s : State) : State := s.gating.foldl (fun s e => s.gateDie e.1 e.2) s
/-- Bit `d` of DIEPWR, whose value each die's register shows (log 30). -/
def State.setPower (s : State) (d v : Nat) : State := (range 0 4).foldl (fun s r => s.setRegBits (dieReg r 0x1090) d d v) s
/-- A request to gate a die: refused, or its sequence begins (R83, R412). -/
def State.askGate (s : State) (d : Nat) (retain : Bool) : State :=
  if s.mayGate d then { s with gating := fput d retain s.gating }.gateDie d retain else s.setPower d 0
/-- A die is ungated: its L1s and L2 slices start empty (R83). -/
def State.ungateDie (s : State) (d : Nat) : State :=
  let s := if s.gated.contains d then
      let s := (s.home.filter fun e => s.homeDie e.2.key = d).foldl (fun s e => s.evictHome e.2.key) s
      { s with replicas := s.replicas.filter fun e => e.1 % 4 ≠ d
               places := s.places.map fun (e : Nat × Place) => (e.1, if e.1 < 512 && dieOf e.1 = d then { e.2 with l1 := [] } else e.2) }
    else s
  { s with gated := remove s.gated d, gating := fdel d s.gating, retained := remove s.retained d }
/-- A DIEPWR write: bit d asks for the gating of CDd (R83, R412). -/
def State.writeDiepwr (s : State) (v : Nat) (retain : Bool) : State :=
  (range 0 4).foldl (fun s d =>
    let s := s.setPower d (bits v d d)
    if bit v d && !s.gated.contains d && (fget? s.gating d).isNone then s.askGate d retain
    else if !bit v d then s.ungateDie d
    else s) s

/-- Where the boot ROM puts the firmware body (log 6). -/
def firmwareBase : Nat := 0
/-- The fused minimum of the security version: what the fuses hold, raised by the monitor (R403). -/
def State.svnMin (s : State) : Nat := max Config.fusedSvnMin s.fusedSvn
/-- The monitor raises the fused minimum to the SVN of the running image (R403). -/
def State.raiseSvn (s : State) : State :=
  let img := if bit (s.regN 0x8) 24 then s.flashB else s.flashA
  { s with fusedSvn := max s.fusedSvn (numOf ((img.drop 8).take 4)) }
/-- What acts before the memory and the package block do, and all that acts in minimal safe function (R406, R408). -/
def State.early (s : State) : Bool := s.minimal || s.regBits 0x8 3 0 = 1
/-- Stage B: the stacks are trained, the slots are checked in order, and the monitor starts on steward core 0 (R403, R406,
R408). -/
def State.stageB (s : State) : State :=
  let run (s : State) (slot : Nat) (img : List Byte) : State :=
    let body := (img.drop 1024).take (numOf ((img.drop 16).take 8))
    let s := (s.memWrite firmwareBase body).setRegBits 0x8 24 24 slot
    (s.setRegBits 0x8 3 0 2).modPlace 516 fun p => { p with hold := .running, cc := { p.cc with pc := BitVec.ofNat 64 (firmwareBase + numOf ((img.drop 24).take 8)), priv := 3 } }
  let s := match s.unpopulated with
    | k :: _ => s.setRegBits 0x8 23 16 (0x20 + k)
    | [] => s
  let s := s.setRegBits 0x8 15 8 (((range 0 8).filter fun k => !s.unpopulated.contains k).foldl (fun a k => a + 2 ^ k) 0)
  match imageError s.svnMin s.flashA with
  | none => run s 0 s.flashA
  | some e =>
    let s := if s.regBits 0x8 23 16 = 0 then s.setRegBits 0x8 23 16 (0x10 + e) else s
    match imageError s.svnMin s.flashB with
    | none => run s 1 s.flashB
    | some _ => { s.setRegBits 0x8 3 0 0xE with minimal := true }
/-- A package reset: everything but the tick, the flash, the fuses and what is physically broken, up to the end of stage A
(R407, R408, log 6). -/
def State.packageReset (s : State) : State :=
  { State.reset with
    agenda := s.agenda, focus := s.focus, turn := s.turn, freeCount := s.freeCount, tick := s.tick, unpopulated := s.unpopulated
    flashA := s.flashA, flashB := s.flashB, fusedSvn := s.fusedSvn, throttled := s.throttled }.setRegBits 0x8 3 0 1

/-- The mailbox STATUS command: a telemetry record whose content the spec does not give, as free values
(R407, log 2). -/
def State.mboxStatus (s : State) : State :=
  let s := (range 0 8).foldl (fun s i => s.setReg (0x8040 + 8 * i) (Config.freeWord s.freeCount i)) s
  { s with freeCount := s.freeCount + 1 }.setReg 0x9008 1
/-- The mailbox RECOVER command (R407): outside the minimal safe function it is accepted only from the PF driver, with every
VFEN bit clear. -/
def State.mboxRecover (s : State) (who : Who) : State :=
  if !s.minimal && ((who ≠ .pf && who ≠ .host) || s.regN 0x10 ≠ 0 || s.regN 0x18 ≠ 0) then s.setReg 0x9008 0x82
  else
    let img := s.memRead (s.regN 0x8008) (min (s.regN 0x8010) (1024 + 64 * 2 ^ 20))
    match imageError s.svnMin img with
    | some _ => s.setReg 0x9008 0x81
    | none => { s with flashB := img }.packageReset.setReg 0x9008 1
def State.mbdoor (s : State) (who : Who) (v : Nat) : State :=
  if v = 1 then s.mboxStatus else if v = 2 then s.mboxRecover who else if v = 3 then s.packageReset else s.setReg 0x9008 0x80

-- ## Queries (R420)

def rhtBits (r : Region) : Nat :=
  r.no * 2 ^ 93 + r.asid.getD 0 * 2 ^ 77 + r.perm.vf * 2 ^ 64 + 2 ^ 63 + b2n r.placed * 2 ^ 62 + b2n r.asid.isNone * 2 ^ 61 +
    r.home * 2 ^ 59 + r.path * 2 ^ 57 + b2n r.perm.r * 2 ^ 56 + b2n r.perm.w * 2 ^ 55 + b2n r.perm.x * 2 ^ 54 +
    b2n r.perm.a * 2 ^ 53 + b2n r.perm.sa * 2 ^ 52 + b2n r.perm.dev * 2 ^ 51
def rctBits (r : Region) : Nat :=
  r.degree * 2 ^ 126 + b2n r.pin * 2 ^ 125 + r.share * 2 ^ 104 + r.skimp * 2 ^ 96 + r.rhits * 2 ^ 64 + r.skims % 2 ^ 24 * 2 ^ 40 +
    r.dchg % 2 ^ 8 * 2 ^ 32 + r.sevict % 2 ^ 24 * 2 ^ 8
def pgdBits (p : Pgd) : Nat :=
  p.va * 2 ^ 213 + p.asid.getD 0 * 2 ^ 197 + b2n p.asid.isNone * 2 ^ 196 + 2 ^ 195 + p.frame * 2 ^ 89 + p.lframe * 2 ^ 50 + p.tier * 2 ^ 48 +
    p.ltier * 2 ^ 46 + p.st * 2 ^ 44 + b2n p.lv * 2 ^ 43 + b2n p.dirty * 2 ^ 42 + b2n p.sip * 2 ^ 41 + b2n p.pin * 2 ^ 40 +
    (p.sharers.foldl (fun a d => a ||| 2 ^ d) 0) * 2 ^ 36 + p.owner.getD 0 * 2 ^ 16 + b2n p.owner.isSome * 2 ^ 15
/-- A query of a die's counter interface: op 1 RCT, 2 PGD, 3 RHT (R420). -/
def State.query (s : State) (d op : Nat) : State :=
  let va := s.regN (dieReg d 0x1108)
  let tag := s.regN (dieReg d 0x1110)
  let asid := if bit tag 16 then none else some (tag % 65536)
  let put (s : State) (w : Option Nat) : State := match w with
    | some w => ((range 0 4).foldl (fun s i => s.setReg (dieReg d (0x1140 + 8 * i)) (BitVec.ofNat 64 (w / 2 ^ (64 * i)))) s).setReg (dieReg d 0x1118) 1
    | none => s.setReg (dieReg d 0x1118) 5
  if op = 1 then put s ((fget? s.regions (regionCode asid va)).map rctBits)
  else if op = 2 then put s ((s.gran asid va).map pgdBits)
  else if op = 3 then put s ((fget? s.regions (regionCode asid va)).map rhtBits)
  else s.setReg (dieReg d 0x1118) 4

/-- TICKADJ during stage B, before any die is online (R414). -/
def State.tickAdj (s : State) (v : Nat) : State :=
  if (s.regBits 0x8 3 0 = 1 || s.regBits 0x8 3 0 = 2) && s.regBits 0x8 7 4 = 0 then { s with tick := (s.tick + v) % 2 ^ 64 } else s

-- ## Writes (R392)

/-- Effect of writing the register at `off`, whose masked value becomes `v`; `act` has the written bytes and zero in the
others. -/
def State.regEffect (s : State) (who : Who) (tile off v act : Nat) : State :=
  if off = 0x20 then s.qcommit v
  else if off = 0x10 then s.writeVfen 0 v
  else if off = 0x18 then s.writeVfen 1 v
  else if off = 0x9000 then s.mbdoor who v
  else if off = 0xA010 then s.tickAdj v
  else if let some p := corectlPlace off then s.corectl off p v act
  else if 0x100000000 ≤ off ∧ off < 0x140000000 then
    let d := (off - 0x100000000) / 0x10000000
    let o := off % 0x10000000
    if o < 0x800 then s.writeLqdesc d (o / 0x20) (o % 0x20 / 8) v
    else if o = 0x1000 then
      let w := bits v 11 8
      let s := s.setReg off (BitVec.ofNat 64 (if w > 12 then setBits v 11 8 (s.regBits off 11 8) else v))
      { s with scrimDue := if s.regBits off 11 8 = s.ways d then fdel d s.scrimDue else fput d (s.tick + 2 ^ 20) s.scrimDue }
    else if o = 0x1078 then s.ctxop d v
    else if o = 0x1090 then s.writeDiepwr v false
    else if o = 0x1100 then s.query d (v % 16)
    else s.setReg off (BitVec.ofNat 64 v)
  else if 0x300000000 ≤ off ∧ off % 0x10000 < 0x800 ∧ off < 0x304100000 then
    let o := off % 0x10000
    s.doorbell who tile ((off - 0x300000000) / 0x10000) (o / 0x200) (o % 0x200 / 8) v
  else if 0x300000000 ≤ off ∧ off < 0x304100000 ∧ 0x2000 ≤ off % 0x10000 ∧ off % 0x40 = 0 ∧ !bit v 16 then
    { s.setReg off (BitVec.ofNat 64 v) with recSlots := fdel (4 * ((off - 0x300000000) / 0x10000) + (off % 0x10000 - 0x2000) / 0x40) s.recSlots }
  else s.setReg off (BitVec.ofNat 64 v)

/-- A write of `size` bytes at a byte offset (R392): one register, naturally aligned; otherwise an error
response and a logged address. `tile` is the tile whose core writes, 0 for another agent. -/
def State.regWrite (s : State) (who : Who) (tile off size v : Nat) : State :=
  let a := off / 8 * 8
  if (size ≠ 1 && size ≠ 2 && size ≠ 4 && size ≠ 8) || off % size ≠ 0 then s.logMtu 8 off 3
  else match regEntry a with
    | none => s.logMtu 8 off 3
    | some e =>
      -- a plug-in's write is logged wherever it lands, another agent's where the register gives it no right
      if who = .plugin || (e.acc ≠ 0 && !mayWrite who e.w) then s.logRefused who tile off
      else if e.acc = 0 || e.acc = 2 then s
      else
        let sh := 8 * (off % 8)
        let act := setBits 0 (sh + 8 * size - 1) sh v
        -- of CORECTL the restart pc alone is kept: its WO fields read as zero
        let old := if e.acc = 3 then 0 else s.regN a
        let new := setBits old (sh + 8 * size - 1) sh v
        s.regEffect who tile a ((new &&& e.mask) ||| (old &&& (2 ^ 64 - 1 - e.mask) &&& (2 ^ 64 - 1))) act
/-- A read of `size` bytes. -/
def State.regRead (s : State) (off size : Nat) : State × Nat :=
  let a := off / 8 * 8
  if (size ≠ 1 && size ≠ 2 && size ≠ 4 && size ≠ 8) || off % size ≠ 0 || (regEntry a).isNone then (s.logMtu 8 off 3, 0)
  else (s, (s.readReg a).toNat / 2 ^ (8 * (off % 8)) % 2 ^ (8 * size))

/-- The tile of the acting core, as a log names it. -/
def State.sender (s : State) : Nat := if isTile s.cur then s.cur else 0
/-- Who a core is to the registers: a steward core by its privilege, a CC by its function (R394, log 13). -/
def State.writer (s : State) : Who :=
  if isSteward s.cur then
    if s.here.cc.priv ≥ 3 then .monitor else if s.here.cc.priv = 2 then .scheduler else .plugin
  else if s.here.vf = 0 then .pf else .function s.here.vf

end Sys2Proof.Machine
end

