-- ==== Sys2Proof/Machine/Run.lean ====
section
/-! DEFINITION. How a control word runs: the checks of R198 in their order, its effect, and how it
retires, traps, parks or waits on the core that executes it. -/
namespace Sys2Proof.Machine

/-- The outcome of a step or meaning. -/
abbrev Out := Host.Outcome State Fault Refusal

-- ## Prologues (R165)

/-- LQCONS advances past the head packet, which gives the turn to the next queue (R164). -/
def State.advance (s : State) (d q : Nat) : State :=
  let l := s.lq d q
  { s.setLq d q { l with cons := (l.cons + 1) % 2 ^ 32, copies := l.copies.drop 1, again := none } with
    lqTurn := fset 0 s.lqTurn d ((q + 1) % 64) }
/-- What follows from the verdict of an ended prologue on its copy; while a page that the step needs is on its way, the
prologue stays as ended. DESIGN CHOICE (log 102): CPL and TAG of a PROTRAP record are those from before this run of the
prologue, of a CANCELLED record those of the copy. -/
def State.closePrologue (s : State) (d : Nat) (pr : Prologue) (verdict : Nat) (copy : Packet) : State :=
  let q := pr.queue
  let asid := s.lqAsid d q
  let vf := s.lqVf d q
  let s := { s with prologues := fdel d s.prologues }
  if verdict = 1 then (s.failPacket copy asid vf 0x03).advance d q
  else if verdict > 2 then (s.failPacket pr.packet asid vf stProtrap).advance d q
  else match s.makeStep copy d q vf asid copy.cls copy.deadline none false with
    | .step s st =>
      let s := s.addStep st
      if verdict = 2 then s.setLq d q { s.lq d q with again := some copy } else s.advance d q
    | .failed s st => (s.failPacket copy asid vf st).advance d q
    | .wait s => { s with prologues := fput d { pr with ended := some (verdict, copy) } s.prologues }
/-- The CFE's prologue ends: verdict of `g8`, or none when it trapped or ran out of time. DESIGN CHOICE (log 102): a TYPE that the
prologue has rewritten is taken as it stands, and fails as BADPKT where it is no LAUNCH. -/
def State.endPrologue (s : State) (d : Nat) (verdict : Option Nat) : State :=
  match fget? s.prologues d with
  | none => s
  | some pr =>
    let c := (s.place (512 + d)).cc
    let raw := (s.place (512 + d)).spNum 0 128
    let copy : Packet := { pr.packet with bits := (range 0 8).foldl (fun w i => setBits w (575 + 64 * i) (512 + 64 * i) (c.getG (9 + i)).toNat) raw }
    (s.modPlace (512 + d) fun _ => Place.reset (512 + d)).closePrologue d pr (verdict.getD 3) copy
/-- An ended prologue whose step waited tries again. -/
def State.retryPrologue (s : State) (d : Nat) : State :=
  match fget? s.prologues d with
  | some pr => match pr.ended with
    | some (v, copy) => s.closePrologue d pr v copy
    | none => s
  | none => s

-- ## Where and when a word may execute (R198, R267, R427)

/-- The cores on which an instruction executes. -/
inductive Where where
  /-- every core -/
  | any
  /-- a CC, an SC or a CFE, not a steward core (R427) -/
  | tile
  /-- a CC only (R267) -/
  | cc
  /-- a CC or a steward core (LAUNCH, WAKE) -/
  | ccSteward
  /-- a CC or a CFE (EXIT, KILL) -/
  | ccCfe
  /-- an SC or a steward core (ERET) -/
  | handler
  deriving DecidableEq, Repr
def State.onSc (s : State) : Bool := isTile s.cur && s.here.frozen
def State.onCc (s : State) : Bool := isTile s.cur && !s.here.frozen
def Where.ok (w : Where) (s : State) : Bool :=
  match w with
  | .any => true
  | .tile => !isSteward s.cur
  | .cc => s.onCc
  | .ccSteward => s.onCc || isSteward s.cur
  | .ccCfe => s.onCc || isCfe s.cur
  | .handler => s.onSc || isSteward s.cur

/-- The first register field at or above the bound (R140). -/
def overBound (b : Nat) (l : List Nat) : Option Nat := l.find? fun i => i ≠ 0 && b ≤ i
/-- The checks before an instruction's own, in the order of R198: legal here, privilege, register bound. -/
def State.preCheck (s : State) (w : Where) (priv : Nat) (gs fs : List Nat) : Option (Nat × Nat) :=
  if !w.ok s then some (cIllegal, 0)
  else if s.here.core.priv < priv then some (cPriv, 0)
  else match overBound s.here.regbnd gs with
    | some i => some (cRegbound, i)
    | none => match overBound (s.here.regbnd / 2) fs with
      | some i => some (cRegbound, i)
      | none => none

-- ## How an instruction ends

/-- A precise cause of the acting core's instruction: a CC traps, an SC escalates (R364), a CFE ends its
prologue (R165), a steward core enters the next layer (R404). -/
def State.raise (s : State) (code detail : Nat) : State :=
  if s.onSc then s.escalateSc s.cur code detail
  else if isTile s.cur then s.takeTrap s.cur code detail none s.pc
  else if isCfe s.cur then s.endPrologue (s.cur - 512) none
  else s.takeStewardTrap s.cur code detail s.pc

/-- The causal ranges armed on a tile (R424). -/
def State.rangesOf (s : State) (t : Nat) : FMap (Nat × Nat × Nat) := ((s.stepAt t).map (·.ranges)).getD []
/-- Counters and causal bookkeeping of a retired CC instruction (R419, R424). -/
def State.retired (s : State) (pc : Word) : State :=
  let t := s.cur
  let s := s.count t 0x000 1
  let hit := (s.rangesOf t).filter fun (_, lo, hi, _) => lo ≤ pc.toNat && pc.toNat < hi
  hit.foldl (fun s (_, _, _, k) =>
    let s := (s.count t 0x021 k).count t 0x022 1
    match (s.place t).step with
    | some id => (s.modStep id fun st => { st with causalD := st.causalD + k }).modPos id (s.place t).gpos fun q => { q with settled := q.settled + k }
    | none => s) s

/-- Retire the instruction and continue at `npc`; an armed STEP freezes the tile (R366, R373), and a
victim leaves at its NODE (R173). -/
def State.retireAt (s : State) (npc : Word) (node : Bool) : State :=
  if s.onCc then
    let s := (s.retired s.pc).setPc npc
    let s := s.modHere fun t => { t with node := if node then t.node else none, stallSince := none, begun := none, tb := none, bpSkip := false }
    if s.here.stepArm then s.takeTrap s.cur cStep 0 none npc
    else if node && s.here.victim then s.beginSwitch s.cur ⟨none, npc, true, none, 0, s.pc⟩
    else s
  else (s.setPc npc).modHere fun t => { t with stallSince := none, begun := none, tb := none }
/-- Retire and continue at `npc`. -/
def State.retire (s : State) (npc : Word) : State := s.retireAt npc false

/-- An instruction without its effect: `s` is the state before it, `s'` the one that its wait leaves;
the MTUs keep what they logged and cached. -/
def State.endWith (s s' : State) : Stop → State
  | .trap c d => { s with mtus := s'.mtus }.raise c d
  | .trapAfter c d =>
    if s.onCc then
      let s := (s.retired s.pc).modHere fun t => { t with node := none, stallSince := none, begun := none, tb := none, bpSkip := false }
      s.takeTrap s.cur c d none (s.pc + 8)
    else if isSteward s.cur then s.takeStewardTrap s.cur c d (s.pc + 8)
    else s.raise c d
  | .park r i => if s.onCc then s'.parkTile s.cur r i s.pc else s'
  | .stall => s'.modHere fun t => { t with stallSince := some (t.stallSince.getD s'.tick) }

/-- Run an instruction's own effect after the checks; it answers where to continue, or none when it has
left the tile. -/
def ctl (w : Where) (priv : Nat) (gs fs : List Nat) (body : M (Option Word)) (s : State) : Out :=
  match s.preCheck w priv gs fs with
  | some (c, d) => .next (s.raise c d)
  | none => match body.run s with
    | .ok (some npc) s' => .next (s'.retire npc)
    | .ok none s' => .next s'
    | .error e s' => .next (s.endWith s' e)

/-- An instruction that only computes: registers change by `eff` and control goes on. -/
def alu (gs fs : List Nat) (eff : State → State) (s : State) : Out :=
  match s.preCheck .any 0 gs fs with
  | some (c, d) => .next (s.raise c d)
  | none => .next ((eff s).retire (s.pc + 8))

/-- Continue after the instruction. -/
def next : M (Option Word) := do return some ((← rpc) + 8)
/-- Continue at a checked target (R178). -/
def goto (t : Word) : M (Option Word) := do
  checkTarget t
  return some t

/-- A causal debt is owed by a tile (R424). -/
def State.owes (s : State) (t : Nat) : Bool :=
  match s.stepAt t with
  | some st => st.causalD > ((nth? st.positions (s.place t).gpos).map (·.settled)).getD 0
  | none => false

end Sys2Proof.Machine
end

