-- ==== Sys2Proof/Machine/Operands.lean ====
section
/-! DEFINITION. Operand forms of control words: immediates, CM addresses, counts (R184 to R187, R231). -/
namespace Sys2Proof.Machine

/-- A field of `n` bits, sign-extended to a register's width. -/
def sext (n v : Nat) : Word := BitVec.ofInt 64 (signedN n v)
/-- A signed 32-bit immediate (R184). -/
def imm32 (v : Nat) : Word := sext 32 v

/-- The target of a CB or CJ word: pc + 8 × sext(offset) (R188). -/
def branchTarget (pc : Word) (n off : Nat) : Word := pc + 8 * sext n off

/-- The count of a CS word: IMM, or the low 16 bits of a register when RG = 1 (R231). -/
def State.cnt (s : State) (reg : Nat) (c : Cnt) : Nat := if c.rg = 1 then (s.g reg).toNat % 65536 else c.imm
/-- The registers a counted CS word reads. -/
def cntRegs (reg : Nat) (c : Cnt) : List Nat := if c.rg = 1 then [reg] else []

/-- The address of a CM word: g[A] + (g[B] << SH) + sext(DISP), with 64-bit wrap (R186). -/
def State.ea (s : State) (m : CM) : Nat := (s.g m.a + (s.g m.b <<< m.sh) + sext 16 m.disp).toNat
/-- The address of AMO and ACAS: g[A] + sext(DISP), DISP 12 bits wide (R186). -/
def State.eaAmo (s : State) (m : CM) : Nat := (s.g m.a + sext 12 (m.disp % 4096)).toNat
/-- Bytes that SZ names: b, h, w, d, n, q (R186). -/
def szBytes (sz : Nat) : Nat := if sz = 0 then 1 else if sz = 1 then 2 else if sz = 2 then 4 else if sz = 3 then 8 else if sz = 4 then 1 else 16
/-- A loaded value of `n` bytes in a register (R244). -/
def extend (sx : Nat) (n v : Nat) : Word := if sx = 1 then sext (8 * n) v else BitVec.ofNat 64 v

end Sys2Proof.Machine
end

