-- ==== Sys2Proof/Machine/MemOps.lean ====
section
/-! DEFINITION. Loads, stores, cache operations and atomics of control words (R243 to R247), over three
ways to reach memory: a tile's L1, the home partitions (CFE, steward at user privilege), and physical
memory (steward at privilege 1 and above). -/
namespace Sys2Proof.Machine

-- ## Order (R113 to R117, R120, R133)

/-- The first held sector of a context whose class a mask covers (R44). -/
def State.heldBy (s : State) (ctx mask : Nat) : Option Held :=
  s.held.find? fun h => h.prov.any fun e => e.2.ctx == ctx && (e.2.mask &&& mask) ≠ 0
/-- A release of an agent of a tile covers a sector: it is its own, or tile-scope edges order a store to it before (R120,
R133). -/
def Place.coversSector (p : Place) (t ctx agent : Nat) (v : Prov) : Bool :=
  v.ctx == ctx && v.agents.any fun e => e.1 / 8 = t && (e.1 % 8 = agent || e.2 < fget 0 (p.edges agent) (e.1 % 8))
/-- The held lines that a release of an agent of a tile covers. -/
def State.heldCovered (s : State) (t ctx agent : Nat) : List Held :=
  s.held.filter fun h => h.prov.any fun e => (s.place t).coversSector t ctx agent e.2
/-- A store that a release of an agent of the tile covers: its own, and those that tile-scope edges order before it
(R120). -/
def Place.covers (p : Place) (agent : Nat) (b : Pend) : Bool :=
  b.prov.queue.getD ccAgent = agent || b.order < fget 0 (p.edges agent) (b.prov.queue.getD ccAgent)
/-- The stores of the classes of `mask` that an agent of a tile covers are performed at `scope` (R63, R116, R120). -/
def State.performed (s : State) (t ctx agent mask scope : Nat) : Bool :=
  !s.predecessor t ctx (bit mask) (fun _ => scope) ((s.place t).covers agent)
/-- Wait until the writes of the classes of `mask` that a release by an agent of the acting tile covers are performed at
`scope`; a covered held write parks the context with LATE_FENCE (R120, R133). -/
def releaseBy (agent mask scope : Nat) : M Unit := do
  let s ← get
  let a ← curAcc
  if isTile a.place then
    match s.heldCovered a.place a.ctx agent with
    | h :: r =>
      set { s with lateHeld := fput a.ctx ((h :: r).map Held.code) s.lateHeld, fenceMask := fdel a.ctx s.fenceMask, lateLine := fdel a.ctx s.lateLine }
      throw (.park 2 h.fid)
    | [] => waitFor (s.performed a.place a.ctx agent mask scope)
/-- A FENCE: any held sector of the context of its classes parks it (R44). -/
def fenceOf (mask scope : Nat) : M Unit := do
  let s ← get
  let a ← curAcc
  if isTile a.place then
    match s.heldBy a.ctx mask with
    | some h =>
      set { s with fenceMask := fput a.ctx mask s.fenceMask, lateLine := fdel a.ctx s.lateLine, lateHeld := fdel a.ctx s.lateHeld }
      throw (.park 2 h.fid)
    | none => waitFor (s.performed a.place a.ctx ccAgent mask scope)
/-- A release of the acting CC. -/
def release (mask scope : Nat) : M Unit := releaseBy ccAgent mask scope
/-- Every class. -/
def allClasses : Nat := 0xFFFF
/-- SEM includes release. -/
def isRel (m : CM) : Bool := m.sem ≥ 2
/-- The order of a store or atomic: predecessors of its class are performed at the wider scope, and
those of a release are all performed at its own. -/
def orderWrite (m : CM) : M Unit := do
  let s ← get
  if isRel m then release allClasses m.scope
  waitFor (!s.predecessor s.cur s.here.ctx (related m.oc) (max m.scope) fun p => p.prov.queue.isNone)
/-- A read of class 15, or a write of it before, orders the read after the write (R114). -/
def orderRead (oc : Nat) : M Unit := do
  let s ← get
  waitFor (!s.predecessor s.cur s.here.ctx (fun c => oc == 15 || c == 15) (fun x => x) fun p => p.prov.queue.isNone)

-- ## The way to memory

/-- Where an address of AS 0b00 leads. -/
inductive Way where
  /-- physical memory, or a device register by its offset -/
  | phys (pa : Nat)
  | dev (off : Nat)
  /-- the home partition, without an L1 -/
  | home (a : Acc) (va : Nat)
  | l1 (a : Acc) (va : Nat) (sa : Bool)
  deriving DecidableEq, Repr

/-- The device register that a page of a DEV region maps (R25, R392). -/
def devOffset (a : Acc) (va : Nat) (wr : Bool) : M Nat := do
  let s ← get
  match s.region (some a.asid) va with
  | none => trap cPerm
  | some r =>
    let (s, w) := s.translate r.mtu a.asid va
    set s
    match w with
    | .leaf e l =>
      if ptePst e = 1 || ptePst e = 2 then throw (.park 1 va)
      else if ptePst e = 3 then trap cPoison
      else if (wr && !bit e 53) || !inDev (paOf e l va) then trap cPerm
      else return paOf e l va - 0xF000000000000
    | _ => trap cPerm
/-- The rights that one PMP region must grant (R405). -/
def Need.pmp : Need → List Nat
  | .x => [3]
  | .r => [1]
  | .w => [2]
  | .rwa => [1, 2]
/-- The checks of a global access after alignment, and its way (R26, R243, R404). -/
def wayTo (va n : Nat) (need' : Need) : M Way := do
  let s ← get
  if s.physical then
    need cPerm (s.pmpAllows va n need'.pmp)
    if inDev va then return .dev (va - 0xF000000000000)
    if s.populated va then return .phys va
    set (s.logMtu (mtuOf va) va 3)
    trap cPerm
  else
    let a ← curAcc
    let p ← checkPerm a va need'
    if p.dev then return .dev (← devOffset a va (need' == .w || need' == .rwa))
    else if isTile a.place then return .l1 a va p.sa
    else return .home a va

/-- A read of a device register; an error response raises PERM (R40, R392). -/
def devRead (off n : Nat) : M (List Byte) := do
  let (s, v) := (← get).regRead off n
  set s
  if (regEntry (off / 8 * 8)).isNone then trap cPerm
  return bytesOf n v
/-- Read `n` bytes (R111). -/
def Way.read (w : Way) (n : Nat) : M (List Byte) :=
  match w with
  | .phys pa => physRead pa n
  | .dev off => devRead off n
  | .home a va => readHome a false va n
  | .l1 a va _ => readL1 a va n
/-- Write masked bits of one line: `mask` and `data` from the byte at the address, which spans no line. -/
def Way.write (w : Way) (m : CM) (mask : Nat) (bs : List Byte) : M Unit := do
  match w with
  | .phys pa =>
    let old ← physRead pa bs.length
    physWrite pa (bytesOf bs.length (blend (BitVec.ofNat 1024 mask) (BitVec.ofNat 1024 (numOf old)) (BitVec.ofNat 1024 (numOf bs))).toNat)
  | .dev off =>
    -- a register page takes LD, ST, LDP and STP only (R393); a steward's half-byte store keeps the other nibble (log 19)
    let s ← get
    let whole := mask = 2 ^ (8 * bs.length) - 1
    need cPerm (whole || s.physical)
    let (s, old) := if whole then (s, 0) else s.regRead off bs.length
    let v := (blend (BitVec.ofNat 1024 mask) (BitVec.ofNat 1024 old) (BitVec.ofNat 1024 (numOf bs))).toNat
    set (s.regWrite s.writer s.sender off bs.length v)
    -- an error response (R392, log 40)
    if (regEntry (off / 8 * 8)).isNone then trap cPerm
    if isTile s.cur then takeSeq (← curAcc) (← rpc)
  | .home a va => homeMerge a ((← get).keyOf a.asid va) (BitVec.ofNat 1024 (mask * 2 ^ (8 * (va % 128)))) (placeBytes (va % 128) bs)
  | .l1 a va _ =>
    l1Write a ((← get).keyOf a.asid va) (BitVec.ofNat 1024 (mask * 2 ^ (8 * (va % 128)))) (placeBytes (va % 128) bs) m.oc m.scope (isRel m)
      (← nextSeq a)
    takeSeq a (← rpc)
/-- Whether the store's order is kept by its L1, which merges in order (R117). -/
def Way.merges : Way → Bool
  | .l1 _ _ _ => true
  | _ => false
/-- An access of device register space is ordered as R392 states, whatever its class, SEM and SCOPE (R393). -/
def Way.device : Way → Bool
  | .dev _ => true
  | _ => false

/-- The checks of R243 on an access of `n` bytes, aligned to `al`. -/
def formed (m : CM) (ea n al : Nat) : M Unit := do
  if m.as = 1 then checkSp (← get).cur ea n
  else if !(← get).physical then checkVa ea
  need cAlign (ea % al = 0)
/-- Set HOME by a hint before the access (R24). -/
def hinted (m : CM) (w : Way) : M Unit :=
  match w with
  | .l1 a va _ | .home a va => modify fun s => s.touch (s.keyOf a.asid va) (if m.hv = 1 then some m.hint else none)
  | _ => pure ()
/-- A scratchpad read of the acting core; a poisoned word raises POISON (R52). -/
def ccRdSp (o n : Nat) : M (List Byte) := do
  need cPoison (!(← here).spBad o n)
  rdSp (← curAcc) o n

-- ## Loads and stores (R244)

/-- Read bytes at an address that `formed` accepts. -/
def loadBytes (m : CM) (ea n : Nat) : M (List Byte) := do
  if m.as = 1 then
    orderRead m.oc
    ccRdSp ea n
  else
    let w ← wayTo ea n .r
    if !w.device then orderRead m.oc
    hinted m w
    w.read n
/-- Store masked bits of bytes at an address that `formed` accepts; the second half of STP has waited
with the first (`wait` false). -/
def storeBytes (m : CM) (wait : Bool) (ea mask : Nat) (bs : List Byte) : M Unit := do
  let w ← if m.as = 1 then pure none else some <$> wayTo ea bs.length .w
  match w with
  | none =>
    if wait then orderWrite m
    let a ← curAcc
    if mask = 2 ^ (8 * bs.length) - 1 then wrSp a ea bs
    else wrSpNibble a ea (bit mask 4) (if bit mask 4 then numOf bs / 16 else numOf bs)
    if isTile a.place then takeSeq a (← rpc)
  | some w =>
    if wait && !w.device then
      if w.merges then
        if isRel m then release allClasses m.scope
      else orderWrite m
    w.write m mask bs
/-- All bits of `n` bytes. -/
def full (n : Nat) : Nat := 2 ^ (8 * n) - 1

def execLd (d : Nat) (m : CM) (s : State) : Out :=
  ctl .any 0 [d, m.a, m.b] [] (do
    let ea := (← get).ea m
    let n := szBytes m.sz
    formed m ea n n
    let v := numOf (← loadBytes m ea n)
    wg d (extend m.sx n v)
    next) s
def execSt (d : Nat) (m : CM) (s : State) : Out :=
  ctl .any 0 [d, m.a, m.b] [] (do
    let ea := (← get).ea m
    let n := szBytes m.sz
    formed m ea n n
    storeBytes m true ea (full n) (bytesOf n (← rg d).toNat)
    next) s
def execStn (d : Nat) (m : CM) (s : State) : Out :=
  ctl .any 0 [d, m.a, m.b] [] (do
    let ea := (← get).ea m
    formed m ea 1 1
    let v := (← rg d).toNat % 16
    storeBytes m true ea (if m.sx = 1 then 0xF0 else 0x0F) [BitVec.ofNat 8 (if m.sx = 1 then 16 * v else v)]
    next) s
def execLdp (d : Nat) (m : CM) (s : State) : Out :=
  ctl .any 0 [d, d + 1, m.a, m.b] [] (do
    let ea := (← get).ea m
    formed m ea 16 16
    let lo ← loadBytes m ea 8
    let hi ← loadBytes m (ea + 8) 8
    wg d (BitVec.ofNat 64 (numOf lo))
    wg (d + 1) (BitVec.ofNat 64 (numOf hi))
    next) s
/-- The two stores of STP lie in one line: of an agent without an L1 they merge together, and in an L1 or a scratchpad
the second never waits for what the first did not. -/
def storePair (m : CM) (ea lo hi : Nat) : M Unit := do
  let whole ← if m.as = 1 then pure false else do
    match ← wayTo ea 16 .w with
    | .home _ _ => pure true
    | _ => pure false
  if whole then storeBytes m true ea (full 16) (bytesOf 8 lo ++ bytesOf 8 hi)
  else
    storeBytes m true ea (full 8) (bytesOf 8 lo)
    storeBytes m false (ea + 8) (full 8) (bytesOf 8 hi)
def execStp (d : Nat) (m : CM) (s : State) : Out :=
  ctl .any 0 [d, d + 1, m.a, m.b] [] (do
    let ea := (← get).ea m
    formed m ea 16 16
    let lo ← rg d
    let hi ← rg (d + 1)
    storePair m ea lo.toNat hi.toNat
    next) s

-- ## Cache operations (R245, R404)

/-- Address of the 128-byte line of a cache operation. -/
def State.eaLine (s : State) (m : CM) : Nat := s.ea m / 128 * 128

/-- What PREF does when nothing stops it. -/
def prefetch (m : CM) : M Unit := do
  let s ← get
  if !s.physical then
    let ea := s.ea m
    checkVa ea
    let w ← wayTo ea 1 .r
    hinted m w
    match w with
    | .l1 a va _ => let _ ← readL1 a va 1
    | _ => pure ()
def execPref (m : CM) (s : State) : Out :=
  alu [m.a, m.b] [] (fun s => match (prefetch m).run s with
    | .ok _ s' => s'
    | .error _ _ => s) s

/-- Every dirty sector of a line goes to its frame or to the hold buffer (R245). -/
def cleanOp (w : Way) : M Unit := do
  let s ← get
  match w with
  | .phys pa =>
    waitFor (!s.paBusy pa)
    set (s.syncPa pa true)
  | .dev _ => trap cPerm
  | .home a va | .l1 a va _ =>
    let k := s.keyOf a.asid va
    waitFor (s.lineQuiet k && (s.l1 a.place k).pend.isEmpty)
    needHome k
    modify fun s => s.cleanLine k
    waitFor (((← get).homeLine k).all fun h => h.dirty = 0)
def execClean (m : CM) (s : State) : Out :=
  ctl .any 0 [m.a, m.b] [] (do
    let ea := (← get).eaLine m
    formed m ((← get).ea m) 1 1
    let w ← wayTo ea 128 .r
    orderWrite m
    cleanOp w
    next) s
def execCzero (m : CM) (s : State) : Out :=
  ctl .any 0 [m.a, m.b] [] (do
    let ea := (← get).eaLine m
    formed m ((← get).ea m) 1 1
    let w ← wayTo ea 128 .w
    match w with
    | .dev off =>
      modify fun s => s.logMtu 8 off 3
      trap cPerm
    | _ => storeBytes m true ea (full 128) (List.replicate 128 0)
    next) s
/-- Own the line, then forget every copy of it (R245). -/
def dropOp (w : Way) : M Unit := do
  match w with
  | .phys pa =>
    let s ← get
    waitFor (!s.paBusy pa)
    match s.reverse pa with
    | some k => set ((s.revoke k none true).1.dropHome k)
    | none => pure ()
  | .dev _ => trap cPerm
  | .home a va =>
    let s ← get
    let k := s.keyOf a.asid va
    waitFor (s.lineQuiet k)
    needHome k
    let _ ← homeFill a k true true false
    modify fun s => (s.revoke k none true).1.dropHome k
  | .l1 a va _ =>
    let k := (← get).keyOf a.asid va
    l1Own a k false
    waitFor (!((← get).l1 a.place k).mark)
    modify fun s => ((s.dropHome k).setDir k (Dir.empty k)).setL1 a.place (L1Line.empty k)
def execCdrop (m : CM) (s : State) : Out :=
  ctl .any 0 [m.a, m.b] [] (do
    let ea := (← get).eaLine m
    formed m ((← get).ea m) 1 1
    let w ← wayTo ea 128 .w
    orderWrite m
    dropOp w
    next) s

-- ## Atomics (R56, R123, R246, R247)

/-- The write half of an atomic in a line that the L1 of the place owns; while skims are pending, one of package scope or
more is returned to no other agent (R112). -/
def ownedWrite (a : Acc) (k : LineKey) (off : Nat) (bs : List Byte) (oc scope seq : Nat) : M Unit :=
  modify fun s =>
    let l := s.l1 a.place k
    (s.setL1 a.place (mergeOne l ⟨byteMask off bs.length, placeBytes off bs, oc, scope, true, 0, a.prov seq (2 ^ oc) (s.place a.place).order⟩)).tookPlace a
/-- One indivisible read-modify-write of `n` bytes: `f` answers what to write, if anything. Answers the
old value. -/
def atomic (m : CM) (ea n : Nat) (f : Nat → Option Nat) : M Nat := do
  if m.as = 1 then
    orderWrite m
    let old := numOf (← ccRdSp ea n)
    match f old with
    | some v =>
      let a ← curAcc
      wrSp a ea (bytesOf n v)
      if isTile a.place then takeSeq a (← rpc)
    | none => pure ()
    return old
  let w ← wayTo ea n .rwa
  orderWrite m
  hinted m w
  match w with
  | .dev _ => trap cPerm
  | .phys pa =>
    let old := numOf (← physRead pa n)
    match f old with
    | some v => physWrite pa (bytesOf n v)
    | none => pure ()
    return old
  | .home a va =>
    let k := (← get).keyOf a.asid va
    -- one without SA on a host line takes no host ownership (R73)
    let noSa := ((← get).regionOf k).all fun r => !r.perm.sa
    waitFor ((← get).lineQuiet k)
    let _ ← homeFill a k true true noSa
    let old := numOf (← readHome a false va n)
    match f old with
    | some v => homeMergeBy noSa a k (byteMask (va % 128) n) (placeBytes (va % 128) (bytesOf n v))
    | none => pure ()
    return old
  | .l1 a va sa =>
    let k := (← get).keyOf a.asid va
    l1Own a k (!sa)
    let old := numOf (lineBytes ((← get).l1 a.place k).data (va % 128) n)
    match f old with
    | some v =>
      ownedWrite a k (va % 128) (bytesOf n v) m.oc m.scope (← nextSeq a)
      takeSeq a (← rpc)
    | none => pure ()
    return old

end Sys2Proof.Machine
end

