-- ==== Sys2Proof/Machine/Amo.lean ====
section
/-! DEFINITION. AMO and ACAS (R246, R247). -/
namespace Sys2Proof.Machine

/-- `new` of R246 for operands of `n` bytes. -/
def aopResult (aop n old op : Nat) : Nat :=
  let m := 2 ^ (8 * n)
  if aop = 0 then (old + op) % m
  else if aop = 1 then old &&& op
  else if aop = 2 then old ||| op
  else if aop = 3 then old ^^^ op
  else if aop = 4 then (if signedN (8 * n) op < signedN (8 * n) old then op else old)
  else if aop = 5 then (if signedN (8 * n) old < signedN (8 * n) op then op else old)
  else if aop = 6 then min old op
  else if aop = 7 then max old op
  else if aop = 8 then op
  else if aop = 9 then add32f old op
  else bf16.round 0 false ((bf16.dec old).add false (bf16.dec op))

/-- An atomic of package or system scope does not return its result until the skims that its grant caused have been
acknowledged (R56, R63); it was performed already. -/
def returnOld (m : CM) (ea d : Nat) (v : Word) : M (Option Word) := do
  let s ← get
  let k := s.keyOf s.here.asid ea
  if m.as ≠ 1 && 2 ≤ m.scope && isTile s.cur && (s.l1 s.cur k).mark then
    onHere fun t => { t with amoWait := some (k, d, v) }
    return none
  wg d v
  next

def execAmo (d aop : Nat) (m : CM) (s : State) : Out :=
  ctl .any 0 [d, m.a, m.b] [] (do
    let ea := (← get).eaAmo m
    let n := szBytes m.sz
    formed m ea n n
    let op := (← rg m.b).toNat % 2 ^ (8 * n)
    let old ← atomic m ea n fun old => some (aopResult aop n old op)
    returnOld m ea d (extend m.sx n old)) s
def execAcas (d : Nat) (m : CM) (s : State) : Out :=
  ctl .any 0 [d, m.a, m.b] [] (do
    let ea := (← get).eaAmo m
    let n := szBytes m.sz
    formed m ea n n
    let want := (← rg d).toNat % 2 ^ (8 * n)
    let new := (← rg m.b).toNat % 2 ^ (8 * n)
    let old ← atomic m ea n fun old => if old = want then some new else none
    returnOld m ea d (extend m.sx n old)) s

end Sys2Proof.Machine
end

