-- ==== Sys2Proof/Machine/Maps.lean ====
section
/-! DEFINITION. The map interface of the MTUs, walks, fills and write-backs, and the end of held writes
(R12 to R29, R40 to R47, R87, R393). -/
namespace Sys2Proof.Machine

/-- An event of the table: the state it leaves. -/
def event (f : State → State) (s : State) : Out := .next (f s)

-- ## Rings in physical memory (R17, R45, R106, R107, R177)

/-- The head request of a command ring of `len`-byte entries, whose registers stand at `g`: its PA and bits. -/
def State.cmdHead (s : State) (g len : Nat) : Option (Nat × Nat) :=
  let n := s.regBits (g + 8) 4 0
  let cons := s.regBits (g + 0x18) 31 0
  if n < 4 || 16 < n || s.regBits (g + 0x10) 31 0 = cons then none
  else
    let pa := s.regBits g 51 6 * 64 + len * (cons % 2 ^ n)
    if !s.populated pa || !s.paReady pa true then none else some (pa, numOf (s.readPa pa len).2)
/-- A unit that waits for the host to give up its copy of the head request asks it (R75); a ring in no populated range
answers with an error, and its MTU logs the address (R16). -/
def State.cmdAsk (s : State) (g len : Nat) : State :=
  let pa := s.regBits g 51 6 * 64 + len * (s.regBits (g + 0x18) 31 0 % 2 ^ s.regBits (g + 8) 4 0)
  if s.regBits (g + 8) 4 0 < 4 || 16 < s.regBits (g + 8) 4 0 || s.regBits (g + 0x10) 31 0 = s.regBits (g + 0x18) 31 0 then s
  else if s.populated pa then s.paRequest pa true else s.logMtu (mtuOf pa) pa 3
/-- How many requests of a command ring wait, and the bits of the `i`-th of them. -/
def State.cmdCount (s : State) (g : Nat) : Nat :=
  if s.regBits (g + 8) 4 0 < 4 || 16 < s.regBits (g + 8) 4 0 then 0
  else min (2 ^ s.regBits (g + 8) 4 0) ((s.regBits (g + 0x10) 31 0 + 2 ^ 32 - s.regBits (g + 0x18) 31 0) % 2 ^ 32)
def State.cmdAt (s : State) (g len i : Nat) : Nat :=
  let pa := s.regBits g 51 6 * 64 + len * ((s.regBits (g + 0x18) 31 0 + i) % 2 ^ s.regBits (g + 8) 4 0)
  if !s.populated pa || !s.paReady pa false then 0 else numOf (s.readPa pa len).2
/-- Complete it: STATUS is its low byte, written last. -/
def State.cmdDone (s : State) (g pa status : Nat) : State :=
  (s.putPa pa (bytesOf 1 status)).setReg (g + 0x18) (BitVec.ofNat 64 ((s.regBits (g + 0x18) 31 0 + 1) % 2 ^ 32))
/-- Put a record at a ring's next slot; none while it must wait. One in no populated range is lost, and its MTU logs the
address (R16, log 4). -/
def State.putEvent (s : State) (base log prod cons lo len w : Nat) : Option State :=
  match s.recordAt base log prod cons lo len with
  | none => none
  | some pa =>
    let p := s.regN prod
    if !s.paReady pa true then none
    else
      let s := if s.populated pa then s.putPa pa (bytesOf len (setBits w 0 0 (phaseBit p (s.regBits log 4 0)))) else s.logMtu (mtuOf pa) pa 3
      some (s.setReg prod (BitVec.ofNat 64 ((p + 1) % 2 ^ 32)))
/-- A record that waits for the host to give up its copy of the slot's line asks it (R75). -/
def State.recordAsk (s : State) (base log prod cons lo len : Nat) : State :=
  match s.recordAt base log prod cons lo len with
  | some pa => s.paRequest pa true
  | none => s

/-- Put an event at the next slot of a ring group, and raise its vector, if the physical function has one of that number
(R391, R394). -/
def State.ringEvent (s : State) (g w : Nat) : Option State :=
  (s.putEvent g (g + 8) (g + 0x10) (g + 0x18) 4 32 w).map fun s =>
    let v := s.regBits (g + 0x20) 31 0
    if v < 2048 then { s with msix := fset 0 s.msix v (fget 0 s.msix v + 1) } else s
def State.ringAsk (s : State) (g : Nat) : State := s.recordAsk g (g + 8) (g + 0x10) (g + 0x18) 4 32

-- ## Held writes (R43, R47)

/-- R45: the oldest waiting record of a function goes to its fault ring; one that cannot be written yet waits. -/
def State.writeDfr (s : State) (vf : Nat) : State :=
  match s.dfrs.find? fun d => d.vf == vf with
  | none => s
  | some d =>
    match s.putEvent (fnReg vf 0x1000) (fnReg vf 0x1008) (fnReg vf 0x1010) (fnReg vf 0x1018) 6 64 d.word with
    | none => s.recordAsk (fnReg vf 0x1000) (fnReg vf 0x1008) (fnReg vf 0x1010) (fnReg vf 0x1018) 6 64
    | some s =>
      { s with dfrs := s.dfrs.erase d }.trace d.die 0x09 0 (bits d.word 287 256)
        (bits d.word 207 200 + 256 * bits d.word 185 184) (bits d.word 255 240) (bits d.word 223 215) vf
/-- Every waiting record of a function, as far as its ring allows. -/
def State.writeDfrs (s : State) (vf : Nat) : State := (s.dfrs.filter fun d => d.vf == vf).foldl (fun s _ => s.writeDfr vf) s
/-- A context that exists takes DEFERRED with a fault identifier. -/
def State.deferred (s : State) (ctx fid : Nat) : State :=
  if ctx < 65536 && s.ctxState ctx ≠ 0 then s.postCtx ctx ⟨cDeferred, fid, none⟩ else s
/-- Held writes of the lines that a test names are discarded: DISCARDED records, and DEFERRED for their contexts. -/
def State.discardLines (s : State) (p : LineKey → Bool) : State :=
  let gone := s.held.filter fun h => p h.key
  let s := { s with held := s.held.filter fun h => !p h.key }
  gone.foldl (fun s h =>
    (((h.prov.map fun e => e.2.ctx).eraseDups).foldl (fun s c => s.deferred c h.fid) (s.dfr h 2)).roomAgain h.vf) s
/-- Perform one held write at its frame, and write its record (R47). -/
def State.performHeld (s : State) (h : Held) (pa : Nat) : State :=
  let s := s.toFrame h.key pa h.mask h.data
  let s := { s with held := s.held.erase h }
  let s := if h.poisoned then s.poison h.key.asid h.key.va false else s
  ((s.dfr h 1).writeDfrs h.vf).roomAgain h.vf
/-- An address space in which a line's page can be walked: its own, or one that maps the global page. -/
def State.asidFor (s : State) (k : LineKey) : Nat :=
  match k.asid with
  | some a => a
  | none => ((range 0 65536).find? fun a => match s.walkPage a k.va with
    | .leaf e _ => bit e 56
    | _ => false).getD 0
/-- The held writes of a resident, writable granule are performed in hold order (R47). -/
def State.performGranule (s : State) (k : LineKey) : State :=
  let asid := s.asidFor k
  match s.walkPage asid k.va with
  | .leaf e l =>
    if s.pstAt k e l = 0 && bit e 53 && s.populated (paOf e l k.va) && !s.targetFails (paOf e l k.va) then
      (s.held.filter fun h => h.key.asid == k.asid && h.key.line / 64 == k.line / 64).foldl (fun s h =>
        s.performHeld h (paOf e l h.key.va)) s
    else s
  | _ => s
def execPerformHeldWrites (k : LineKey) (s : State) : Out := event (fun s => s.performGranule k) s
def execDeferredFaultRecord (vf : Nat) (s : State) : Out := event (fun s => s.writeDfr vf) s

-- ## Map requests (R17 to R23)

/-- Registers of the map ring of an MTU. -/
def mapGroup (mtu : Nat) : Nat := if mtu < 8 then dieReg (mtu / 2) (0x2000 + 0x40 * (mtu % 2)) else iodReg (mtu - 8) 0x2000
/-- A request as its 256 bits. -/
structure MapReq where
  w : Nat
def MapReq.pte (r : MapReq) : Nat := bits r.w 255 192
def MapReq.va (r : MapReq) : Nat := bits r.w 191 136
def MapReq.asid (r : MapReq) : Nat := bits r.w 127 112
def MapReq.size (r : MapReq) : Nat := bits r.w 111 110
def MapReq.op (r : MapReq) : Nat := bits r.w 109 108
def MapReq.newtab (r : MapReq) : Nat := bits r.w 51 13 * 8192
/-- MAP and PROTECT give a PTE. -/
def MapReq.gives (r : MapReq) : Bool := r.op = 0 || r.op = 3
def MapReq.frame (r : MapReq) : Nat := pteFrame r.pte
def MapReq.absent (r : MapReq) : Bool := ptePst r.pte = 2
def MapReq.pages (r : MapReq) : Nat := 2 ^ (10 * r.size)
/-- The page's regions, by the VA of each. -/
def MapReq.regions (r : MapReq) : List Nat :=
  (range (r.va / 2 ^ 21) (max 1 (r.pages / 256))).map fun n => max r.va (n * 2 ^ 21)
/-- The granules of the page. -/
def MapReq.granules (r : MapReq) : List Nat := (range 0 r.pages).map fun i => r.va + 8192 * i
/-- Permissions as (R, W, X, A, SA). -/
def ptePerms (e : Nat) : List Bool := [bit e 52, bit e 53, bit e 54, bit e 55, bit e 57]
def Perm.list (p : Perm) : List Bool := [p.r, p.w, p.x, p.a, p.sa]

/-- The entry on the path to a VA at level `stop`, or above it where the path ends: level, PA of the entry, entry. -/
def State.pathTo (s : State) (va stop : Nat) : Nat → Nat → Nat × Nat × Nat
  | 0, t => (0, t, 0)
  | n + 1, t =>
    let a := t + 8 * vaIndex va n
    let e := s.memNum a 8
    if n ≤ stop || !bit e 0 || bit e 1 then (n, a, e) else s.pathTo va stop n (pteFrame e)
def State.path (s : State) (asid va stop : Nat) : Nat × Nat × Nat := s.pathTo va stop 5 (s.root asid)

/-- R393: a register frame needs a resident 8 KiB page without X, A and SA, and a virtual function's address space
takes only frames of its own page. -/
def State.badDev (s : State) (r : MapReq) : Bool :=
  inDev r.frame &&
    (ptePst r.pte ≠ 0 || r.size ≠ 0 || bit r.pte 54 || bit r.pte 55 || bit r.pte 57 ||
      (let vf := bits (s.asd r.asid) 70 64
       vf ≠ 0 && (r.frame - 0xF000000000000) / 0x10000 ≠ fnReg vf 0 / 0x10000))
/-- BADREQ of R18. -/
def State.badReq (s : State) (r : MapReq) : Bool :=
  r.size = 3 || r.va % 2 ^ leafBits r.size ≠ 0 || bits r.w 135 128 ≠ 0 || bits r.w 107 52 ≠ 0 || bits r.w 12 8 ≠ 0 ||
    (!(r.gives && bit r.pte 56) && !bit (s.asd r.asid) 0) ||
    (r.gives && (bits r.pte 63 60 ≠ 0 || bits r.pte 12 2 ≠ 0 || bits r.pte 1 0 ≠ 3 || s.malformed r.pte r.size || s.badDev r))
/-- The function's channel groups hold the frame (R401); frames outside HBM belong to no group. -/
def State.channelOk (s : State) (vf pa : Nat) : Bool :=
  !inHbm pa || bit (bits (s.limits vf) 511 384) (16 * stackOf pa + pa % 0xC00000000 / 0xC0000000)
/-- SYNONYM of R19 for some frame of the page. -/
def State.synonym (s : State) (r : MapReq) : Bool :=
  !inDev r.frame && (range 0 r.pages).any fun i =>
    match fget? (s.mtu (mtuOf r.frame)).rmap (r.frame / 8192 + i) with
    | some (va, g, _) => !(va = r.va / 8192 + i && g && bit r.pte 56)
    | none => false
/-- The function's channel groups hold every frame of a page; a group begins at a multiple of 8 MiB. -/
def State.channelsOk (s : State) (vf : Nat) (r : MapReq) : Bool :=
  (range 0 ((r.pages + 1023) / 1024)).all fun i => s.channelOk vf (r.frame + 2 ^ 23 * i)
/-- MISPLACED of R18 and R401, where a region has an entry. -/
def State.misplaced (s : State) (r : MapReq) (vf : Nat) (tag : Option Nat) : Bool :=
  !inDev r.frame && (!s.channelsOk vf r ||
    r.regions.any fun v => match fget? s.regions (regionCode tag v) with
      | some g => g.mtu ≠ mtuOf r.frame
      | none => false)

/-- R23's new entry, with the RCT entry of R66 beside it. -/
def State.newRegion (s : State) (r : MapReq) (va vf : Nat) (tag : Option Nat) : Region :=
  let f := r.frame
  let (home, path, placed) :=
    if r.absent then (bits va 22 21, bits va 13 13, false)
    else if inDev f then (bits va 22 21, 2, true)
    else if inHbm f then (mtuOf f / 2, mtuOf f % 2, true)
    else (2 * (mtuOf f - 8) + bits va 21 21, 2, true)
  let cfg := s.regN (dieReg home 0x1000)
  { asid := tag, no := va / 2 ^ 21, home := home, path := path, placed := placed
    perm := ⟨bit r.pte 52, bit r.pte 53, bit r.pte 54, bit r.pte 55, bit r.pte 57, bit r.pte 56, !r.absent && inDev f, vf⟩
    count := 0, degree := if bit r.pte 56 then bits cfg 5 4 else bits cfg 3 2, pin := false
    share := 0, skimp := 0, rhits := 0, skims := 0, dchg := 0, sevict := 0 }
/-- Add or remove the page's reverse-map entries. -/
def State.rmapAdd (s : State) (r : MapReq) : State :=
  if r.absent || inDev r.frame then s
  else s.modMtu (mtuOf r.frame) fun m => { m with
    rmap := (range 0 r.pages).foldl (fun t i => fput (r.frame / 8192 + i) (r.va / 8192 + i, bit r.pte 56, r.asid) t) m.rmap }
def State.rmapDel (s : State) (frame pages : Nat) : State :=
  if inDev frame then s
  else s.modMtu (mtuOf frame) fun m => { m with rmap := fclear m.rmap fun k => frame / 8192 ≤ k && k < frame / 8192 + pages }
/-- A new PGD entry (R87). -/
def newPgd (tag : Option Nat) (va frame st : Nat) (large : Bool) : Pgd :=
  ⟨tag, va / 8192, frame / 8192, 0, tierOf frame, 0, st, false, false, false, false, [], none, large⟩
/-- An address space maps a global page of a region (R20). -/
def State.mapsGlobal (s : State) (asid v : Nat) : Bool :=
  (fget? s.regions (regionCode none v)).isSome && (range 0 256).any fun i =>
    match s.walkPage asid (v / 2 ^ 21 * 2 ^ 21 + 8192 * i) with
    | .leaf e _ => bit e 56
    | _ => false
/-- MAP (R18 to R23). -/
def State.mapPage (s : State) (r : MapReq) : State × Nat :=
  let (lvl, ea, e) := s.path r.asid r.va r.size
  let vf := bits (s.asd r.asid) 70 64
  let g := bit r.pte 56
  let tag := if g then none else some r.asid
  let missing := lvl - r.size
  let mix := r.regions.any fun v =>
    (if g then (fget? s.regions (regionCode (some r.asid) v)).isSome else s.mapsGlobal r.asid v) ||
      match fget? s.regions (regionCode tag v) with
      | some x => x.perm.list ≠ ptePerms r.pte || (!r.absent && x.perm.dev ≠ inDev r.frame)
      | none => false
  if bit e 0 then (s, 6)
  else if missing > 1 || (missing = 1 && r.newtab = 0) then (s, 4)
  else if mix then (s, 3)
  else if !r.absent && s.misplaced r vf tag then (s.logMtu (mtuOf r.frame) r.frame 5, 8)
  else if !r.absent && s.synonym r then (s.logMtu (mtuOf r.frame) r.frame 2, 2)
  else
    let s := if missing = 1 then
        (s.memWrite ea (bytesOf 8 (r.newtab + 1))).memWrite (r.newtab + 8 * vaIndex r.va r.size) (bytesOf 8 r.pte)
      else s.memWrite ea (bytesOf 8 r.pte)
    let s := r.regions.foldl (fun s v =>
      let x := (fget? s.regions (regionCode tag v)).getD (s.newRegion r v vf tag)
      { s with regions := fput (regionCode tag v) { x with count := x.count + 1 } s.regions }) s
    let s := s.rmapAdd r
    let s := if inDev r.frame && !r.absent then s
      else r.granules.foldl (fun s v =>
        if (s.gran tag v).isSome then s
        else { s with pgd := fput (granCode tag v) (newPgd tag v (r.frame + (v - r.va)) (ptePst r.pte) (r.size ≠ 0)) s.pgd }) s
    (s, 1)
/-- Some other address space still maps a global page. -/
def State.stillMapped (s : State) (g : Bool) (asid va : Nat) : Bool :=
  g && (range 0 65536).any fun a => a != asid && match s.walkPage a va with
    | .leaf e _ => bit e 56
    | _ => false
/-- A granule of the page is in a switch window, which an UNMAP or DESTROY waits for (R93). -/
def State.inWindow (s : State) (tag : Option Nat) (r : MapReq) : Bool :=
  s.rses.any fun e => match e.2.window with
    | some w => r.granules.any fun v => granCode tag v = w.gran
    | none => false
/-- UNMAP, and DESTROY when `destroy`; none while it waits. -/
def State.unmapPage (s : State) (r : MapReq) (destroy : Bool) : Option (State × Nat) :=
  let (lvl, ea, e) := s.path r.asid r.va r.size
  if !(bits e 1 0 = 3 && lvl = r.size) then some (s, 7)
  else
    let g := bit e 56
    let tag := if g then none else some r.asid
    if s.inWindow tag r then none
    else
      let s := s.memWrite ea (bytesOf 8 0)
      let last := !s.stillMapped g r.asid r.va
      let s := r.regions.foldl (fun s v => match fget? s.regions (regionCode tag v) with
        | some x => { s with regions := if x.count ≤ 1 then fdel (regionCode tag v) s.regions
                        else fput (regionCode tag v) { x with count := x.count - 1 } s.regions }
        | none => s) s
      let low := r.granules.filterMap fun v => (fget? s.pgd (granCode tag v)).bind fun p => if p.lv then some (p.lframe * 8192) else none
      let s := if last then
          let s := if ptePst e = 2 then s else s.rmapDel (pteFrame e) r.pages
          let s := r.granules.foldl (fun s v => { s with
            pgd := fdel (granCode tag v) s.pgd
            rses := s.rses.map fun (x : Nat × Rse) => (x.1, { x.2 with queue := x.2.queue.filter fun m => m.gran ≠ granCode tag v }) }) s
          if ptePst e = 2 || inDev (pteFrame e) then s
          else { s with zeroing := s.zeroing ++ low ++ (range 0 r.pages).map fun i => pteFrame e + 8192 * i }
        else s
      let s := if destroy then s.discardLines fun k => k.asid == tag && r.va / 128 ≤ k.line && k.line < r.va / 128 + 64 * r.pages else s
      some (s, 1)
/-- The new permissions in every valid leaf of a region (R20). -/
def State.reperm (s : State) (tag : Option Nat) (va pte : Nat) : State :=
  let m := 2 ^ 52 + 2 ^ 53 + 2 ^ 54 + 2 ^ 55 + 2 ^ 57
  let asids := match tag with
    | some a => [a]
    | none => (range 0 65536).filter fun a => bit (s.asd a) 0
  let s := asids.foldl (fun s a => (range 0 256).foldl (fun s i =>
    let (_, ea, e) := s.path a (va / 2 ^ 21 * 2 ^ 21 + 8192 * i) 0
    if bits e 1 0 = 3 && bit e 56 == tag.isNone then s.memWrite ea (bytesOf 8 ((e &&& (2 ^ 64 - 1 - m)) ||| (pte &&& m))) else s) s) s
  s.modRegion tag va fun r => { r with perm := { r.perm with r := bit pte 52, w := bit pte 53, x := bit pte 54, a := bit pte 55, sa := bit pte 57 } }
/-- PROTECT (R20): permissions of the regions, state and frame of the page. -/
def State.protectPage (s : State) (r : MapReq) : State × Nat :=
  let (lvl, ea, e) := s.path r.asid r.va r.size
  if !(bits e 1 0 = 3 && lvl = r.size) then (s, 7)
  else
    let g := bit e 56
    let tag := if g then none else some r.asid
    let vf := bits (s.asd r.asid) 70 64
    let dev := (fget? s.regions (regionCode tag r.va)).map (·.perm.dev) |>.getD false
    let moved := !r.absent && (r.frame ≠ pteFrame e || ptePst e = 2)
    if bit r.pte 56 ≠ g || (!r.absent && dev ≠ inDev r.frame) then (s, 3)
    else if moved && s.misplaced r vf tag then (s.logMtu (mtuOf r.frame) r.frame 5, 8)
    else if moved && s.synonym r then (s.logMtu (mtuOf r.frame) r.frame 2, 2)
    else
      let s := r.regions.foldl (fun s v => match fget? s.regions (regionCode tag v) with
        | some x => if x.perm.list = ptePerms r.pte then s else s.reperm tag v r.pte
        | none => s) s
      let s := s.memWrite ea (bytesOf 8 r.pte)
      let s := if ptePst e = 2 || !(moved || r.absent) then s else s.rmapDel (pteFrame e) r.pages
      let s := s.rmapAdd r
      let s := r.granules.foldl (fun s v => s.modGran tag v fun p =>
        let f := (r.frame + (v - r.va)) / 8192
        { p with frame := if r.absent then p.frame else f, tier := if r.absent then p.tier else if p.pin && p.tier = 0 then 0 else tierOf r.frame
                 st := ptePst r.pte, lv := p.lv && f = p.frame }) s
      (s, 1)
/-- A frame that the request names is being zeroed, which it waits for (R409). -/
def State.frameBusy (s : State) (r : MapReq) : Bool :=
  !r.absent && s.zeroing.any fun f => r.frame ≤ f && f < r.frame + 8192 * r.pages
/-- The request at the head of an MTU's ring, if it is of kind `op`. -/
def State.mapEvent (s : State) (mtu op : Nat) : State :=
  let g := mapGroup mtu
  match s.cmdHead g 32 with
  | none => s
  | some (pa, w) =>
    let r : MapReq := ⟨w⟩
    if r.op ≠ op then s
    else if s.badReq r then s.cmdDone g pa 5
    else if (op = 0 || op = 3) && s.frameBusy r then s
    else match (if op = 0 then some (s.mapPage r) else if op = 3 then some (s.protectPage r) else s.unmapPage r (op == 2)) with
      | some (s, st) => s.cmdDone g pa st
      | none => s
def execUnmap (mtu : Nat) (s : State) : Out := event (fun s => s.mapEvent mtu 1) s
def execDestroy (mtu : Nat) (s : State) : Out := event (fun s => s.mapEvent mtu 2) s

-- ## Fills, walks, write-backs (R25, R29, R40, R43)

def execPmcFill (tile va : Nat) (s : State) : Out :=
  event (fun s => match (pmcLookup tile (s.place tile).asid (va % 2 ^ 56)).run s with
    | .ok _ s' => s'
    | .error _ _ => s) s
def execWalk (mtu asid va : Nat) (s : State) : Out := event (fun s => (s.translate mtu asid (va % 2 ^ 56)).1) s
/-- The home partition's fill of a line: served only when no held write of it remains and its page is resident. -/
def State.serveFill (s : State) (k : LineKey) : State :=
  if (s.heldOf k).isSome || ((s.homeLine k).any fun h => h.valid = 15) || (s.regionOf k).isNone || s.gated.contains (s.homeDie k) then s
  else match s.verdict (s.asidFor k) k with
    | (s, .ok pa _) => if (s.hostAsk k pa false false).isSome then s else match s.homeRoom k with
      | some s => (s.fillHome k pa).1
      | none => s
    | (s, _) => s
/-- A fill that waits for the host asks it (R72, R75). -/
def State.fillAsk (s : State) (k : LineKey) : State :=
  if (s.homeLine k).any fun h => h.valid = 15 then s
  else match (s.verdict (s.asidFor k) k).2 with
    | .ok pa _ => match s.hostAsk k pa false false with
      | some n => s.sendOnce (.toHost k n)
      | none => s
    | _ => s
def execMtuFill (k : LineKey) (s : State) : Out := event (fun s => s.serveFill k) s
def execMtuWriteBack (k : LineKey) (s : State) : Out := event (fun s => s.writeBack k) s

end Sys2Proof.Machine
end

