-- ==== Sys2Proof/Machine/Pick.lean ====
section
/-! DEFINITION. Which step the CXS of a die picks (R168, R170, R171, R260). -/
namespace Sys2Proof.Machine

/-- The key of a step: deadline, then die, queue and index (R168), or handle for a template's (R169). -/
def Step.key (st : Step) : Nat := st.deadline * 2 ^ 48 + st.die * 2 ^ 40 + st.queue * 2 ^ 32 + st.packet.index
/-- A context that a pending step may start with: the queue's function and address space, Ready (R168). -/
def State.admissible (s : State) (st : Step) (c : Nat) : Bool :=
  s.ctxState c = 1 && s.ctxVf c = st.vf && s.ctxAsid c = st.asid && s.soundCtx c
def State.eligible (s : State) (st : Step) : Bool :=
  if st.batched then st.members.any (s.admissible st)
  else st.members.all fun c => s.ctxState c = 1 && s.soundCtx c
/-- A started step has a position that awaits a tile of a die, and its contexts are not parked. -/
def State.awaits (s : State) (st : Step) (d : Nat) : Bool :=
  (st.positions.any fun p => st.awaitsTile p && p.die = d) &&
    st.current.all fun c => (s.ctxState c = 1 || s.ctxState c = 2) && s.soundCtx c
/-- A pending step needs a die now: it holds its gang on every lower die of its mask (R172). -/
def State.needs (s : State) (st : Step) (d : Nat) : Bool :=
  !st.started && st.failed.isNone && st.mask.contains d && s.eligible st && st.holds d < st.gang &&
    st.mask.all fun e => d ≤ e || st.gang ≤ st.holds e

/-- Values of R171 on a die. -/
def State.span (s : State) (d : Nat) : Nat := 128 * max (s.tick - (s.cxsOf d).winStart) 1
def State.belowShare (s : State) (d k : Nat) : Bool := 32 * fget 0 (s.cxsOf d).used k < s.span d
def State.inBudget (s : State) (d k : Nat) : Bool :=
  256 * fget 0 (s.cxsOf d).used k ≤ max (s.regBits (dieReg d (0x1040 + 8 * k)) 31 24) 8 * s.span d
/-- The class that R171 chooses among those present. -/
def State.chosenClass (s : State) (d : Nat) (present : List Nat) : Option Nat :=
  match least (present.filter (s.belowShare d)) with
  | some k => some k
  | none => match least (present.filter (s.inBudget d)) with
    | some k => some k
    | none => least present
/-- The step with the least key. -/
def leastKey : List Step → Option Step
  | [] => none
  | a :: r => match leastKey r with
    | none => some a
    | some b => if b.key < a.key then some b else some a
/-- R171 on candidate steps of a die. -/
def State.pickAmong (s : State) (d : Nat) (l : List Step) : Option Step :=
  match s.chosenClass d (l.map (·.cls)) with
  | none => none
  | some k => leastKey (l.filter fun st => st.cls = k)
/-- A step that the CXS of a die may serve now. -/
def State.servable (s : State) (st : Step) (d : Nat) : Bool :=
  !s.hostHeld d st.vf && s.inTurn st.vf d && s.allowance st.vf d ≠ 0 && ((s.needs st d && s.fnEnabled st.vf) || s.awaits st d)
/-- R171: the step that the CXS of a die picks. -/
def State.pickStep (s : State) (d : Nat) : Option Step := s.pickAmong d (s.steps.filter fun st => s.servable st d)
/-- A function may have the tile that another one's context leaves (R401). -/
def State.mayHave (s : State) (t vf : Nat) : Bool :=
  let f := (s.place t).vf
  s.inTurn vf (dieOf t) && (f = vf || (s.timeSliced f && s.timeSliced vf) || s.allowance vf (dieOf t) ≠ 0)
/-- The context that the CXS picks for one tile, other than `not` (R260). -/
def State.pickContext (s : State) (t : Nat) (not : Option Nat) : Option Nat :=
  let d := dieOf t
  let ok (st : Step) : Bool := !s.hostHeld d st.vf && s.mayHave t st.vf && !st.members.any fun c => some c == not
  let l := s.steps.filter fun st => ok st &&
    ((st.members.any (fun c => st.single t c) && s.eligible st && s.fnEnabled st.vf) || s.awaits st d)
  (s.pickAmong d l).bind fun st => st.current.head?

end Sys2Proof.Machine
end

