-- ==== Sys2Proof/Machine/Flags.lean ====
section
/-! DEFINITION. Conditions: the GNX-B4 has no flags register; comparisons yield register values and
branch conditions (R188, R232). -/
namespace Sys2Proof.Machine

/-- A comparison's result as a register value. -/
def boolWord (b : Bool) : Word := if b then 1 else 0

/-- B's condition COND on two register values (R188); reserved values never decode. -/
def condHolds (cond : Nat) (a b : Word) : Bool :=
  if cond = 0 then a == b
  else if cond = 1 then a != b
  else if cond = 2 then a.slt b
  else if cond = 3 then !a.slt b
  else if cond = 4 then a.ult b
  else if cond = 5 then !a.ult b
  else false

end Sys2Proof.Machine
end

