-- ==== Sys2Proof/Machine/Sync.lean ====
section
/-! DEFINITION. Fences, semaphores, rings, transaction barriers, gang barriers, phases and queue
queries (R119, R128, R157, R158, R192, R248 to R255). -/
namespace Sys2Proof.Machine

/-- MASK and scope of a FENCE; bit 15 of the mask is always set (R116, R255). -/
def execFence (mask scope : Nat) (s : State) : Out :=
  ctl .any 0 [] [] (do
    fenceOf (mask ||| 2 ^ 15) scope
    next) s

-- ## Semaphores (R248, R249)

def execSemwait (a : Nat) (c : Cnt) (s : State) : Out :=
  ctl .tile 0 (cntRegs a c) [] (do
    let s ← get
    let n := s.cnt a c
    waitFor (n ≤ s.here.getSem c.idx)
    onHere fun t => (t.setSem c.idx (t.getSem c.idx - n)).acquireFrom ccAgent c.idx
    next) s
def execSemsig (a : Nat) (c : Cnt) (s : State) : Out :=
  ctl .tile 0 (cntRegs a c) [] (do
    release allClasses 0
    let s ← get
    let n := s.here.getSem c.idx + s.cnt a c
    if n > 65535 then throw (.trap cSemovf c.idx)
    onHere fun t => (t.setSem c.idx n).releaseTo ccAgent c.idx
    next) s
def execSemset (a : Nat) (c : Cnt) (s : State) : Out :=
  ctl .tile 0 (cntRegs a c) [] (do
    release allClasses 0
    let n := (← get).cnt a c
    onHere fun t => (t.setSem c.idx n).releaseTo ccAgent c.idx
    next) s
def execSemrd (d idx : Nat) (s : State) : Out :=
  ctl .tile 0 [d] [] (do
    wg d (BitVec.ofNat 64 ((← here).getSem idx))
    next) s

/-- Package, tile and offset of a peer address (R34). -/
def peerPkg (w : Nat) : Nat := bits w 39 30
def peerTile (w : Nat) : Nat := bits w 29 21
def peerOff (w : Nat) : Nat := bits w 20 0
/-- Whether a peer address names a package that a transfer of a tile can reach (R37, R397). -/
def State.reaches (s : State) (tile pkg : Nat) : Bool :=
  pkg = s.pkgNum || (let k := s.regBits (iodReg (dieOf tile / 2) (0x4000 + 8 * pkg)) 17 16; (k = 1 || k = 2) && Config.podHas pkg)
/-- Put a message of this tile on its way; one to another package leaves the model (log 20). -/
def State.sendPeer (s : State) (pkg : Nat) (m : PeerMsg) : State :=
  if pkg = s.pkgNum then { s with peers := s.peers ++ [m] } else s
/-- DETAIL of a refused or overflowing SEMRSIG (R249, R363). -/
def rsigDetail (tile sem : Nat) : Nat := 256 * tile + sem
def execSemrsig (a b : Nat) (c : Cnt) (scp : Nat) (s : State) : Out :=
  ctl .tile 0 (a :: (if c.rg = 1 then [b] else [])) [] (do
    let p := (← rg a).toNat
    need cSpbound (p < 2 ^ 40)
    let s ← get
    let n := s.cnt b c
    release allClasses (if peerPkg p = s.pkgNum then scp else 3)
    let t := s.here
    if s.reaches s.cur (peerPkg p) then
      set (s.sendPeer (peerPkg p) ⟨s.pkgNum, s.cur, t.vf, t.ctx, .sig c.idx n, peerTile p, 0, 0, [], 0, none, none⟩)
    else set (s.post s.cur ⟨cGrant, rsigDetail (peerTile p) c.idx, none⟩)
    next) s

-- ## Rings (R250, R251)

/-- The ring number as DETAIL of RINGCFG. -/
def needRing (q : Nat) (b : Bool) : M Unit := if b then pure () else throw (.trap cRingcfg q)
def execRcfg (a b idx : Nat) (s : State) : Out :=
  ctl .tile 0 [a, b] [] (do
    let lo := (← rg a).toNat
    let hi := (← rg b).toNat
    let r := { ringOfBits (hi % 65536 * 2 ^ 64 + lo) with head := 0, tail := 0, claimed := 0 }
    needRing idx (idx ≥ 8 && bits lo 63 21 = 0 && hi < 65536 && r.base % 16 = 0 && (!r.v || r.fits))
    modify fun s => (s.losePushes s.cur (· == idx)).setRing s.cur idx r
    next) s
/-- The ring of a producer or consumer instruction, after its checks. -/
def userRing (q n : Nat) : M Ring := do
  let s ← get
  let r := s.ring s.cur q
  needRing q (r.v && q ≥ 8 && n ≤ r.size)
  return r
def setUserRing (q : Nat) (r : Ring) : M Unit := modify fun s => s.setRing s.cur q r
def execRclm (d a : Nat) (c : Cnt) (s : State) : Out :=
  ctl .tile 0 (d :: cntRegs a c) [] (do
    let n := (← get).cnt a c
    let r ← userRing c.idx n
    waitFor (r.filled + r.claimed + n ≤ r.size)
    wg d (BitVec.ofNat 64 ((r.tail + r.claimed) % 65536))
    setUserRing c.idx { r with claimed := r.claimed + n }
    next) s
/-- Publish the slots of pushes that stand next, in the order of reservation (R344). -/
def Ring.passPushes (slots : List Nat) : Nat → Ring → Ring
  | 0, r => r
  | k + 1, r => if slots.contains r.tail then Ring.passPushes slots k { r with tail := (r.tail + 1) % 65536, claimed := r.claimed - 1 } else r
/-- Publish `n` slots that the CC claimed, and those of pushes among them and right behind them. -/
def Ring.publish (slots : List Nat) : Nat → Ring → Ring
  | 0, r => r
  | n + 1, r => Ring.publish slots n (Ring.passPushes slots slots.length { r with tail := (r.tail + 1) % 65536, claimed := r.claimed - 1 })
/-- RPUB publishes what RCLM claimed: a slot that a push reserved is none of it (log 27). -/
def execRpub (a : Nat) (c : Cnt) (s : State) : Out :=
  ctl .tile 0 (cntRegs a c) [] (do
    let n := (← get).cnt a c
    let r ← userRing c.idx n
    let slots := (← get).pushSlots (← get).cur c.idx
    needRing c.idx (n + slots.length ≤ r.claimed)
    release allClasses r.scope
    setUserRing c.idx (if slots.isEmpty then { r with tail := (r.tail + n) % 65536, claimed := r.claimed - n } else Ring.publish slots n r)
    next) s
def execRwait (d a : Nat) (c : Cnt) (s : State) : Out :=
  ctl .tile 0 (d :: cntRegs a c) [] (do
    let n := (← get).cnt a c
    let r ← userRing c.idx n
    waitFor (n ≤ r.filled)
    wg d (BitVec.ofNat 64 r.head)
    next) s
def execRrel (a : Nat) (c : Cnt) (s : State) : Out :=
  ctl .tile 0 (cntRegs a c) [] (do
    let n := (← get).cnt a c
    let r ← userRing c.idx n
    needRing c.idx (n ≤ r.filled)
    release allClasses r.scope
    setUserRing c.idx { r with head := (r.head + n) % 65536 }
    next) s
def execRstat (d idx opt : Nat) (s : State) : Out :=
  ctl .tile 0 [d] [] (do
    let s ← get
    let w := if idx = 6 ∨ idx = 7 then 0 else ringBits idx (s.ring s.cur idx)
    wg d (BitVec.ofNat 64 (if opt = 0 then w / 2 ^ 64 else w))
    next) s

-- ## Transaction barriers (R128, R252)

/-- A scratchpad doubleword access of class 15, plain, at tile scope. -/
def cmTb : CM := ⟨0, 0, 15, 1, 3, 0, 0, 0, 0, 0, 0, 0⟩
def execTbset (a b : Nat) (s : State) : Out :=
  ctl .tile 0 [a, b] [] (do
    let o := (← rg a).toNat
    formed cmTb o 8 8
    storeBytes cmTb true o (full 8) (bytesOf 8 (← rg b).toNat)
    next) s
/-- The word is watched from issue on, and has read zero since; BARORPHAN when the timeout has passed first. -/
def execTbwait (a b : Nat) (s : State) : Out :=
  ctl .tile 0 [a, b] [] (do
    let o := (← rg a).toNat
    formed cmTb o 8 8
    let limit := (← rg b).toNat
    modify fun s => s.modHere fun t => if t.tb.isSome then t else
      let t := { t with tb := some (o, if limit = 0 then 0 else s.tick + limit, false) }
      if t.filledAt o && !t.spBad o 8 then t.watch else t
    orderRead 15
    let v := numOf (← ccRdSp o 8)
    let s ← get
    let (deadline, seen) := match s.here.tb with
      | some (_, d, seen) => (d, seen)
      | none => (0, false)
    if seen || v = 0 then next
    else if deadline ≠ 0 && deadline ≤ s.tick then throw (.trap cBarorphan 0xFFFFFFFF)
    else throw .stall) s

-- ## Gang barriers (R157, R253)

def orphan {α} (n : Nat) : M α := throw (.trap cBarorphan n)
/-- The barrier and the tile's gang position, which must be a member. -/
def member (n : Nat) : M (Barrier × Nat) := do
  let s ← get
  let b := s.bar (barKey s.cur n)
  match s.here.step with
  | some id => if b.step = id && b.m.contains s.here.gpos then return (b, s.here.gpos) else orphan n
  | none => orphan n
def setBarHere (n : Nat) (b : Barrier) : M Unit := modify fun s => s.setBar (barKey s.cur n) b
/-- Scope of BARA and BARW (R121). -/
def barScope (n : Nat) : Nat := if n < 64 then 1 else 2
def execBarj (idx : Nat) (s : State) : Out :=
  ctl .tile 0 [] [] (do
    let s ← get
    let b := s.bar (barKey s.cur idx)
    match s.here.step with
    | none => orphan idx
    | some id =>
      if !b.m.isEmpty && b.step ≠ id then orphan idx
      setBarHere idx { b with step := id, m := addTo b.m s.here.gpos }
      next) s
def execBara (idx : Nat) (s : State) : Out :=
  ctl .tile 0 [] [] (do
    let (b, j) ← member idx
    waitFor (!b.a.contains j)
    release allClasses (barScope idx)
    setBarHere idx { b with a := b.a ++ [j], last := fput j b.gen b.last }.settle
    next) s
def execBarw (idx : Nat) (s : State) : Out :=
  ctl .tile 0 [] [] (do
    let (b, j) ← member idx
    match fget? b.last j with
    | some g => waitFor (g < b.gen)
    | none => pure ()
    next) s
def execBarx (idx : Nat) (s : State) : Out :=
  ctl .tile 0 [] [] (do
    let (b, j) ← member idx
    setBarHere idx (b.leave j)
    next) s

-- ## Phases, queues (R158, R254)

/-- Dies of a mask in ring order from the lowest (R2, R158). -/
def ringDies (mask : List Nat) : List Nat :=
  let ring := [0, 1, 3, 2]
  match least mask with
  | none => []
  | some d => ((ring.dropWhile (· != d)) ++ (ring.takeWhile (· != d))).filter mask.contains
/-- The dies next to each other in a list. -/
def follows (l : List Nat) (a b : Nat) : Bool :=
  match l with
  | x :: y :: r => (x = a && y = b) || follows (y :: r) a b
  | _ => false
/-- Whether two tiles of a step with this die mask are neighbours. -/
def adjacent (mask : List Nat) (t u : Nat) : Bool :=
  let x := t % 16
  let y := t / 16 % 8
  let x' := u % 16
  let y' := u / 16 % 8
  if dieOf t = dieOf u then (x = x' && (y = y' + 1 || y' = y + 1)) || (y = y' && (x = x' + 1 || x' = x + 1))
  else y = y' && ((x = 15 && x' = 0 && follows (ringDies mask) (dieOf t) (dieOf u)) ||
    (x = 0 && x' = 15 && follows (ringDies mask) (dieOf u) (dieOf t)))
/-- Counted neighbours of a tile, by gang position: those that have not retired an EXIT or KILL (R158). One that has, and runs a
further iteration of the step, is counted again: the model's choice (log 95). -/
def Step.neighbours (st : Step) (t : Nat) : List Nat :=
  ((st.positions.zip (range 0 st.positions.length)).filter fun (p, _) =>
    (p.busy || p.point.isNone) && adjacent st.mask t p.seat).map (·.2)
def execPhase (k : Nat) (s : State) : Out :=
  ctl .tile 0 [] [] (do
    let s ← get
    let t := s.here
    let own := fget 0 t.phase k
    let nbs := match s.stepAt s.cur with
      | some st => st.neighbours s.cur
      | none => []
    waitFor (nbs.all fun j => signedN 32 (own + 2 ^ 32 - fget 0 t.nbPhase (4 * j + k)) ≤ (t.lead : Int))
    onHere fun t => { t with phase := fset 0 t.phase k ((own + 1) % 2 ^ 32) }
    next) s

/-- The three values of QSEQ (R254). -/
def State.queueSeq (s : State) (t q opt : Nat) : Nat :=
  let e := s.engq t q
  if opt = 0 then e.next
  else if opt = 1 then s.cut t q % 2 ^ 32
  else match (if q = 0 then (s.place t).landing.head?.map (·.seq) else none), e.cur with
    | some n, _ => n
    | none, some c => c.seq
    | none, none => s.cut t q % 2 ^ 32
def execQseq (d idx opt : Nat) (s : State) : Out :=
  ctl .tile 0 [d] [] (do
    let s ← get
    wg d (BitVec.ofNat 64 (s.queueSeq s.cur idx opt))
    next) s
/-- Every dispatched command of a queue has completed. -/
def State.queueIdle (s : State) (t q : Nat) : Bool :=
  (s.engq t q).cur.isNone && (s.ring t q).filled = 0 && (q ≠ 0 || (s.place t).landing.isEmpty)
def execQdrain (mask : Nat) (s : State) : Out :=
  ctl .tile 0 [] [] (do
    let s ← get
    waitFor ((range 0 6).all fun q => !bit mask q || s.queueIdle s.cur q)
    onHere fun t => t.acquireQueues mask
    next) s

end Sys2Proof.Machine
end

