-- ==== Sys2Proof/Machine/Ctx.lean ====
section
/-! DEFINITION. Contexts, launch data, and the end of an iteration (R155, R156, R260 to R267). -/
namespace Sys2Proof.Machine

/-- The acting instruction retires and the tile does something else: no continuation. -/
def leave (f : State → State) : M (Option Word) := do
  modify fun s => f ((if s.onCc then s.retired s.pc else s).modHere fun t => { t with stallSince := none, begun := none, tb := none, bpSkip := false })
  return none

-- ## CTXSW, YIELD, NODE (R260, R261)

/-- Answer a code: nothing is switched. -/
def code (d n : Nat) : M (Option Word) := do
  wg d (BitVec.ofNat 64 n)
  next
/-- The step of the acting tile is batched. -/
def State.batchedHere (s : State) : Bool := match s.stepAt s.cur with
  | some st => st.batched
  | none => false
/-- R260's code 5: the image awaits another die's tile, or a pending step needs more than this tile. -/
def State.elsewhere (s : State) (t c : Nat) : Bool :=
  (s.savedPos c fun d => d != dieOf t).isSome ||
    s.steps.any fun st => !st.started && st.failed.isNone && st.members.contains c && !st.single t c
/-- Begin the switch to a context; the running one resumes after the instruction with `g[d]` = 0. -/
def switchTo (d c : Nat) : M (Option Word) := do
  let pc ← rpc
  leave fun s => s.beginSwitch s.cur ⟨none, pc + 8, true, some (some c), d, pc⟩
def execCtxsw (d a opt : Nat) (s : State) : Out :=
  ctl .cc 0 [d, a] [] (do
    let s ← get
    let t := s.here
    if opt = 0 then
      let c := (s.g a).toNat % 65536
      -- one that is never scheduled (R148) has the code of one that is not Ready (log 81)
      if s.ctxState c ≠ 1 || !s.soundCtx c then code d 1
      else if s.ctxVf c ≠ t.vf && t.cc.priv = 0 then code d 2
      else if s.batchedHere then code d 3
      else if s.elsewhere s.cur c then code d 5
      else switchTo d c
    else if s.batchedHere then code d 3
    else match s.pickContext s.cur (some t.ctx) with
      | none => code d 4
      | some c => switchTo d c) s
def execYield (d : Nat) (s : State) : Out :=
  ctl .cc 0 [d] [] (do
    let s ← get
    if s.batchedHere then code d 3
    else match s.pickContext s.cur (some s.here.ctx) with
      | none => code d 4
      | some c => switchTo d c) s
/-- NODE keeps its masks for a switch at it, and is traced (R261, R416). -/
def execNode (a b imm : Nat) (s : State) : Out :=
  match s.preCheck .cc 0 [a, b] [] with
  | some (c, d) => .next (s.raise c d)
  | none =>
    let s := (s.modHere fun t => { t with node := some (s.g a, s.g b) }).traceTile s.cur 0x01 s.pc.toNat imm 0
    .next (s.retireAt (s.pc + 8) true)

-- ## PARK, WAKE (R149, R262)

def execPark (opt : Nat) (s : State) : Out :=
  ctl .cc 0 [] [] (do
    let s ← get
    let c := s.here.ctx
    if opt = 1 then
      modify fun s => match s.here.step with
        | some id => s.modStep id fun st => { st with deferPark := some s.pc.toNat }
        | none => s
      next
    else if s.ctxd c 51 51 = 1 then
      set (s.setCtxd c 51 51 0)
      next
    else
      let pc ← rpc
      leave fun s => s.parkAt s.cur 5 0 (pc + 8) pc) s
/-- WAKE at the home CXS: ends an EXPLICIT park, else is remembered; nothing for a Free context. -/
def State.wake (s : State) (c : Nat) : State :=
  let st := s.ctxState c
  if st = 0 then s
  else if (st = 3 || st = 4) && s.ctxReason c = 5 then s.unparkCtx c
  else s.setCtxd c 51 51 1
def execWake (a : Nat) (s : State) : Out :=
  ctl .ccSteward 0 [a] [] (do
    let s ← get
    let c := (s.g a).toNat % 65536
    need cPerm (s.ctxVf c = s.here.vf || s.here.core.priv ≥ 2)
    release allClasses 2
    modify fun s => s.wake c
    next) s

-- ## CTXRD, CTXWR (R263)

def execCtxrd (d a w : Nat) (s : State) : Out :=
  ctl .any 0 [d, a] [] (do
    let s ← get
    let c := (s.g a).toNat % 65536
    need cPerm (s.here.core.priv ≥ 2 || s.ctxVf c = s.here.vf)
    wg d (BitVec.ofNat 64 (s.ctxd c (64 * w + 63) (64 * w)))
    next) s
/-- CTXWR is allowed: words 1 and 2 of an own context, or for firmware every word but a live word 0. -/
def State.mayCtxwr (s : State) (c w : Nat) : Bool :=
  if s.here.core.priv ≥ 2 then w ≠ 0 || s.ctxState c = 0 else (w = 1 || w = 2) && s.ctxVf c = s.here.vf
/-- Write a word; HANDLE stays, and the RSE evaluates a new PWAKE or STATE. -/
def State.writeCtxWord (s : State) (c w v : Nat) : State :=
  let s := s.setCtxd c (64 * w + 63) (64 * w) (if w = 0 then setBits v 15 0 c else v)
  if w = 0 || w = 2 then s.evaluate c else s
def execCtxwr (a b w : Nat) (s : State) : Out :=
  ctl .any 0 [a, b] [] (do
    let s ← get
    let c := (s.g a).toNat % 65536
    need cPerm (s.mayCtxwr c w)
    set (s.writeCtxWord c w (s.g b).toNat)
    next) s

-- ## LAUNCH, ITER, BUCKET (R264, R265)

def execLaunch (d a b : Nat) (s : State) : Out :=
  ctl .ccSteward 0 [d, a, b] [] (do
    let s ← get
    let qn := (s.g a).toNat
    let va := (s.g b).toNat
    need cPerm (qn < 256)
    need cAlign (va % 8 = 0)
    let die := qn / 64
    let q := qn % 64
    need cPerm (s.lqEn die q && s.lqVf die q = s.here.vf)
    if !s.physical then checkVa va
    let w ← wayTo va 8 .r
    let _ ← wayTo (va + 120) 8 .r
    release allClasses 2
    let lq := s.lq die q
    waitFor ((lq.prod + 2 ^ 32 - lq.cons) % 2 ^ 32 ≠ 2 ^ s.lqNlog die q)
    let bs ← w.read 128
    let a ← curAcc
    writeHome { a with asid := s.lqAsid die q } (bits (s.lqdesc die q) 127 72 + 128 * (lq.prod % 2 ^ s.lqNlog die q)) bs
    release allClasses 3
    modify fun s => s.setLq die q { s.lq die q with prod := (lq.prod + 1) % 2 ^ 32 }
    wg d (BitVec.ofNat 64 lq.prod)
    next) s

/-- The mixed-radix value of a point, level 0 most significant (R265). -/
def linearPoint (levels : List (Nat × Nat)) (p : List Nat) : Nat :=
  (levels.zip p).foldl (fun n (e : (Nat × Nat) × Nat) => n * e.1.2 + e.2) 0
/-- ITER on the levels of the step. -/
def iterValue (levels : List (Nat × Nat)) (p : List Nat) (sel : Nat) : Nat :=
  if sel = 7 then linearPoint levels p
  else if sel = 6 then levels.length
  else ((nth? levels sel).map (·.2)).getD 0
/-- BUCKET on the selected bucket. -/
def bucketValue (b : Option (Nat × Nat)) (sel : Nat) : Nat :=
  match b with
  | none => if sel = 0 then 2 ^ 64 - 1 else 0
  | some (k, e) => if sel = 0 then k else bits e (32 * sel - 1) (32 * (sel - 1))
def execIter (d sel : Nat) (s : State) : Out :=
  ctl .cc 0 [d] [] (do
    let s ← get
    wg d (BitVec.ofNat 64 (iterValue ((s.stepAt s.cur).map (·.levels) |>.getD []) s.here.point sel))
    next) s
def execBucket (d sel : Nat) (s : State) : Out :=
  ctl .cc 0 [d] [] (do
    let s ← get
    wg d (BitVec.ofNat 64 (bucketValue ((s.stepAt s.cur).bind (·.bucket)) sel))
    next) s

-- ## EXIT, KILL (R155, R156, R266)

def execExit (s : State) : Out :=
  ctl .ccCfe 0 [] [] (do
    let s ← get
    if isCfe s.cur then
      set (s.endPrologue (s.cur - 512) (some (s.g 8).toNat))
      return none
    else
      waitFor ((range 0 6).all fun q => s.queueIdle s.cur q)
      onHere fun t => t.acquireQueues 0x3F
      release allClasses 2
      waitFor (!s.owes s.cur)
      leave fun s => s.endIteration s.cur false) s
/-- The commands of a queue that have not started are discarded, `n` staying: no waits, no signals, and an MGO
among them gives its pending copy back (R156, R274). -/
def State.discardFrom (s : State) (t q n : Nat) : State :=
  let r := s.ring t q
  let s := (s.setRing t q { r with tail := (r.head + n) % 65536 }).setEngq t q { s.engq t q with since := none }
  if q = 1 then s.modPlace t fun p => { p with mcOcc := false, mcPending := [] } else s
/-- KILL's part on the engines: started commands lose their signal, the others are discarded (R156). -/
def State.killQueues (s : State) (t : Nat) : State :=
  let s := (range 0 6).foldl (fun s q =>
    let e := s.engq t q
    (s.discardFrom t q (if e.cur.isSome then 1 else 0)).setEngq t q { e with cur := e.cur.map fun c => { c with killed := true }, since := none }) s
  s.modPlace t fun p => { p with landing := p.landing.map fun l => { l with sinc := 0 } }
def State.kill (s : State) (t : Nat) : State := (s.killQueues t).endIteration t true
def execKill (s : State) : Out :=
  ctl .ccCfe 0 [] [] (do
    let s ← get
    if isCfe s.cur then
      set (s.endPrologue (s.cur - 512) none)
      return none
    else leave fun s => s.kill s.cur) s

end Sys2Proof.Machine
end

