-- ==== Sys2Proof/WellFormed.lean ====
section
/-! DEFINITION. Which terms of Instr are well formed: every field of a word fits the width that the
encoding tables give it (R180, R184 to R187, R231, R255, R269, R271, R280, R305, R325), and every
operand of an event names a unit, address or function that the package has (R1, R3, R16).
Which well-formed words the spec makes illegal (R198) is `legal`, in Decode. -/
namespace Sys2Proof

/-- The field widths of a CM word (R186). -/
def CM.wf (m : CM) : Bool :=
  decide (m.a < 64 ∧ m.b < 64 ∧ m.oc < 16 ∧ m.as < 4 ∧ m.sz < 8 ∧ m.sx < 2 ∧ m.sem < 4 ∧ m.scope < 4 ∧
    m.sh < 4 ∧ m.hv < 2 ∧ m.hint < 4 ∧ m.disp < 65536)
/-- The field widths of FN (R185). -/
def FN.wf (f : FN) : Bool := decide (f.fx < 2 ∧ f.rm < 8 ∧ f.pr < 2)
/-- The field widths of IDX, IMM and RG (R231). -/
def Cnt.wf (c : Cnt) : Bool := decide (c.idx < 256 ∧ c.imm < 65536 ∧ c.rg < 2)
/-- The field widths of the wait, signal and capture fields (R180). -/
def Hdr.wf (h : Hdr) : Bool :=
  decide (h.wsem < 256 ∧ h.wneed < 16 ∧ h.ssem < 256 ∧ h.sinc < 16 ∧ h.cap < 2 ∧ h.creg < 64)
/-- The field widths of the VR format (R280). -/
def VR.wf (x : VR) : Bool :=
  decide (x.typ < 16 ∧ x.vd < 32 ∧ x.va < 32 ∧ x.vb < 32 ∧ x.msk < 8 ∧ x.m1 < 2 ∧ x.z < 2)
/-- The field widths of the VC format (R280). -/
def VC.wf (x : VC) : Bool :=
  decide (x.part < 8 ∧ x.sr < 2 ∧ x.x1 < 2 ∧ x.x2 < 2 ∧ x.typ < 16 ∧ x.vd < 32 ∧ x.va < 32 ∧ x.vb < 32 ∧
    x.msk < 8 ∧ x.m1 < 2 ∧ x.z < 2)
/-- The field widths of the VM format (R280). -/
def VM.wf (x : VM) : Bool := decide (x.as < 2 ∧ x.vr < 32 ∧ x.msk < 8 ∧ x.disp < 32768)
/-- The field widths of the VX format (R280). -/
def VX.wf (x : VX) : Bool := decide (x.as < 2 ∧ x.vr < 32 ∧ x.vi < 32 ∧ x.msk < 8 ∧ x.sc < 4)
/-- The field widths of MDRAIN's EOF (R305). -/
def Drain.wf (x : Drain) : Bool :=
  decide (x.nsub < 4 ∧ x.keep < 2 ∧ x.sct < 2 ∧ x.act < 4 ∧ x.bias < 2 ∧ x.sat < 2 ∧ x.sr < 2)
/-- A line lies in the 56-bit address space and its ASID has 16 bits (R10, R53). -/
def LineKey.wf (k : LineKey) : Bool := decide (k.line < 2^49 ∧ k.asid.getD 0 < 2^16)

/-- A well-formed instruction or event. -/
def instrWf : Instr → Bool
  | .nop => true
  | .add d a b => decide (d < 64 ∧ a < 64 ∧ b < 64)
  | .sub d a b => decide (d < 64 ∧ a < 64 ∧ b < 64)
  | .and d a b => decide (d < 64 ∧ a < 64 ∧ b < 64)
  | .or d a b => decide (d < 64 ∧ a < 64 ∧ b < 64)
  | .xor d a b => decide (d < 64 ∧ a < 64 ∧ b < 64)
  | .andn d a b => decide (d < 64 ∧ a < 64 ∧ b < 64)
  | .sll d a b => decide (d < 64 ∧ a < 64 ∧ b < 64)
  | .srl d a b => decide (d < 64 ∧ a < 64 ∧ b < 64)
  | .sra d a b => decide (d < 64 ∧ a < 64 ∧ b < 64)
  | .mul d a b => decide (d < 64 ∧ a < 64 ∧ b < 64)
  | .mulh d a b => decide (d < 64 ∧ a < 64 ∧ b < 64)
  | .mulhu d a b => decide (d < 64 ∧ a < 64 ∧ b < 64)
  | .div d a b => decide (d < 64 ∧ a < 64 ∧ b < 64)
  | .divu d a b => decide (d < 64 ∧ a < 64 ∧ b < 64)
  | .rem d a b => decide (d < 64 ∧ a < 64 ∧ b < 64)
  | .remu d a b => decide (d < 64 ∧ a < 64 ∧ b < 64)
  | .min d a b => decide (d < 64 ∧ a < 64 ∧ b < 64)
  | .max d a b => decide (d < 64 ∧ a < 64 ∧ b < 64)
  | .minu d a b => decide (d < 64 ∧ a < 64 ∧ b < 64)
  | .maxu d a b => decide (d < 64 ∧ a < 64 ∧ b < 64)
  | .clz d a => decide (d < 64 ∧ a < 64)
  | .ctz d a => decide (d < 64 ∧ a < 64)
  | .popc d a => decide (d < 64 ∧ a < 64)
  | .bswap d a => decide (d < 64 ∧ a < 64)
  | .seq d a b => decide (d < 64 ∧ a < 64 ∧ b < 64)
  | .slt d a b => decide (d < 64 ∧ a < 64 ∧ b < 64)
  | .sltu d a b => decide (d < 64 ∧ a < 64 ∧ b < 64)
  | .sel d a b c => decide (d < 64 ∧ a < 64 ∧ b < 64 ∧ c < 64)
  | .bfx d a b => decide (d < 64 ∧ a < 64 ∧ b < 64)
  | .bfxu d a b => decide (d < 64 ∧ a < 64 ∧ b < 64)
  | .bfi d a b c => decide (d < 64 ∧ a < 64 ∧ b < 64 ∧ c < 64)
  | .addi d a imm => decide (d < 64 ∧ a < 64 ∧ imm < 2^32)
  | .andi d a imm => decide (d < 64 ∧ a < 64 ∧ imm < 2^32)
  | .ori d a imm => decide (d < 64 ∧ a < 64 ∧ imm < 2^32)
  | .xori d a imm => decide (d < 64 ∧ a < 64 ∧ imm < 2^32)
  | .slli d a imm => decide (d < 64 ∧ a < 64 ∧ imm < 2^32)
  | .srli d a imm => decide (d < 64 ∧ a < 64 ∧ imm < 2^32)
  | .srai d a imm => decide (d < 64 ∧ a < 64 ∧ imm < 2^32)
  | .slti d a imm => decide (d < 64 ∧ a < 64 ∧ imm < 2^32)
  | .sltui d a imm => decide (d < 64 ∧ a < 64 ∧ imm < 2^32)
  | .seqi d a imm => decide (d < 64 ∧ a < 64 ∧ imm < 2^32)
  | .movi d imm => decide (d < 64 ∧ imm < 2^32)
  | .movhi d a imm => decide (d < 64 ∧ a < 64 ∧ imm < 2^32)
  | .lea d a imm sh => decide (d < 64 ∧ a < 64 ∧ imm < 2^32 ∧ sh < 4)
  | .addpc d imm => decide (d < 64 ∧ imm < 2^32)
  | .fadd d a b fn => decide (d < 64 ∧ a < 64 ∧ b < 64 ∧ fn.wf)
  | .fsub d a b fn => decide (d < 64 ∧ a < 64 ∧ b < 64 ∧ fn.wf)
  | .fmul d a b fn => decide (d < 64 ∧ a < 64 ∧ b < 64 ∧ fn.wf)
  | .fdiv d a b fn => decide (d < 64 ∧ a < 64 ∧ b < 64 ∧ fn.wf)
  | .fsqrt d a fn => decide (d < 64 ∧ a < 64 ∧ fn.wf)
  | .ffma d a b c fn => decide (d < 64 ∧ a < 64 ∧ b < 64 ∧ c < 64 ∧ fn.wf)
  | .fmin d a b fn => decide (d < 64 ∧ a < 64 ∧ b < 64 ∧ fn.wf)
  | .fmax d a b fn => decide (d < 64 ∧ a < 64 ∧ b < 64 ∧ fn.wf)
  | .fcmp d a b fn => decide (d < 64 ∧ a < 64 ∧ b < 64 ∧ fn.wf)
  | .fclass d a fn => decide (d < 64 ∧ a < 64 ∧ fn.wf)
  | .fcvt d a code fn => decide (d < 64 ∧ a < 64 ∧ code < 64 ∧ fn.wf)
  | .fmvg d a fn => decide (d < 64 ∧ a < 64 ∧ fn.wf)
  | .fmvf d a fn => decide (d < 64 ∧ a < 64 ∧ fn.wf)
  | .fsgn d a b fn => decide (d < 64 ∧ a < 64 ∧ b < 64 ∧ fn.wf)
  | .frnd d a fn => decide (d < 64 ∧ a < 64 ∧ fn.wf)
  | .b a b cond off => decide (a < 64 ∧ b < 64 ∧ cond < 16 ∧ off < 2^37)
  | .bz a cond off => decide (a < 64 ∧ cond < 16 ∧ off < 2^37)
  | .j off => decide (off < 2^47)
  | .jal d off => decide (d < 64 ∧ off < 2^47)
  | .jalr d a imm => decide (d < 64 ∧ a < 64 ∧ imm < 2^32)
  | .ret a => decide (a < 64)
  | .jtab a imm n => decide (a < 64 ∧ imm < 2^32 ∧ n < 512)
  | .ecatch d off => decide (d < 64 ∧ off < 2^47)
  | .edrop => true
  | .throw a => decide (a < 64)
  | .ld d m => decide (d < 64 ∧ m.wf)
  | .st d m => decide (d < 64 ∧ m.wf)
  | .stn d m => decide (d < 64 ∧ m.wf)
  | .ldp d m => decide (d < 64 ∧ m.wf)
  | .stp d m => decide (d < 64 ∧ m.wf)
  | .pref m => decide (m.wf)
  | .clean m => decide (m.wf)
  | .czero m => decide (m.wf)
  | .cdrop m => decide (m.wf)
  | .amo d aop m => decide (d < 64 ∧ aop < 16 ∧ m.wf)
  | .acas d m => decide (d < 64 ∧ m.wf)
  | .fence mask scope => decide (mask < 65536 ∧ scope < 4)
  | .semwait a c => decide (a < 64 ∧ c.wf)
  | .semsig a c => decide (a < 64 ∧ c.wf)
  | .semset a c => decide (a < 64 ∧ c.wf)
  | .semrd d idx => decide (d < 64 ∧ idx < 256)
  | .semrsig a b c scp => decide (a < 64 ∧ b < 64 ∧ c.wf ∧ scp < 4)
  | .rcfg a b idx => decide (a < 64 ∧ b < 64 ∧ idx < 256)
  | .rclm d a c => decide (d < 64 ∧ a < 64 ∧ c.wf)
  | .rpub a c => decide (a < 64 ∧ c.wf)
  | .rwait d a c => decide (d < 64 ∧ a < 64 ∧ c.wf)
  | .rrel a c => decide (a < 64 ∧ c.wf)
  | .rstat d idx opt => decide (d < 64 ∧ idx < 256 ∧ opt < 4)
  | .tbset a b => decide (a < 64 ∧ b < 64)
  | .tbwait a b => decide (a < 64 ∧ b < 64)
  | .barj idx => decide (idx < 256)
  | .bara idx => decide (idx < 256)
  | .barw idx => decide (idx < 256)
  | .barx idx => decide (idx < 256)
  | .phase k => decide (k < 256)
  | .qseq d idx opt => decide (d < 64 ∧ idx < 256 ∧ opt < 4)
  | .qdrain mask => decide (mask < 256)
  | .mcfg a idx => decide (a < 64 ∧ idx < 256)
  | .mcfgrd d idx opt => decide (d < 64 ∧ idx < 256 ∧ opt < 4)
  | .mhset a idx => decide (a < 64 ∧ idx < 256)
  | .tick d => decide (d < 64)
  | .sleepu a => decide (a < 64)
  | .prmget d a => decide (d < 64 ∧ a < 64)
  | .prmwait a => decide (a < 64)
  | .movxr d a imm => decide (d < 64 ∧ a < 64 ∧ imm < 2^32)
  | .movxw d a imm => decide (d < 64 ∧ a < 64 ∧ imm < 2^32)
  | .fmovxr d a imm => decide (d < 64 ∧ a < 64 ∧ imm < 2^32)
  | .fmovxw d a imm => decide (d < 64 ∧ a < 64 ∧ imm < 2^32)
  | .ctxsw d a opt => decide (d < 64 ∧ a < 64 ∧ opt < 4)
  | .yield d => decide (d < 64)
  | .node a b imm => decide (a < 64 ∧ b < 64 ∧ imm < 65536)
  | .park opt => decide (opt < 4)
  | .wake a => decide (a < 64)
  | .ctxrd d a w => decide (d < 64 ∧ a < 64 ∧ w < 256)
  | .ctxwr a b w => decide (a < 64 ∧ b < 64 ∧ w < 256)
  | .launch d a b => decide (d < 64 ∧ a < 64 ∧ b < 64)
  | .iter d sel => decide (d < 64 ∧ sel < 256)
  | .bucket d sel => decide (d < 64 ∧ sel < 256)
  | .exit => true
  | .kill => true
  | .trap a code => decide (a < 64 ∧ code < 256)
  | .syscall imm => decide (imm < 65536)
  | .eretResume => true
  | .eretStep => true
  | .eretQstep => true
  | .eretParkPromise => true
  | .eretParkExplicit => true
  | .eretReady => true
  | .eretKill => true
  | .eretEscalate => true
  | .sysrd d num => decide (d < 64 ∧ num < 4096)
  | .syswr a num => decide (a < 64 ∧ num < 4096)
  | .halt => true
  | .bkpt imm => decide (imm < 65536)
  | .idle => true
  | .shoot d a b opt => decide (d < 64 ∧ a < 64 ∧ b < 64 ∧ opt < 4)
  | .replset a deg pin => decide (a < 64 ∧ deg < 4 ∧ pin < 2)
  | .keyload d a b slot => decide (d < 64 ∧ a < 64 ∧ b < 64 ∧ slot < 256)
  | .keykill a slot => decide (a < 64 ∧ slot < 256)
  | .zerosp a b => decide (a < 64 ∧ b < 64)
  | .mark k => decide (k < 256)
  | .causal a b k delay => decide (a < 64 ∧ b < 64 ∧ k < 256 ∧ delay < 65536)
  | .cntrd d a => decide (d < 64 ∧ a < 64)
  | .qreset a opt => decide (a < 64 ∧ opt < 4)
  | .dispatch word => decide (word < 2^64)
  | .vnop h => decide (h.wf)
  | .vadd h x => decide (h.wf ∧ x.wf)
  | .vsub h x => decide (h.wf ∧ x.wf)
  | .vmul h x => decide (h.wf ∧ x.wf)
  | .vfma h x => decide (h.wf ∧ x.wf)
  | .vfms h x => decide (h.wf ∧ x.wf)
  | .vmin h x => decide (h.wf ∧ x.wf)
  | .vmax h x => decide (h.wf ∧ x.wf)
  | .vabs h x => decide (h.wf ∧ x.wf)
  | .vneg h x => decide (h.wf ∧ x.wf)
  | .vrcp h x => decide (h.wf ∧ x.wf)
  | .vrsq h x => decide (h.wf ∧ x.wf)
  | .vexp2 h x => decide (h.wf ∧ x.wf)
  | .vlog2 h x => decide (h.wf ∧ x.wf)
  | .vtanh h x => decide (h.wf ∧ x.wf)
  | .vcvt h x => decide (h.wf ∧ x.wf)
  | .vand h x => decide (h.wf ∧ x.wf)
  | .vor h x => decide (h.wf ∧ x.wf)
  | .vxor h x => decide (h.wf ∧ x.wf)
  | .vshl h x => decide (h.wf ∧ x.wf)
  | .vshr h x => decide (h.wf ∧ x.wf)
  | .vcmp h x => decide (h.wf ∧ x.wf)
  | .vsel h x => decide (h.wf ∧ x.wf)
  | .vred h x => decide (h.wf ∧ x.wf)
  | .vscan h x => decide (h.wf ∧ x.wf)
  | .vperm h x => decide (h.wf ∧ x.wf)
  | .vbcast h x => decide (h.wf ∧ x.wf)
  | .viota h x => decide (h.wf ∧ x.wf)
  | .vpack h x => decide (h.wf ∧ x.wf)
  | .vunpk h x => decide (h.wf ∧ x.wf)
  | .vqnt h x => decide (h.wf ∧ x.wf)
  | .vdqnt h x => decide (h.wf ∧ x.wf)
  | .vld h x => decide (h.wf ∧ x.wf)
  | .vst h x => decide (h.wf ∧ x.wf)
  | .vldx h x => decide (h.wf ∧ x.wf)
  | .vstx h x => decide (h.wf ∧ x.wf)
  | .vmovc h vd lane pair => decide (h.wf ∧ vd < 32 ∧ lane < 64 ∧ pair < 2)
  | .vmsk h md ma mb mop => decide (h.wf ∧ md < 8 ∧ ma < 8 ∧ mb < 8 ∧ mop < 8)
  | .vtbld h sel typ vd va => decide (h.wf ∧ sel < 8 ∧ typ < 16 ∧ vd < 32 ∧ va < 32)
  | .vsmx h dlog vd va vb => decide (h.wf ∧ dlog < 4 ∧ vd < 32 ∧ va < 32 ∧ vb < 32)
  | .veLanding tile => decide (tile < 512)
  | .mnop h => decide (h.wf)
  | .mgo h => decide (h.wf)
  | .mmul h nsub z => decide (h.wf ∧ nsub < 4 ∧ z < 2)
  | .mgath h nsub z nrow => decide (h.wf ∧ nsub < 4 ∧ z < 2 ∧ nrow < 512)
  | .mlut h nsub z kb gsz => decide (h.wf ∧ nsub < 4 ∧ z < 2 ∧ kb < 4 ∧ gsz < 4)
  | .mzero h => decide (h.wf)
  | .mdrain h x => decide (h.wf ∧ x.wf)
  | .xnop h => decide (h.wf)
  | .xcpy h doff => decide (h.wf ∧ doff < 65536)
  | .xbtab h doff => decide (h.wf ∧ doff < 65536)
  | .xsgl h doff => decide (h.wf ∧ doff < 65536)
  | .xfill h doff => decide (h.wf ∧ doff < 65536)
  | .xbst h doff => decide (h.wf ∧ doff < 65536)
  | .xmap h doff => decide (h.wf ∧ doff < 65536)
  | .xmapUnmap h doff => decide (h.wf ∧ doff < 65536)
  | .xmapLazyWriteBack tile sector => decide (tile < 512 ∧ sector < 49152)
  | .gnop h => decide (h.wf)
  | .ggath h doff => decide (h.wf ∧ doff < 65536)
  | .gscat h doff => decide (h.wf ∧ doff < 65536)
  | .gscadd h doff => decide (h.wf ∧ doff < 65536)
  | .gcmpct h doff => decide (h.wf ∧ doff < 65536)
  | .glive h doff => decide (h.wf ∧ doff < 65536)
  | .lnop h => decide (h.wf)
  | .lput h doff => decide (h.wf ∧ doff < 65536)
  | .lget h doff => decide (h.wf ∧ doff < 65536)
  | .lenq h doff => decide (h.wf ∧ doff < 65536)
  | .lsig h doff => decide (h.wf ∧ doff < 65536)
  | .lred h doff => decide (h.wf ∧ doff < 65536)
  | .snop h => decide (h.wf)
  | .sattn h doff => decide (h.wf ∧ doff < 65536)
  | .skvapp h doff => decide (h.wf ∧ doff < 65536)
  | .sscore h doff => decide (h.wf ∧ doff < 65536)
  | .scpy h doff => decide (h.wf ∧ doff < 65536)
  | .sprobe h doff => decide (h.wf ∧ doff < 65536)
  | .map mtu => decide (mtu < 10)
  | .unmap mtu => decide (mtu < 10)
  | .destroy mtu => decide (mtu < 10)
  | .protect mtu => decide (mtu < 10)
  | .pmcFill tile va => decide (tile < 512 ∧ va < 2^56)
  | .walk mtu asid va => decide (mtu < 10 ∧ asid < 2^16 ∧ va < 2^56)
  | .mtuFill k => decide (k.wf)
  | .mtuWriteBack k => decide (k.wf)
  | .performHeldWrites k => decide (k.wf)
  | .deferredFaultRecord vf => decide (vf ≤ 64)
  | .homeRead tile k => decide (tile < 512 ∧ k.wf)
  | .homeOwnership tile k => decide (tile < 512 ∧ k.wf)
  | .skim die k => decide (die < 4 ∧ k.wf)
  | .skimAcknowledgement die k => decide (die < 4 ∧ k.wf)
  | .skimsDone k => decide (k.wf)
  | .dropNotice die k => decide (die < 4 ∧ k.wf)
  | .ownerWriteBack k => decide (k.wf)
  | .ownershipGrant tile k => decide (tile < 512 ∧ k.wf)
  | .rctSweep die => decide (die < 4)
  | .scrimwaysChange die => decide (die < 4)
  | .snpData pa => decide (pa < 2^52)
  | .snpInv pa => decide (pa < 2^52)
  | .snpCur pa => decide (pa < 2^52)
  | .memRdSnpData pa => decide (pa < 2^52)
  | .memRdSnpInv pa => decide (pa < 2^52)
  | .memWr pa _ => decide (pa < 2^52)
  | .inboundWrite pa _ => decide (pa < 2^52)
  | .dmaDescriptor _ _ => true
  | .rseEvaluate ctx => decide (ctx < 2^16)
  | .move die => decide (die < 4)
  | .deadlineMiss die => decide (die < 4)
  | .poisonGranule pa => decide (pa < 2^52)
  | .refetchCleanCopy die k => decide (die < 4 ∧ k.wf)
  | .promote die => decide (die < 4)
  | .demote die => decide (die < 4)
  | .pin die => decide (die < 4)
  | .unpin die => decide (die < 4)
  | .refetch die => decide (die < 4)
  | .residencyEvent die => decide (die < 4)
  | .lqprod f die q n => decide (f ≤ 64 ∧ die < 4 ∧ q < 64 ∧ n < 2^32)
  | .launchPacket die q => decide (die < 4 ∧ q < 64)
  | .ffence die q => decide (die < 4 ∧ q < 64)
  | .skip die q => decide (die < 4 ∧ q < 64)
  | .prologue die q => decide (die < 4 ∧ q < 64)
  | .prologueTimeout die => decide (die < 4)
  | .formBatch die _ cls => decide (die < 4 ∧ cls < 4)
  | .pick die => decide (die < 4)
  | .windowRestart die => decide (die < 4)
  | .stepStart _ => true
  | .kernelLoad tile => decide (tile < 512)
  | .handOff die => decide (die < 4)
  | .completionRecord _ => true
  | .timeSliceEnd die => decide (die < 4)
  | .start die => decide (die < 4)
  | .preempt die => decide (die < 4)
  | .drop die => decide (die < 4)
  | .schedulingEvent die => decide (die < 4)
  | .phaseUpdate tile nb k => decide (tile < 512 ∧ nb < 512 ∧ k < 4)
  | .tbwaitTimeout tile => decide (tile < 512)
  | .promise tile => decide (tile < 512)
  | .watchdog tile => decide (tile < 512)
  | .trapEntry tile => decide (tile < 512)
  | .xeAbandon tile => decide (tile < 512)
  | .peerTransferArrival _ => true
  | .signalArrival _ => true
  | .lenqArrival _ => true
  | .keySlotZeroing tile slot _ => decide (tile < 512 ∧ slot < 16)
  | .qcommit value _ => decide (value < 2^64)
  | .vfen hi value _ => decide (hi < 2 ∧ value < 2^64)
  | .status => true
  | .recover => true
  | .reset => true
  | .create die handle => decide (die < 4 ∧ handle < 2^16)
  | .free die handle => decide (die < 4 ∧ handle < 2^16)
  | .swapout die handle => decide (die < 4 ∧ handle < 2^16)
  | .swapin die handle => decide (die < 4 ∧ handle < 2^16)
  | .retrysave die handle => decide (die < 4 ∧ handle < 2^16)
  | .restart place _ => decide (place < 520)
  | .coreWake place => decide (place < 520)
  | .dieGating value _ => decide (value < 2^64)
  | .tickadj v => decide (v < 2^64)
  | .stop => true
  | .rctQuery die => decide (die < 4)
  | .pgdQuery die => decide (die < 4)
  | .rhtQuery die => decide (die < 4)
  | .horizon f k => decide (f ≤ 64 ∧ k < 4)
  | .replayInput f k => decide (f ≤ 64 ∧ k < 4)
  | .causalPause tile => decide (tile < 512)
  | .functionLevelReset f => decide (f ≤ 64)
  | .powerGood => true
  | .dieOnline die _ => decide (die < 4)
  | .thermalThrottle _ => true
  | .linkRetry _ => true
  | .parityError tile => decide (tile < 512)
  | .registerWrite off size value _ => decide (off < 2^48 ∧ (size = 1 ∨ size = 2 ∨ size = 4 ∨ size = 8) ∧ value < 2^64)
  | .sleepuTickReached tile => decide (tile < 512)
  | .hostAnswer k _ => decide (k.wf)
  | .srIovVfEnable _ => true
  | .conventionalReset => true
  | .pluginBudgetExpiry core => decide (516 ≤ core ∧ core < 520)
  | .deadlineLeadReached die => decide (die < 4)
  | .frameZeroingEnd pa => decide (pa < 2^52)
  | .storeLogWriteDone tile => decide (tile < 512)

end Sys2Proof
end

