-- ==== Sys2Proof/Decode.lean ====
section
/-! DEFINITION. Bits to instructions and back. `decodeWord` is total on any 64-bit word: it answers an
instruction or names why the word is illegal (R198). `encodeWord` is written from the same encoding
tables. Field lists stand least significant field first. -/
namespace Sys2Proof

/-- A word made of (width, value) fields, least significant field first (R5). -/
def packF : List (Nat × Nat) → Nat
  | [] => 0
  | (w, v) :: r => v + 2 ^ w * packF r

/-- The fields of a word, given their widths, least significant first. -/
def unpackF : List Nat → Nat → List Nat
  | [], _ => []
  | w :: ws, n => n % 2 ^ w :: unpackF ws (n / 2 ^ w)

/-- An instruction whose unused fields must be zero (R184). -/
def z0 (zs : List Nat) (i : Instr) : Option Instr := if zs.all (· == 0) then some i else none

/-- Why a word is no instruction (R198). -/
inductive Illegal where
  /-- CLS 0b111 (R179) -/
  | classNone
  /-- an OP that R196 does not list, or a must-be-zero field of a control word that is not zero -/
  | control (op : Nat)
  /-- an EOP that R197 does not list, or a must-be-zero field of an engine word that is not zero -/
  | engine (cls eop : Nat)
  /-- a field value or combination that the instruction excludes (R187, R231, R283, R305) -/
  | value
  deriving DecidableEq, Repr

-- ## Control formats (R184): bits [52:0] of the word

/-- CR: [23:0] zero, FN, C, B, A, D. -/
def bodyCR (fn c b a d : Nat) : Nat := packF [(24, 0), (5, fn), (6, c), (6, b), (6, a), (6, d)]
def unCR (body : Nat) (k : Nat → Nat → Nat → Nat → Nat → Option Instr) : Option Instr :=
  match unpackF [24, 5, 6, 6, 6, 6] body with
  | [z, fn, c, b, a, d] => if z = 0 then k fn c b a d else none
  | _ => none
/-- CR with FN read as R185. -/
def bodyCF (fn : FN) (c b a d : Nat) : Nat := bodyCR (packF [(1, fn.pr), (3, fn.rm), (1, fn.fx)]) c b a d
def unCF (body : Nat) (k : FN → Nat → Nat → Nat → Nat → Option Instr) : Option Instr :=
  unCR body fun fn c b a d =>
    match unpackF [1, 3, 1] fn with
    | [pr, rm, fx] => k ⟨fx, rm, pr⟩ c b a d
    | _ => none
/-- CI: FN, imm32, A, D. -/
def bodyCI (fn imm a d : Nat) : Nat := packF [(9, fn), (32, imm), (6, a), (6, d)]
def unCI (body : Nat) (k : Nat → Nat → Nat → Nat → Option Instr) : Option Instr :=
  match unpackF [9, 32, 6, 6] body with
  | [fn, imm, a, d] => k fn imm a d
  | _ => none
/-- CM (R186): DISP, HINT, HV, SH, SCOPE, SEM, SX, SZ, AS, OC, B, A, D. -/
def bodyCM (d : Nat) (m : CM) : Nat :=
  packF [(16, m.disp), (2, m.hint), (1, m.hv), (2, m.sh), (2, m.scope), (2, m.sem), (1, m.sx), (3, m.sz),
    (2, m.as), (4, m.oc), (6, m.b), (6, m.a), (6, d)]
def unCM (body : Nat) (k : Nat → CM → Option Instr) : Option Instr :=
  match unpackF [16, 2, 1, 2, 2, 2, 1, 3, 2, 4, 6, 6, 6] body with
  | [disp, hint, hv, sh, scope, sem, sx, sz, as, oc, b, a, d] =>
    k d ⟨a, b, oc, as, sz, sx, sem, scope, sh, hv, hint, disp⟩
  | _ => none
/-- CB: offset, COND, [40] is COND's top bit, B, A. -/
def bodyCB (off cond b a : Nat) : Nat := packF [(37, off), (4, cond), (6, b), (6, a)]
def unCB (body : Nat) (k : Nat → Nat → Nat → Nat → Option Instr) : Option Instr :=
  match unpackF [37, 4, 6, 6] body with
  | [off, cond, b, a] => k off cond b a
  | _ => none
/-- CJ: offset, D. -/
def bodyCJ (off d : Nat) : Nat := packF [(47, off), (6, d)]
def unCJ (body : Nat) (k : Nat → Nat → Option Instr) : Option Instr :=
  match unpackF [47, 6] body with
  | [off, d] => k off d
  | _ => none
/-- CS with the subfields of R231: OPT, zero, SCP, RG, IMM, IDX, B, A, D. -/
def bodyCS (opt scp rg imm idx b a d : Nat) : Nat :=
  packF [(2, opt), (6, 0), (2, scp), (1, rg), (16, imm), (8, idx), (6, b), (6, a), (6, d)]
def unCS (body : Nat) (k : Nat → Nat → Nat → Nat → Nat → Nat → Nat → Nat → Option Instr) : Option Instr :=
  match unpackF [2, 6, 2, 1, 16, 8, 6, 6, 6] body with
  | [opt, z, scp, rg, imm, idx, b, a, d] => if z = 0 then k opt scp rg imm idx b a d else none
  | _ => none
/-- FENCE's division of [34:0] (R255). -/
def bodyFENCE (scope mask b a d : Nat) : Nat := packF [(17, 0), (2, scope), (16, mask), (6, b), (6, a), (6, d)]
def unFENCE (body : Nat) (k : Nat → Nat → Nat → Nat → Nat → Option Instr) : Option Instr :=
  match unpackF [17, 2, 16, 6, 6, 6] body with
  | [z, scope, mask, b, a, d] => if z = 0 then k scope mask b a d else none
  | _ => none
/-- SYSRD and SYSWR's division of [34:0] (R269). -/
def bodySYS (num b a d : Nat) : Nat := packF [(23, 0), (12, num), (6, b), (6, a), (6, d)]
def unSYS (body : Nat) (k : Nat → Nat → Nat → Nat → Option Instr) : Option Instr :=
  match unpackF [23, 12, 6, 6, 6] body with
  | [z, num, b, a, d] => if z = 0 then k num b a d else none
  | _ => none
/-- REPLSET's division of [34:0] (R271). -/
def bodyRSET (pin deg b a d : Nat) : Nat := packF [(32, 0), (1, pin), (2, deg), (6, b), (6, a), (6, d)]
def unRSET (body : Nat) (k : Nat → Nat → Nat → Nat → Nat → Option Instr) : Option Instr :=
  match unpackF [32, 1, 2, 6, 6, 6] body with
  | [z, pin, deg, b, a, d] => if z = 0 then k pin deg b a d else none
  | _ => none

-- ## Engine formats: EOF, bits [29:0] of the word (R180, R280, R305, R325)

/-- EOF with bits [29:24] from the header. -/
def withReg (h : Hdr) (eof24 : Nat) : Nat := packF [(24, eof24), (6, h.creg)]
/-- Splits bits [29:24] off EOF into the header. -/
def unReg (h : Hdr) (eof : Nat) (k : Hdr → Nat → Option Instr) : Option Instr :=
  match unpackF [24, 6] eof with
  | [e, r] => k { h with creg := r } e
  | _ => none
def un0 (h : Hdr) (eof : Nat) (k : Hdr → Option Instr) : Option Instr :=
  unReg h eof fun h e => if e = 0 then k h else none
def eofVR (x : VR) : Nat := packF [(1, x.z), (1, x.m1), (3, x.msk), (5, x.vb), (5, x.va), (5, x.vd), (4, x.typ)]
def unVR (h : Hdr) (eof : Nat) (k : Hdr → VR → Option Instr) : Option Instr :=
  unReg h eof fun h e =>
    match unpackF [1, 1, 3, 5, 5, 5, 4] e with
    | [z, m1, msk, vb, va, vd, typ] => k h ⟨typ, vd, va, vb, msk, m1, z⟩
    | _ => none
def eofVC (x : VC) : Nat :=
  packF [(1, x.z), (1, x.m1), (3, x.msk), (5, x.vb), (5, x.va), (5, x.vd), (4, x.typ), (1, x.x2), (1, x.x1),
    (1, x.sr), (3, x.part)]
def unVC (eof : Nat) (k : VC → Option Instr) : Option Instr :=
  match unpackF [1, 1, 3, 5, 5, 5, 4, 1, 1, 1, 3] eof with
  | [z, m1, msk, vb, va, vd, typ, x2, x1, sr, part] => k ⟨part, sr, x1, x2, typ, vd, va, vb, msk, m1, z⟩
  | _ => none
def eofVM (x : VM) : Nat := packF [(15, x.disp), (3, x.msk), (5, x.vr), (1, x.as)]
def unVM (h : Hdr) (eof : Nat) (k : Hdr → VM → Option Instr) : Option Instr :=
  unReg h eof fun h e =>
    match unpackF [15, 3, 5, 1] e with
    | [disp, msk, vr, as] => k h ⟨as, vr, msk, disp⟩
    | _ => none
def eofVX (x : VX) : Nat := packF [(8, 0), (2, x.sc), (3, x.msk), (5, x.vi), (5, x.vr), (1, x.as)]
def unVX (h : Hdr) (eof : Nat) (k : Hdr → VX → Option Instr) : Option Instr :=
  unReg h eof fun h e =>
    match unpackF [8, 2, 3, 5, 5, 1] e with
    | [z, sc, msk, vi, vr, as] => if z = 0 then k h ⟨as, vr, vi, msk, sc⟩ else none
    | _ => none
def eofVMOVC (vd lane pair : Nat) : Nat := packF [(1, pair), (8, 0), (6, lane), (5, vd), (4, 0)]
def unVMOVC (h : Hdr) (eof : Nat) (k : Hdr → Nat → Nat → Nat → Option Instr) : Option Instr :=
  unReg h eof fun h e =>
    match unpackF [1, 8, 6, 5, 4] e with
    | [pair, z, lane, vd, z'] => if z = 0 ∧ z' = 0 then k h vd lane pair else none
    | _ => none
def eofVMSK (md ma mb mop : Nat) : Nat := packF [(3, mop), (8, 0), (3, mb), (3, ma), (3, md), (4, 0)]
def unVMSK (h : Hdr) (eof : Nat) (k : Hdr → Nat → Nat → Nat → Nat → Option Instr) : Option Instr :=
  unReg h eof fun h e =>
    match unpackF [3, 8, 3, 3, 3, 4] e with
    | [mop, z, mb, ma, md, z'] => if z = 0 ∧ z' = 0 then k h md ma mb mop else none
    | _ => none
def eofVTBLD (sel typ vd va : Nat) : Nat := packF [(10, 0), (5, va), (5, vd), (4, typ), (3, 0), (3, sel)]
def unVTBLD (eof : Nat) (k : Nat → Nat → Nat → Nat → Option Instr) : Option Instr :=
  match unpackF [10, 5, 5, 4, 3, 3] eof with
  | [z, va, vd, typ, z', sel] => if z = 0 ∧ z' = 0 then k sel typ vd va else none
  | _ => none
def eofVSMX (dlog vd va vb : Nat) : Nat := packF [(5, 0), (5, vb), (5, va), (5, vd), (2, 0), (2, dlog)]
def unVSMX (h : Hdr) (eof : Nat) (k : Hdr → Nat → Nat → Nat → Nat → Option Instr) : Option Instr :=
  unReg h eof fun h e =>
    match unpackF [5, 5, 5, 5, 2, 2] e with
    | [z, vb, va, vd, z', dlog] => if z = 0 ∧ z' = 0 then k h dlog vd va vb else none
    | _ => none
def eofM2 (nsub z : Nat) : Nat := packF [(21, 0), (1, z), (2, nsub)]
def unM2 (h : Hdr) (eof : Nat) (k : Hdr → Nat → Nat → Option Instr) : Option Instr :=
  unReg h eof fun h e =>
    match unpackF [21, 1, 2] e with
    | [y, z, nsub] => if y = 0 then k h nsub z else none
    | _ => none
def eofMG (nsub z nrow : Nat) : Nat := packF [(12, 0), (9, nrow), (1, z), (2, nsub)]
def unMG (h : Hdr) (eof : Nat) (k : Hdr → Nat → Nat → Nat → Option Instr) : Option Instr :=
  unReg h eof fun h e =>
    match unpackF [12, 9, 1, 2] e with
    | [y, nrow, z, nsub] => if y = 0 then k h nsub z nrow else none
    | _ => none
def eofML (nsub z kb gsz : Nat) : Nat := packF [(17, 0), (2, gsz), (2, kb), (1, z), (2, nsub)]
def unML (h : Hdr) (eof : Nat) (k : Hdr → Nat → Nat → Nat → Nat → Option Instr) : Option Instr :=
  unReg h eof fun h e =>
    match unpackF [17, 2, 2, 1, 2] e with
    | [y, gsz, kb, z, nsub] => if y = 0 then k h nsub z kb gsz else none
    | _ => none
def eofMD (x : Drain) : Nat :=
  packF [(15, 0), (1, x.sr), (1, x.sat), (1, x.bias), (2, x.act), (1, x.sct), (1, x.keep), (2, x.nsub)]
def unMD (h : Hdr) (eof : Nat) (k : Hdr → Drain → Option Instr) : Option Instr :=
  unReg h eof fun h e =>
    match unpackF [15, 1, 1, 1, 2, 1, 1, 2] e with
    | [y, sr, sat, bias, act, sct, keep, nsub] => if y = 0 then k h ⟨nsub, keep, sct, act, bias, sat, sr⟩ else none
    | _ => none
def eofD (doff u : Nat) : Nat := packF [(16, doff), (1, u), (7, 0)]
def unXM (h : Hdr) (eof : Nat) (k : Hdr → Nat → Nat → Option Instr) : Option Instr :=
  unReg h eof fun h e =>
    match unpackF [16, 1, 7] e with
    | [doff, u, z] => if z = 0 then k h doff u else none
    | _ => none
def unD (h : Hdr) (eof : Nat) (k : Hdr → Nat → Option Instr) : Option Instr :=
  unXM h eof fun h doff u => if u = 0 then k h doff else none

-- ## Opcode maps

/-- OP 0x00 to 0x1F (R189, R232). -/
def decodeInt (op body : Nat) : Option Instr :=
  match op with
  | 0x00 => unCR body fun fn c b a d => z0 [fn, c, b, a, d] (.nop)
  | 0x01 => unCR body fun fn c b a d => z0 [fn, c] (.add d a b)
  | 0x02 => unCR body fun fn c b a d => z0 [fn, c] (.sub d a b)
  | 0x03 => unCR body fun fn c b a d => z0 [fn, c] (.and d a b)
  | 0x04 => unCR body fun fn c b a d => z0 [fn, c] (.or d a b)
  | 0x05 => unCR body fun fn c b a d => z0 [fn, c] (.xor d a b)
  | 0x06 => unCR body fun fn c b a d => z0 [fn, c] (.andn d a b)
  | 0x07 => unCR body fun fn c b a d => z0 [fn, c] (.sll d a b)
  | 0x08 => unCR body fun fn c b a d => z0 [fn, c] (.srl d a b)
  | 0x09 => unCR body fun fn c b a d => z0 [fn, c] (.sra d a b)
  | 0x0A => unCR body fun fn c b a d => z0 [fn, c] (.mul d a b)
  | 0x0B => unCR body fun fn c b a d => z0 [fn, c] (.mulh d a b)
  | 0x0C => unCR body fun fn c b a d => z0 [fn, c] (.mulhu d a b)
  | 0x0D => unCR body fun fn c b a d => z0 [fn, c] (.div d a b)
  | 0x0E => unCR body fun fn c b a d => z0 [fn, c] (.divu d a b)
  | 0x0F => unCR body fun fn c b a d => z0 [fn, c] (.rem d a b)
  | 0x10 => unCR body fun fn c b a d => z0 [fn, c] (.remu d a b)
  | 0x11 => unCR body fun fn c b a d => z0 [fn, c] (.min d a b)
  | 0x12 => unCR body fun fn c b a d => z0 [fn, c] (.max d a b)
  | 0x13 => unCR body fun fn c b a d => z0 [fn, c] (.minu d a b)
  | 0x14 => unCR body fun fn c b a d => z0 [fn, c] (.maxu d a b)
  | 0x15 => unCR body fun fn c b a d => z0 [fn, c, b] (.clz d a)
  | 0x16 => unCR body fun fn c b a d => z0 [fn, c, b] (.ctz d a)
  | 0x17 => unCR body fun fn c b a d => z0 [fn, c, b] (.popc d a)
  | 0x18 => unCR body fun fn c b a d => z0 [fn, c, b] (.bswap d a)
  | 0x19 => unCR body fun fn c b a d => z0 [fn, c] (.seq d a b)
  | 0x1A => unCR body fun fn c b a d => z0 [fn, c] (.slt d a b)
  | 0x1B => unCR body fun fn c b a d => z0 [fn, c] (.sltu d a b)
  | 0x1C => unCR body fun fn c b a d => z0 [fn] (.sel d a b c)
  | 0x1D => unCR body fun fn c b a d => z0 [fn, c] (.bfx d a b)
  | 0x1E => unCR body fun fn c b a d => z0 [fn, c] (.bfxu d a b)
  | 0x1F => unCR body fun fn c b a d => z0 [fn] (.bfi d a b c)
  | _ => none

/-- OP 0x20 to 0x2D (R234). -/
def decodeImm (op body : Nat) : Option Instr :=
  match op with
  | 0x20 => unCI body fun fn imm a d => z0 [fn] (.addi d a imm)
  | 0x21 => unCI body fun fn imm a d => z0 [fn] (.andi d a imm)
  | 0x22 => unCI body fun fn imm a d => z0 [fn] (.ori d a imm)
  | 0x23 => unCI body fun fn imm a d => z0 [fn] (.xori d a imm)
  | 0x24 => unCI body fun fn imm a d => z0 [fn] (.slli d a imm)
  | 0x25 => unCI body fun fn imm a d => z0 [fn] (.srli d a imm)
  | 0x26 => unCI body fun fn imm a d => z0 [fn] (.srai d a imm)
  | 0x27 => unCI body fun fn imm a d => z0 [fn] (.slti d a imm)
  | 0x28 => unCI body fun fn imm a d => z0 [fn] (.sltui d a imm)
  | 0x29 => unCI body fun fn imm a d => z0 [fn] (.seqi d a imm)
  | 0x2A => unCI body fun fn imm a d => z0 [fn, a] (.movi d imm)
  | 0x2B => unCI body fun fn imm a d => z0 [fn] (.movhi d a imm)
  | 0x2C => unCI body fun fn imm a d => z0 [] (.lea d a imm fn)
  | 0x2D => unCI body fun fn imm a d => z0 [fn, a] (.addpc d imm)
  | _ => none

/-- OP 0x30 to 0x3E (R235). -/
def decodeFp (op body : Nat) : Option Instr :=
  match op with
  | 0x30 => unCF body fun FN c b a d => z0 [c] (.fadd d a b FN)
  | 0x31 => unCF body fun FN c b a d => z0 [c] (.fsub d a b FN)
  | 0x32 => unCF body fun FN c b a d => z0 [c] (.fmul d a b FN)
  | 0x33 => unCF body fun FN c b a d => z0 [c] (.fdiv d a b FN)
  | 0x34 => unCF body fun FN c b a d => z0 [c, b] (.fsqrt d a FN)
  | 0x35 => unCF body fun FN c b a d => z0 [] (.ffma d a b c FN)
  | 0x36 => unCF body fun FN c b a d => z0 [c] (.fmin d a b FN)
  | 0x37 => unCF body fun FN c b a d => z0 [c] (.fmax d a b FN)
  | 0x38 => unCF body fun FN c b a d => z0 [c] (.fcmp d a b FN)
  | 0x39 => unCF body fun FN c b a d => z0 [c, b] (.fclass d a FN)
  | 0x3A => unCF body fun FN c b a d => z0 [c] (.fcvt d a b FN)
  | 0x3B => unCF body fun FN c b a d => z0 [c, b] (.fmvg d a FN)
  | 0x3C => unCF body fun FN c b a d => z0 [c, b] (.fmvf d a FN)
  | 0x3D => unCF body fun FN c b a d => z0 [c] (.fsgn d a b FN)
  | 0x3E => unCF body fun FN c b a d => z0 [c, b] (.frnd d a FN)
  | _ => none

/-- OP 0x40 to 0x49 (R238 to R242). -/
def decodeXfer (op body : Nat) : Option Instr :=
  match op with
  | 0x40 => unCB body fun off cond b a => z0 [] (.b a b cond off)
  | 0x41 => unCB body fun off cond b a => z0 [b] (.bz a cond off)
  | 0x42 => unCJ body fun off d => z0 [d] (.j off)
  | 0x43 => unCJ body fun off d => z0 [] (.jal d off)
  | 0x44 => unCI body fun fn imm a d => z0 [fn] (.jalr d a imm)
  | 0x45 => unCS body fun opt scp rg imm idx b a d => z0 [opt, scp, rg, imm, idx, b, d] (.ret a)
  | 0x46 => unCI body fun fn imm a d => z0 [d] (.jtab a imm fn)
  | 0x47 => unCJ body fun off d => z0 [] (.ecatch d off)
  | 0x48 => unCS body fun opt scp rg imm idx b a d => z0 [opt, scp, rg, imm, idx, b, a, d] (.edrop)
  | 0x49 => unCS body fun opt scp rg imm idx b a d => z0 [opt, scp, rg, imm, idx, b, d] (.throw a)
  | _ => none

/-- OP 0x50 to 0x5D (R243). -/
def decodeMem (op body : Nat) : Option Instr :=
  match op with
  | 0x50 => unCM body fun d m => z0 [] (.ld d m)
  | 0x51 => unCM body fun d m => z0 [] (.st d m)
  | 0x52 => unCM body fun d m => z0 [] (.stn d m)
  | 0x53 => unCM body fun d m => z0 [] (.ldp d m)
  | 0x54 => unCM body fun d m => z0 [] (.stp d m)
  | 0x55 => unCM body fun d m => z0 [d] (.pref m)
  | 0x56 => unCM body fun d m => z0 [d] (.clean m)
  | 0x57 => unCM body fun d m => z0 [d] (.czero m)
  | 0x58 => unCM body fun d m => z0 [d] (.cdrop m)
  | 0x5C => unCM body fun d m => z0 [] (.amo d (m.disp / 4096) { m with disp := m.disp % 4096 })
  | 0x5D => unCM body fun d m => z0 [] (.acas d m)
  | _ => none

/-- OP 0x60 to 0x74 (R248 to R255). -/
def decodeSync (op body : Nat) : Option Instr :=
  match op with
  | 0x60 => unFENCE body fun scope mask b a d => z0 [b, a, d] (.fence mask scope)
  | 0x61 => unCS body fun opt scp rg imm idx b a d => z0 [opt, scp, b, d] (.semwait a ⟨idx, imm, rg⟩)
  | 0x62 => unCS body fun opt scp rg imm idx b a d => z0 [opt, scp, b, d] (.semsig a ⟨idx, imm, rg⟩)
  | 0x63 => unCS body fun opt scp rg imm idx b a d => z0 [opt, scp, b, d] (.semset a ⟨idx, imm, rg⟩)
  | 0x64 => unCS body fun opt scp rg imm idx b a d => z0 [opt, scp, rg, imm, b, a] (.semrd d idx)
  | 0x65 => unCS body fun opt scp rg imm idx b a d => z0 [opt, d] (.semrsig a b ⟨idx, imm, rg⟩ scp)
  | 0x66 => unCS body fun opt scp rg imm idx b a d => z0 [opt, scp, rg, imm, d] (.rcfg a b idx)
  | 0x67 => unCS body fun opt scp rg imm idx b a d => z0 [opt, scp, b] (.rclm d a ⟨idx, imm, rg⟩)
  | 0x68 => unCS body fun opt scp rg imm idx b a d => z0 [opt, scp, b, d] (.rpub a ⟨idx, imm, rg⟩)
  | 0x69 => unCS body fun opt scp rg imm idx b a d => z0 [opt, scp, b] (.rwait d a ⟨idx, imm, rg⟩)
  | 0x6A => unCS body fun opt scp rg imm idx b a d => z0 [opt, scp, b, d] (.rrel a ⟨idx, imm, rg⟩)
  | 0x6B => unCS body fun opt scp rg imm idx b a d => z0 [scp, rg, imm, b, a] (.rstat d idx opt)
  | 0x6C => unCS body fun opt scp rg imm idx b a d => z0 [opt, scp, rg, imm, idx, d] (.tbset a b)
  | 0x6D => unCS body fun opt scp rg imm idx b a d => z0 [opt, scp, rg, imm, idx, d] (.tbwait a b)
  | 0x6E => unCS body fun opt scp rg imm idx b a d => z0 [opt, scp, rg, imm, b, a, d] (.barj idx)
  | 0x6F => unCS body fun opt scp rg imm idx b a d => z0 [opt, scp, rg, imm, b, a, d] (.bara idx)
  | 0x70 => unCS body fun opt scp rg imm idx b a d => z0 [opt, scp, rg, imm, b, a, d] (.barw idx)
  | 0x71 => unCS body fun opt scp rg imm idx b a d => z0 [opt, scp, rg, imm, b, a, d] (.barx idx)
  | 0x72 => unCS body fun opt scp rg imm idx b a d => z0 [opt, scp, rg, imm, b, a, d] (.phase idx)
  | 0x73 => unCS body fun opt scp rg imm idx b a d => z0 [scp, rg, imm, b, a] (.qseq d idx opt)
  | 0x74 => unCS body fun opt scp rg imm idx b a d => z0 [opt, scp, rg, imm, b, a, d] (.qdrain idx)
  | _ => none

/-- OP 0x78 to 0x83 (R256 to R259). -/
def decodeCfg (op body : Nat) : Option Instr :=
  match op with
  | 0x78 => unCS body fun opt scp rg imm idx b a d => z0 [opt, scp, rg, imm, b, d] (.mcfg a idx)
  | 0x79 => unCS body fun opt scp rg imm idx b a d => z0 [scp, rg, imm, b, a] (.mcfgrd d idx opt)
  | 0x7A => unCS body fun opt scp rg imm idx b a d => z0 [opt, scp, rg, imm, b, d] (.mhset a idx)
  | 0x7C => unCS body fun opt scp rg imm idx b a d => z0 [opt, scp, rg, imm, idx, b, a] (.tick d)
  | 0x7D => unCS body fun opt scp rg imm idx b a d => z0 [opt, scp, rg, imm, idx, b, d] (.sleepu a)
  | 0x7E => unCS body fun opt scp rg imm idx b a d => z0 [opt, scp, rg, imm, idx, b] (.prmget d a)
  | 0x7F => unCS body fun opt scp rg imm idx b a d => z0 [opt, scp, rg, imm, idx, b, d] (.prmwait a)
  | 0x80 => unCI body fun fn imm a d => z0 [fn] (.movxr d a imm)
  | 0x81 => unCI body fun fn imm a d => z0 [fn] (.movxw d a imm)
  | 0x82 => unCI body fun fn imm a d => z0 [fn] (.fmovxr d a imm)
  | 0x83 => unCI body fun fn imm a d => z0 [fn] (.fmovxw d a imm)
  | _ => none

/-- OP 0x88 to 0x93 (R260 to R266). -/
def decodeCtx (op body : Nat) : Option Instr :=
  match op with
  | 0x88 => unCS body fun opt scp rg imm idx b a d => z0 [scp, rg, imm, idx, b] (.ctxsw d a opt)
  | 0x89 => unCS body fun opt scp rg imm idx b a d => z0 [opt, scp, rg, imm, idx, b, a] (.yield d)
  | 0x8A => unCS body fun opt scp rg imm idx b a d => z0 [opt, scp, rg, idx, d] (.node a b imm)
  | 0x8B => unCS body fun opt scp rg imm idx b a d => z0 [scp, rg, imm, idx, b, a, d] (.park opt)
  | 0x8C => unCS body fun opt scp rg imm idx b a d => z0 [opt, scp, rg, imm, idx, b, d] (.wake a)
  | 0x8D => unCS body fun opt scp rg imm idx b a d => z0 [opt, scp, rg, imm, b] (.ctxrd d a idx)
  | 0x8E => unCS body fun opt scp rg imm idx b a d => z0 [opt, scp, rg, imm, d] (.ctxwr a b idx)
  | 0x8F => unCS body fun opt scp rg imm idx b a d => z0 [opt, scp, rg, imm, idx] (.launch d a b)
  | 0x90 => unCS body fun opt scp rg imm idx b a d => z0 [opt, scp, rg, imm, b, a] (.iter d idx)
  | 0x91 => unCS body fun opt scp rg imm idx b a d => z0 [opt, scp, rg, imm, b, a] (.bucket d idx)
  | 0x92 => unCS body fun opt scp rg imm idx b a d => z0 [opt, scp, rg, imm, idx, b, a, d] (.exit)
  | 0x93 => unCS body fun opt scp rg imm idx b a d => z0 [opt, scp, rg, imm, idx, b, a, d] (.kill)
  | _ => none

/-- OP 0xA0 to 0xB0 (R268 to R274); the word of ERET is given the row ERET_RESUME (R366). -/
def decodeSys (op body : Nat) : Option Instr :=
  match op with
  | 0xA0 => unCS body fun opt scp rg imm idx b a d => z0 [opt, scp, rg, imm, b, d] (.trap a idx)
  | 0xA1 => unCS body fun opt scp rg imm idx b a d => z0 [opt, scp, rg, idx, b, a, d] (.syscall imm)
  | 0xA2 => unCS body fun opt scp rg imm idx b a d => z0 [opt, scp, rg, imm, idx, b, a, d] (.eretResume)
  | 0xA3 => unSYS body fun num b a d => z0 [b, a] (.sysrd d num)
  | 0xA4 => unSYS body fun num b a d => z0 [b, d] (.syswr a num)
  | 0xA5 => unCS body fun opt scp rg imm idx b a d => z0 [opt, scp, rg, imm, idx, b, a, d] (.halt)
  | 0xA6 => unCS body fun opt scp rg imm idx b a d => z0 [opt, scp, rg, idx, b, a, d] (.bkpt imm)
  | 0xA7 => unCS body fun opt scp rg imm idx b a d => z0 [opt, scp, rg, imm, idx, b, a, d] (.idle)
  | 0xA8 => unCS body fun opt scp rg imm idx b a d => z0 [scp, rg, imm, idx] (.shoot d a b opt)
  | 0xA9 => unRSET body fun pin deg b a d => z0 [b, d] (.replset a deg pin)
  | 0xAA => unCS body fun opt scp rg imm idx b a d => z0 [opt, scp, rg, imm] (.keyload d a b idx)
  | 0xAB => unCS body fun opt scp rg imm idx b a d => z0 [opt, scp, rg, imm, b, d] (.keykill a idx)
  | 0xAC => unCS body fun opt scp rg imm idx b a d => z0 [opt, scp, rg, imm, idx, d] (.zerosp a b)
  | 0xAD => unCS body fun opt scp rg imm idx b a d => z0 [opt, scp, rg, imm, b, a, d] (.mark idx)
  | 0xAE => unCS body fun opt scp rg imm idx b a d => z0 [opt, scp, rg, d] (.causal a b idx imm)
  | 0xAF => unCS body fun opt scp rg imm idx b a d => z0 [opt, scp, rg, imm, idx, b] (.cntrd d a)
  | 0xB0 => unCS body fun opt scp rg imm idx b a d => z0 [scp, rg, imm, idx, b, d] (.qreset a opt)
  | _ => none

/-- The control-class opcode map (R196). -/
def decodeControl (op body : Nat) : Option Instr :=
  if op < 0x20 then decodeInt op body
  else if op < 0x30 then decodeImm op body
  else if op < 0x40 then decodeFp op body
  else if op < 0x50 then decodeXfer op body
  else if op < 0x60 then decodeMem op body
  else if op < 0x78 then decodeSync op body
  else if op < 0x88 then decodeCfg op body
  else if op < 0xA0 then decodeCtx op body
  else decodeSys op body

/-- The vector opcode map (R197). -/
def decodeVector (eop : Nat) (h : Hdr) (eof : Nat) : Option Instr :=
  match eop with
  | 0x00 => un0 h eof fun h => some (.vnop h)
  | 0x01 => unVR h eof fun h x => some (.vadd h x)
  | 0x02 => unVR h eof fun h x => some (.vsub h x)
  | 0x03 => unVR h eof fun h x => some (.vmul h x)
  | 0x04 => unVR h eof fun h x => some (.vfma h x)
  | 0x05 => unVR h eof fun h x => some (.vfms h x)
  | 0x06 => unVR h eof fun h x => some (.vmin h x)
  | 0x07 => unVR h eof fun h x => some (.vmax h x)
  | 0x08 => unVR h eof fun h x => some (.vabs h x)
  | 0x09 => unVR h eof fun h x => some (.vneg h x)
  | 0x0A => unVR h eof fun h x => some (.vrcp h x)
  | 0x0B => unVR h eof fun h x => some (.vrsq h x)
  | 0x0C => unVR h eof fun h x => some (.vexp2 h x)
  | 0x0D => unVR h eof fun h x => some (.vlog2 h x)
  | 0x0E => unVR h eof fun h x => some (.vtanh h x)
  | 0x0F => unVC eof fun x => some (.vcvt h x)
  | 0x10 => unVR h eof fun h x => some (.vand h x)
  | 0x11 => unVR h eof fun h x => some (.vor h x)
  | 0x12 => unVR h eof fun h x => some (.vxor h x)
  | 0x13 => unVR h eof fun h x => some (.vshl h x)
  | 0x14 => unVR h eof fun h x => some (.vshr h x)
  | 0x15 => unVR h eof fun h x => some (.vcmp h x)
  | 0x16 => unVR h eof fun h x => some (.vsel h x)
  | 0x17 => unVR h eof fun h x => some (.vred h x)
  | 0x18 => unVR h eof fun h x => some (.vscan h x)
  | 0x19 => unVR h eof fun h x => some (.vperm h x)
  | 0x1A => unVR h eof fun h x => some (.vbcast h x)
  | 0x1B => unVR h eof fun h x => some (.viota h x)
  | 0x1C => unVR h eof fun h x => some (.vpack h x)
  | 0x1D => unVR h eof fun h x => some (.vunpk h x)
  | 0x1E => unVC eof fun x => some (.vqnt h x)
  | 0x1F => unVC eof fun x => some (.vdqnt h x)
  | 0x20 => unVM h eof fun h x => some (.vld h x)
  | 0x21 => unVM h eof fun h x => some (.vst h x)
  | 0x22 => unVX h eof fun h x => some (.vldx h x)
  | 0x23 => unVX h eof fun h x => some (.vstx h x)
  | 0x24 => unVMOVC h eof fun h vd lane pair => some (.vmovc h vd lane pair)
  | 0x25 => unVMSK h eof fun h md ma mb mop => some (.vmsk h md ma mb mop)
  | 0x26 => unVTBLD eof fun sel typ vd va => some (.vtbld h sel typ vd va)
  | 0x27 => unVSMX h eof fun h dlog vd va vb => some (.vsmx h dlog vd va vb)
  | _ => none

/-- The matrix opcode map (R197). -/
def decodeMatrix (eop : Nat) (h : Hdr) (eof : Nat) : Option Instr :=
  match eop with
  | 0x00 => un0 h eof fun h => some (.mnop h)
  | 0x01 => un0 h eof fun h => some (.mgo h)
  | 0x02 => unM2 h eof fun h nsub z => some (.mmul h nsub z)
  | 0x03 => unMG h eof fun h nsub z nrow => some (.mgath h nsub z nrow)
  | 0x04 => unML h eof fun h nsub z kb gsz => some (.mlut h nsub z kb gsz)
  | 0x05 => un0 h eof fun h => some (.mzero h)
  | 0x06 => unMD h eof fun h x => some (.mdrain h x)
  | _ => none

/-- The copy opcode map (R197). -/
def decodeCopy (eop : Nat) (h : Hdr) (eof : Nat) : Option Instr :=
  match eop with
  | 0x00 => un0 h eof fun h => some (.xnop h)
  | 0x01 => unD h eof fun h doff => some (.xcpy h doff)
  | 0x02 => unD h eof fun h doff => some (.xbtab h doff)
  | 0x03 => unD h eof fun h doff => some (.xsgl h doff)
  | 0x04 => unD h eof fun h doff => some (.xfill h doff)
  | 0x05 => unD h eof fun h doff => some (.xbst h doff)
  | 0x06 => unXM h eof fun h doff u => some (if u = 0 then .xmap h doff else .xmapUnmap h doff)
  | _ => none

/-- The index opcode map (R197). -/
def decodeIndex (eop : Nat) (h : Hdr) (eof : Nat) : Option Instr :=
  match eop with
  | 0x00 => un0 h eof fun h => some (.gnop h)
  | 0x01 => unD h eof fun h doff => some (.ggath h doff)
  | 0x02 => unD h eof fun h doff => some (.gscat h doff)
  | 0x03 => unD h eof fun h doff => some (.gscadd h doff)
  | 0x04 => unD h eof fun h doff => some (.gcmpct h doff)
  | 0x05 => unD h eof fun h doff => some (.glive h doff)
  | _ => none

/-- The link opcode map (R197). -/
def decodeLink (eop : Nat) (h : Hdr) (eof : Nat) : Option Instr :=
  match eop with
  | 0x00 => un0 h eof fun h => some (.lnop h)
  | 0x01 => unD h eof fun h doff => some (.lput h doff)
  | 0x02 => unD h eof fun h doff => some (.lget h doff)
  | 0x03 => unD h eof fun h doff => some (.lenq h doff)
  | 0x04 => unD h eof fun h doff => some (.lsig h doff)
  | 0x05 => unD h eof fun h doff => some (.lred h doff)
  | _ => none

/-- The stack opcode map (R197). -/
def decodeStack (eop : Nat) (h : Hdr) (eof : Nat) : Option Instr :=
  match eop with
  | 0x00 => un0 h eof fun h => some (.snop h)
  | 0x01 => unD h eof fun h doff => some (.sattn h doff)
  | 0x02 => unD h eof fun h doff => some (.skvapp h doff)
  | 0x03 => unD h eof fun h doff => some (.sscore h doff)
  | 0x04 => unD h eof fun h doff => some (.scpy h doff)
  | 0x05 => unD h eof fun h doff => some (.sprobe h doff)
  | _ => none

/-- The engine class's map (R179). -/
def decodeEngine (cls eop : Nat) (h : Hdr) (eof : Nat) : Option Instr :=
  match cls with
  | 1 => decodeVector eop h eof
  | 2 => decodeMatrix eop h eof
  | 3 => decodeCopy eop h eof
  | 4 => decodeIndex eop h eof
  | 5 => decodeLink eop h eof
  | 6 => decodeStack eop h eof
  | _ => none

-- ## Legality of field values

/-- Elements per 32-bit lane of a vector type (R278). -/
def typK (t : Nat) : Nat :=
  if t = 0 ∨ t = 8 ∨ t = 11 then 1 else if t = 1 ∨ t = 2 ∨ t = 9 ∨ t = 12 then 2 else if t = 7 then 8 else 4
def typF (t : Nat) : Bool := t < 3
def typI (t : Nat) : Bool := 8 ≤ t && t < 14
def typW (t : Nat) : Bool := t == 0 || t == 8 || t == 11
def typN (t : Nat) : Bool := 3 ≤ t && t < 8

/-- R180 and R181: WSEM, SSEM and the captured register are zero when unused. -/
def legalHdr (h : Hdr) : Bool :=
  (h.wneed != 0 || h.wsem == 0) && (h.sinc != 0 || h.ssem == 0) && (h.cap != 0 || h.creg == 0)
/-- A command that accepts no capture. -/
def noCap (h : Hdr) : Bool := legalHdr h && h.cap == 0
/-- A VR command that R282 marks scalar (R281). -/
def legalScalar (h : Hdr) (x : VR) : Bool := legalHdr h && (h.cap == 0 || x.vb == 0)
/-- Count under RG (R231): IMM zero with RG = 1; the register field is unused, so zero, with RG = 0. -/
def legalCnt (reg : Nat) (c : Cnt) : Bool := if c.rg = 1 then c.imm == 0 else reg == 0
/-- Rounding mode not reserved (R185). -/
def legalFN (f : FN) : Bool := f.rm ≤ 4
/-- What every CM word needs (R187): AS not reserved; a hint only in the global space. -/
def legalCM (m : CM) (szs sems : List Nat) : Bool :=
  m.as ≤ 1 && szs.contains m.sz && sems.contains m.sem
def hintOk (m : CM) : Bool := m.as == 0 || (m.hv == 0 && m.hint == 0)
def noHint (m : CM) : Bool := m.hv == 0 && m.hint == 0
/-- The matrix configuration registers of R314. -/
def mcfgReg (i : Nat) : Bool := i ≤ 4 || (8 ≤ i && i ≤ 0xB) || (0x10 ≤ i && i ≤ 0x15) || (0x18 ≤ i && i ≤ 0x1D)
/-- The system register numbers that R194 assigns. -/
def sysAssigned (n : Nat) : Bool :=
  n ≤ 0x11 || (0x18 ≤ n && n ≤ 0x1E) || (0x20 ≤ n && n ≤ 0x25) || (0x30 ≤ n && n ≤ 0x32)
/-- The cause codes of R363. -/
def causeListed (c : Nat) : Bool :=
  (1 ≤ c && c ≤ 6) || (8 ≤ c && c ≤ 0x10) || (0x12 ≤ c && c ≤ 0x16)
/-- VC commands (R286 to R288). -/
def legalCvt (x : VC) : Bool :=
  let st := x.vb / 2
  let ks := typK st
  let kd := typK x.typ
  x.typ < 14 && st < 14 && x.vb % 2 == 0 && x.x2 == 0 && x.m1 == 0 &&
    x.part < Nat.max ks kd / Nat.min ks kd && (!typI x.typ || (x.sr == 0 && x.x1 == 0))

/-- The well-formed words that no rule makes illegal (R183, R187, R188, R231, R283, R305, R325). -/
def legal (i : Instr) : Bool :=
  match i with
  | .slli _ _ imm | .srli _ _ imm | .srai _ _ imm => imm < 64
  | .fadd d a b f | .fsub d a b f | .fmul d a b f | .fdiv d a b f =>
    legalFN f && f.fx == 0 && d < 32 && a < 32 && b < 32
  | .fmin d a b f | .fmax d a b f | .fsgn d a b f => legalFN f && d < 32 && a < 32 && b < 32
  | .fsqrt d a f | .frnd d a f => legalFN f && f.fx == 0 && d < 32 && a < 32
  | .ffma d a b c f => legalFN f && d < 32 && a < 32 && b < 32 && c < 32
  | .fcmp _ a b f => legalFN f && f.fx == 0 && a < 32 && b < 32
  | .fclass _ a f | .fmvg _ a f => legalFN f && f.fx == 0 && a < 32
  | .fmvf d _ f => legalFN f && f.fx == 0 && d < 32
  | .fcvt d a code f =>
    legalFN f && code ≤ 9 && (f.pr == 0 || (2 ≤ code && code ≤ 5)) && (f.fx == 0 || code == 1 || code == 7 || code == 9) &&
      (code == 2 || code == 3 || d < 32) && (code == 4 || code == 5 || a < 32)
  | .b _ _ cond _ => cond ≤ 5
  | .bz _ cond _ => cond ≤ 3
  | .ld _ m => legalCM m [0, 1, 2, 3] [0, 1] && hintOk m
  | .st _ m => legalCM m [0, 1, 2, 3] [0, 2] && m.sx == 0 && noHint m
  | .stn _ m => legalCM m [4] [0, 2] && noHint m
  | .ldp d m => legalCM m [5] [0, 1] && m.sx == 0 && hintOk m && d ≤ 62
  | .stp d m => legalCM m [5] [0, 2] && m.sx == 0 && noHint m && d ≤ 62
  | .pref m => legalCM m [0] [0] && m.sx == 0 && m.as == 0
  | .clean m | .czero m | .cdrop m => legalCM m [0] [0] && m.sx == 0 && m.as == 0 && noHint m
  | .amo _ aop m =>
    m.as ≤ 1 && m.sh == 0 && hintOk m && m.disp < 4096 && aop ≤ 0xA &&
      (if aop = 0xA then m.sz == 1 else if aop = 9 then m.sz == 2 else m.sz == 2 || m.sz == 3)
  | .acas _ m => m.as ≤ 1 && m.sh == 0 && hintOk m && m.disp < 4096 && (m.sz == 2 || m.sz == 3)
  | .semwait a c | .semsig a c | .semset a c => legalCnt a c
  | .semrsig _ b c scp => legalCnt b c && (scp == 1 || scp == 2)
  | .rcfg _ _ idx => idx < 64
  | .rclm _ a c | .rpub a c | .rwait _ a c | .rrel a c => legalCnt a c && c.idx < 64
  | .rstat _ idx opt => idx < 64 && opt ≤ 1
  | .barj n | .bara n | .barw n | .barx n => n < 80
  | .phase k => k < 4
  | .qseq _ idx opt => idx < 6 && opt ≤ 2
  | .qdrain mask => mask < 64
  | .mcfg _ idx => mcfgReg idx && !(8 ≤ idx && idx ≤ 0xB)
  | .mcfgrd _ idx opt => mcfgReg idx && opt ≤ 1
  | .mhset _ idx => idx < 4
  | .fmovxr d _ _ | .fmovxw d _ _ => d < 32
  | .lea _ _ _ sh => sh < 4
  | .ctxsw _ a opt => opt == 0 || (opt == 1 && a == 0)
  | .park opt => opt ≤ 1
  | .ctxrd _ _ w | .ctxwr _ _ w => w < 64
  | .iter _ sel => sel ≤ 7
  | .bucket _ sel => sel ≤ 8
  | .trap _ code => causeListed code
  | .sysrd _ n | .syswr _ n => sysAssigned n
  | .shoot d a b opt => (opt % 2 == 0 || d == 0) && (opt / 2 == 0 || (a == 0 && b == 0))
  | .keyload _ _ _ slot | .keykill _ slot => slot < 16
  | .mark k => k < 16
  | .causal _ _ k _ => k < 4
  | .qreset _ opt => opt ≤ 1
  | .vnop h | .mnop h | .xnop h | .gnop h | .lnop h | .snop h | .mgo h | .mzero h => noCap h
  | .vadd h x | .vsub h x => legalScalar h x && (typI x.typ || (typF x.typ && x.m1 == 0))
  | .vmul h x | .vfma h x | .vfms h x => legalScalar h x && (typI x.typ || typF x.typ) && x.m1 == 0
  | .vmin h x | .vmax h x => legalScalar h x && (typF x.typ || (typI x.typ && x.m1 == 0))
  | .vabs h x | .vneg h x => noCap h && x.vb == 0 && (typI x.typ || (typF x.typ && x.m1 == 0))
  | .vrcp h x | .vrsq h x | .vexp2 h x | .vlog2 h x | .vtanh h x => noCap h && x.typ == 0 && x.vb == 0 && x.m1 == 0
  | .vand h x | .vor h x | .vxor h x => legalScalar h x && x.typ == 0 && x.m1 == 0
  | .vshl h x | .vshr h x => legalScalar h x && typI x.typ && x.m1 == 0
  | .vcmp h x => legalScalar h x && typW x.typ && x.z == 0 && (x.typ == 0 || x.m1 == 0)
  | .vsel h x => legalScalar h x && x.typ == 0 && x.m1 == 0 && x.z == 0
  | .vred h x | .vscan h x => noCap h && typW x.typ && x.vb == 0 && !(x.m1 == 1 && x.z == 1)
  | .vperm h x => noCap h && x.typ == 0 && x.m1 == 0
  | .vbcast h x =>
    (h.wneed != 0 || h.wsem == 0) && (h.sinc != 0 || h.ssem == 0) && x.typ == 0 && x.m1 == 0 &&
      (h.cap == 0 || (x.va == 0 && x.vb == 0))
  | .viota h x => legalScalar h x && typI x.typ && x.va == 0 && x.vb == 0 && x.m1 == 0
  | .vpack h x | .vunpk h x =>
    noCap h && x.m1 == 0 && (x.typ == 0 || ((x.typ == 5 || x.typ == 6) && x.msk == 0 && x.z == 0))
  | .vcvt h x => noCap h && legalCvt x
  | .vqnt h x => noCap h && typN x.typ && x.msk == 0 && x.m1 == 0 && x.z == 0 && x.part < typK x.typ
  | .vdqnt h x => noCap h && typN x.typ && x.sr == 0 && x.m1 == 0 && x.part < typK x.typ
  | .vld h _ | .vst h _ | .vldx h _ | .vstx h _ => legalHdr h
  | .vmovc h _ lane pair => legalHdr h && (pair == 0 || lane % 2 == 0)
  | .vmsk h _ ma mb mop => legalHdr h && mop ≤ 5 && (if mop < 4 then h.cap == 0 else ma == 0 && mb == 0)
  | .vtbld h sel typ _ _ => noCap h && typF typ && sel < 4 * typK typ
  | .vsmx h dlog vd va vb =>
    let n := Nat.max 1 (2 ^ dlog / 2)
    noCap h && vd + n < 32 && va + n < 32 && vb + n < 32
  | .mmul h _ _ | .mdrain h _ => legalHdr h
  | .mgath h _ _ nrow => legalHdr h && 1 ≤ nrow && nrow ≤ 256
  | .mlut h _ _ _ gsz => legalHdr h && gsz < 3
  | .xcpy h o | .xbtab h o | .xsgl h o | .xfill h o | .xbst h o | .xmap h o | .xmapUnmap h o
  | .ggath h o | .gscat h o | .gscadd h o | .gcmpct h o | .glive h o
  | .lput h o | .lget h o | .lenq h o | .lsig h o | .lred h o
  | .sattn h o | .skvapp h o | .sscore h o | .scpy h o | .sprobe h o => legalHdr h && (if h.cap == 0 then o < 0xC000 else o == 0)
  | _ => true

/-- A 64-bit word as an instruction, or why it is none (R198). -/
def decodeWord (w : Nat) : Except Illegal Instr :=
  match unpackF [53, 8, 3] w with
  | [body, op, 0] =>
    match decodeControl op body with
    | some i => if legal i then .ok i else .error .value
    | none => .error (.control op)
  | [_, _, 7] => .error .classNone
  | _ =>
    match unpackF [30, 1, 6, 4, 8, 4, 8, 3] w with
    | [eof, cap, eop, sinc, ssem, wneed, wsem, cls] =>
      match decodeEngine cls eop ⟨wsem, wneed, ssem, sinc, cap, 0⟩ eof with
      | some i => if legal i then .ok i else .error .value
      | none => .error (.engine cls eop)
    | _ => .error .classNone

/-- CLS of a word (R179). -/
def wordClass (w : Nat) : Nat := w / 2 ^ 61 % 8

/-- OP and bits [52:0] of a control instruction. -/
def encodeControl (i : Instr) : Option (Nat × Nat) :=
  match i with
  | .nop => some (0x00, bodyCR 0 0 0 0 0)
  | .add d a b => some (0x01, bodyCR 0 0 b a d)
  | .sub d a b => some (0x02, bodyCR 0 0 b a d)
  | .and d a b => some (0x03, bodyCR 0 0 b a d)
  | .or d a b => some (0x04, bodyCR 0 0 b a d)
  | .xor d a b => some (0x05, bodyCR 0 0 b a d)
  | .andn d a b => some (0x06, bodyCR 0 0 b a d)
  | .sll d a b => some (0x07, bodyCR 0 0 b a d)
  | .srl d a b => some (0x08, bodyCR 0 0 b a d)
  | .sra d a b => some (0x09, bodyCR 0 0 b a d)
  | .mul d a b => some (0x0A, bodyCR 0 0 b a d)
  | .mulh d a b => some (0x0B, bodyCR 0 0 b a d)
  | .mulhu d a b => some (0x0C, bodyCR 0 0 b a d)
  | .div d a b => some (0x0D, bodyCR 0 0 b a d)
  | .divu d a b => some (0x0E, bodyCR 0 0 b a d)
  | .rem d a b => some (0x0F, bodyCR 0 0 b a d)
  | .remu d a b => some (0x10, bodyCR 0 0 b a d)
  | .min d a b => some (0x11, bodyCR 0 0 b a d)
  | .max d a b => some (0x12, bodyCR 0 0 b a d)
  | .minu d a b => some (0x13, bodyCR 0 0 b a d)
  | .maxu d a b => some (0x14, bodyCR 0 0 b a d)
  | .clz d a => some (0x15, bodyCR 0 0 0 a d)
  | .ctz d a => some (0x16, bodyCR 0 0 0 a d)
  | .popc d a => some (0x17, bodyCR 0 0 0 a d)
  | .bswap d a => some (0x18, bodyCR 0 0 0 a d)
  | .seq d a b => some (0x19, bodyCR 0 0 b a d)
  | .slt d a b => some (0x1A, bodyCR 0 0 b a d)
  | .sltu d a b => some (0x1B, bodyCR 0 0 b a d)
  | .sel d a b c => some (0x1C, bodyCR 0 c b a d)
  | .bfx d a b => some (0x1D, bodyCR 0 0 b a d)
  | .bfxu d a b => some (0x1E, bodyCR 0 0 b a d)
  | .bfi d a b c => some (0x1F, bodyCR 0 c b a d)
  | .addi d a imm => some (0x20, bodyCI 0 imm a d)
  | .andi d a imm => some (0x21, bodyCI 0 imm a d)
  | .ori d a imm => some (0x22, bodyCI 0 imm a d)
  | .xori d a imm => some (0x23, bodyCI 0 imm a d)
  | .slli d a imm => some (0x24, bodyCI 0 imm a d)
  | .srli d a imm => some (0x25, bodyCI 0 imm a d)
  | .srai d a imm => some (0x26, bodyCI 0 imm a d)
  | .slti d a imm => some (0x27, bodyCI 0 imm a d)
  | .sltui d a imm => some (0x28, bodyCI 0 imm a d)
  | .seqi d a imm => some (0x29, bodyCI 0 imm a d)
  | .movi d imm => some (0x2A, bodyCI 0 imm 0 d)
  | .movhi d a imm => some (0x2B, bodyCI 0 imm a d)
  | .lea d a imm sh => some (0x2C, bodyCI sh imm a d)
  | .addpc d imm => some (0x2D, bodyCI 0 imm 0 d)
  | .fadd d a b fn => some (0x30, bodyCF fn 0 b a d)
  | .fsub d a b fn => some (0x31, bodyCF fn 0 b a d)
  | .fmul d a b fn => some (0x32, bodyCF fn 0 b a d)
  | .fdiv d a b fn => some (0x33, bodyCF fn 0 b a d)
  | .fmin d a b fn => some (0x36, bodyCF fn 0 b a d)
  | .fmax d a b fn => some (0x37, bodyCF fn 0 b a d)
  | .fcmp d a b fn => some (0x38, bodyCF fn 0 b a d)
  | .fsgn d a b fn => some (0x3D, bodyCF fn 0 b a d)
  | .fsqrt d a fn => some (0x34, bodyCF fn 0 0 a d)
  | .fclass d a fn => some (0x39, bodyCF fn 0 0 a d)
  | .fmvg d a fn => some (0x3B, bodyCF fn 0 0 a d)
  | .fmvf d a fn => some (0x3C, bodyCF fn 0 0 a d)
  | .frnd d a fn => some (0x3E, bodyCF fn 0 0 a d)
  | .ffma d a b c fn => some (0x35, bodyCF fn c b a d)
  | .fcvt d a code fn => some (0x3A, bodyCF fn 0 code a d)
  | .b a b cond off => some (0x40, bodyCB off cond b a)
  | .bz a cond off => some (0x41, bodyCB off cond 0 a)
  | .j off => some (0x42, bodyCJ off 0)
  | .jal d off => some (0x43, bodyCJ off d)
  | .jalr d a imm => some (0x44, bodyCI 0 imm a d)
  | .ret a => some (0x45, bodyCS 0 0 0 0 0 0 a 0)
  | .jtab a imm n => some (0x46, bodyCI n imm a 0)
  | .ecatch d off => some (0x47, bodyCJ off d)
  | .edrop => some (0x48, bodyCS 0 0 0 0 0 0 0 0)
  | .throw a => some (0x49, bodyCS 0 0 0 0 0 0 a 0)
  | .ld d m => some (0x50, bodyCM d m)
  | .st d m => some (0x51, bodyCM d m)
  | .stn d m => some (0x52, bodyCM d m)
  | .ldp d m => some (0x53, bodyCM d m)
  | .stp d m => some (0x54, bodyCM d m)
  | .pref m => some (0x55, bodyCM 0 m)
  | .clean m => some (0x56, bodyCM 0 m)
  | .czero m => some (0x57, bodyCM 0 m)
  | .cdrop m => some (0x58, bodyCM 0 m)
  | .amo d aop m => some (0x5C, bodyCM d { m with disp := aop * 4096 + m.disp })
  | .acas d m => some (0x5D, bodyCM d m)
  | .fence mask scope => some (0x60, bodyFENCE scope mask 0 0 0)
  | .semwait a c => some (0x61, bodyCS 0 0 c.rg c.imm c.idx 0 a 0)
  | .semsig a c => some (0x62, bodyCS 0 0 c.rg c.imm c.idx 0 a 0)
  | .semset a c => some (0x63, bodyCS 0 0 c.rg c.imm c.idx 0 a 0)
  | .semrd d idx => some (0x64, bodyCS 0 0 0 0 idx 0 0 d)
  | .semrsig a b c scp => some (0x65, bodyCS 0 scp c.rg c.imm c.idx b a 0)
  | .rcfg a b idx => some (0x66, bodyCS 0 0 0 0 idx b a 0)
  | .rclm d a c => some (0x67, bodyCS 0 0 c.rg c.imm c.idx 0 a d)
  | .rpub a c => some (0x68, bodyCS 0 0 c.rg c.imm c.idx 0 a 0)
  | .rwait d a c => some (0x69, bodyCS 0 0 c.rg c.imm c.idx 0 a d)
  | .rrel a c => some (0x6A, bodyCS 0 0 c.rg c.imm c.idx 0 a 0)
  | .rstat d idx opt => some (0x6B, bodyCS opt 0 0 0 idx 0 0 d)
  | .tbset a b => some (0x6C, bodyCS 0 0 0 0 0 b a 0)
  | .tbwait a b => some (0x6D, bodyCS 0 0 0 0 0 b a 0)
  | .barj idx => some (0x6E, bodyCS 0 0 0 0 idx 0 0 0)
  | .bara idx => some (0x6F, bodyCS 0 0 0 0 idx 0 0 0)
  | .barw idx => some (0x70, bodyCS 0 0 0 0 idx 0 0 0)
  | .barx idx => some (0x71, bodyCS 0 0 0 0 idx 0 0 0)
  | .phase k => some (0x72, bodyCS 0 0 0 0 k 0 0 0)
  | .qseq d idx opt => some (0x73, bodyCS opt 0 0 0 idx 0 0 d)
  | .qdrain mask => some (0x74, bodyCS 0 0 0 0 mask 0 0 0)
  | .mcfg a idx => some (0x78, bodyCS 0 0 0 0 idx 0 a 0)
  | .mcfgrd d idx opt => some (0x79, bodyCS opt 0 0 0 idx 0 0 d)
  | .mhset a idx => some (0x7A, bodyCS 0 0 0 0 idx 0 a 0)
  | .tick d => some (0x7C, bodyCS 0 0 0 0 0 0 0 d)
  | .sleepu a => some (0x7D, bodyCS 0 0 0 0 0 0 a 0)
  | .prmget d a => some (0x7E, bodyCS 0 0 0 0 0 0 a d)
  | .prmwait a => some (0x7F, bodyCS 0 0 0 0 0 0 a 0)
  | .movxr d a imm => some (0x80, bodyCI 0 imm a d)
  | .movxw d a imm => some (0x81, bodyCI 0 imm a d)
  | .fmovxr d a imm => some (0x82, bodyCI 0 imm a d)
  | .fmovxw d a imm => some (0x83, bodyCI 0 imm a d)
  | .ctxsw d a opt => some (0x88, bodyCS opt 0 0 0 0 0 a d)
  | .yield d => some (0x89, bodyCS 0 0 0 0 0 0 0 d)
  | .node a b imm => some (0x8A, bodyCS 0 0 0 imm 0 b a 0)
  | .park opt => some (0x8B, bodyCS opt 0 0 0 0 0 0 0)
  | .wake a => some (0x8C, bodyCS 0 0 0 0 0 0 a 0)
  | .ctxrd d a w => some (0x8D, bodyCS 0 0 0 0 w 0 a d)
  | .ctxwr a b w => some (0x8E, bodyCS 0 0 0 0 w b a 0)
  | .launch d a b => some (0x8F, bodyCS 0 0 0 0 0 b a d)
  | .iter d sel => some (0x90, bodyCS 0 0 0 0 sel 0 0 d)
  | .bucket d sel => some (0x91, bodyCS 0 0 0 0 sel 0 0 d)
  | .exit => some (0x92, bodyCS 0 0 0 0 0 0 0 0)
  | .kill => some (0x93, bodyCS 0 0 0 0 0 0 0 0)
  | .trap a code => some (0xA0, bodyCS 0 0 0 0 code 0 a 0)
  | .syscall imm => some (0xA1, bodyCS 0 0 0 imm 0 0 0 0)
  | .eretResume => some (0xA2, bodyCS 0 0 0 0 0 0 0 0)
  | .sysrd d num => some (0xA3, bodySYS num 0 0 d)
  | .syswr a num => some (0xA4, bodySYS num 0 a 0)
  | .halt => some (0xA5, bodyCS 0 0 0 0 0 0 0 0)
  | .bkpt imm => some (0xA6, bodyCS 0 0 0 imm 0 0 0 0)
  | .idle => some (0xA7, bodyCS 0 0 0 0 0 0 0 0)
  | .shoot d a b opt => some (0xA8, bodyCS opt 0 0 0 0 b a d)
  | .replset a deg pin => some (0xA9, bodyRSET pin deg 0 a 0)
  | .keyload d a b slot => some (0xAA, bodyCS 0 0 0 0 slot b a d)
  | .keykill a slot => some (0xAB, bodyCS 0 0 0 0 slot 0 a 0)
  | .zerosp a b => some (0xAC, bodyCS 0 0 0 0 0 b a 0)
  | .mark k => some (0xAD, bodyCS 0 0 0 0 k 0 0 0)
  | .causal a b k delay => some (0xAE, bodyCS 0 0 0 delay k b a 0)
  | .cntrd d a => some (0xAF, bodyCS 0 0 0 0 0 0 a d)
  | .qreset a opt => some (0xB0, bodyCS opt 0 0 0 0 0 a 0)
  | _ => none

/-- CLS, EOP, header and EOF of an engine command. -/
def encodeEngine (i : Instr) : Option (Nat × Nat × Hdr × Nat) :=
  match i with
  | .vnop h => some (1, 0x00, h, withReg h (0))
  | .vadd h x => some (1, 0x01, h, withReg h (eofVR x))
  | .vsub h x => some (1, 0x02, h, withReg h (eofVR x))
  | .vmul h x => some (1, 0x03, h, withReg h (eofVR x))
  | .vfma h x => some (1, 0x04, h, withReg h (eofVR x))
  | .vfms h x => some (1, 0x05, h, withReg h (eofVR x))
  | .vmin h x => some (1, 0x06, h, withReg h (eofVR x))
  | .vmax h x => some (1, 0x07, h, withReg h (eofVR x))
  | .vabs h x => some (1, 0x08, h, withReg h (eofVR x))
  | .vneg h x => some (1, 0x09, h, withReg h (eofVR x))
  | .vrcp h x => some (1, 0x0A, h, withReg h (eofVR x))
  | .vrsq h x => some (1, 0x0B, h, withReg h (eofVR x))
  | .vexp2 h x => some (1, 0x0C, h, withReg h (eofVR x))
  | .vlog2 h x => some (1, 0x0D, h, withReg h (eofVR x))
  | .vtanh h x => some (1, 0x0E, h, withReg h (eofVR x))
  | .vcvt h x => some (1, 0x0F, h, eofVC x)
  | .vand h x => some (1, 0x10, h, withReg h (eofVR x))
  | .vor h x => some (1, 0x11, h, withReg h (eofVR x))
  | .vxor h x => some (1, 0x12, h, withReg h (eofVR x))
  | .vshl h x => some (1, 0x13, h, withReg h (eofVR x))
  | .vshr h x => some (1, 0x14, h, withReg h (eofVR x))
  | .vcmp h x => some (1, 0x15, h, withReg h (eofVR x))
  | .vsel h x => some (1, 0x16, h, withReg h (eofVR x))
  | .vred h x => some (1, 0x17, h, withReg h (eofVR x))
  | .vscan h x => some (1, 0x18, h, withReg h (eofVR x))
  | .vperm h x => some (1, 0x19, h, withReg h (eofVR x))
  | .vbcast h x => some (1, 0x1A, h, withReg h (eofVR x))
  | .viota h x => some (1, 0x1B, h, withReg h (eofVR x))
  | .vpack h x => some (1, 0x1C, h, withReg h (eofVR x))
  | .vunpk h x => some (1, 0x1D, h, withReg h (eofVR x))
  | .vqnt h x => some (1, 0x1E, h, eofVC x)
  | .vdqnt h x => some (1, 0x1F, h, eofVC x)
  | .vld h x => some (1, 0x20, h, withReg h (eofVM x))
  | .vst h x => some (1, 0x21, h, withReg h (eofVM x))
  | .vldx h x => some (1, 0x22, h, withReg h (eofVX x))
  | .vstx h x => some (1, 0x23, h, withReg h (eofVX x))
  | .vmovc h vd lane pair => some (1, 0x24, h, withReg h (eofVMOVC vd lane pair))
  | .vmsk h md ma mb mop => some (1, 0x25, h, withReg h (eofVMSK md ma mb mop))
  | .vtbld h sel typ vd va => some (1, 0x26, h, eofVTBLD sel typ vd va)
  | .vsmx h dlog vd va vb => some (1, 0x27, h, withReg h (eofVSMX dlog vd va vb))
  | .mnop h => some (2, 0x00, h, withReg h (0))
  | .mgo h => some (2, 0x01, h, withReg h (0))
  | .mmul h nsub z => some (2, 0x02, h, withReg h (eofM2 nsub z))
  | .mgath h nsub z nrow => some (2, 0x03, h, withReg h (eofMG nsub z nrow))
  | .mlut h nsub z kb gsz => some (2, 0x04, h, withReg h (eofML nsub z kb gsz))
  | .mzero h => some (2, 0x05, h, withReg h (0))
  | .mdrain h x => some (2, 0x06, h, withReg h (eofMD x))
  | .xnop h => some (3, 0x00, h, withReg h (0))
  | .xcpy h doff => some (3, 0x01, h, withReg h (eofD doff 0))
  | .xbtab h doff => some (3, 0x02, h, withReg h (eofD doff 0))
  | .xsgl h doff => some (3, 0x03, h, withReg h (eofD doff 0))
  | .xfill h doff => some (3, 0x04, h, withReg h (eofD doff 0))
  | .xbst h doff => some (3, 0x05, h, withReg h (eofD doff 0))
  | .xmap h doff => some (3, 0x06, h, withReg h (eofD doff 0))
  | .xmapUnmap h doff => some (3, 0x06, h, withReg h (eofD doff 1))
  | .gnop h => some (4, 0x00, h, withReg h (0))
  | .ggath h doff => some (4, 0x01, h, withReg h (eofD doff 0))
  | .gscat h doff => some (4, 0x02, h, withReg h (eofD doff 0))
  | .gscadd h doff => some (4, 0x03, h, withReg h (eofD doff 0))
  | .gcmpct h doff => some (4, 0x04, h, withReg h (eofD doff 0))
  | .glive h doff => some (4, 0x05, h, withReg h (eofD doff 0))
  | .lnop h => some (5, 0x00, h, withReg h (0))
  | .lput h doff => some (5, 0x01, h, withReg h (eofD doff 0))
  | .lget h doff => some (5, 0x02, h, withReg h (eofD doff 0))
  | .lenq h doff => some (5, 0x03, h, withReg h (eofD doff 0))
  | .lsig h doff => some (5, 0x04, h, withReg h (eofD doff 0))
  | .lred h doff => some (5, 0x05, h, withReg h (eofD doff 0))
  | .snop h => some (6, 0x00, h, withReg h (0))
  | .sattn h doff => some (6, 0x01, h, withReg h (eofD doff 0))
  | .skvapp h doff => some (6, 0x02, h, withReg h (eofD doff 0))
  | .sscore h doff => some (6, 0x03, h, withReg h (eofD doff 0))
  | .scpy h doff => some (6, 0x04, h, withReg h (eofD doff 0))
  | .sprobe h doff => some (6, 0x05, h, withReg h (eofD doff 0))
  | _ => none

/-- The 64-bit word of an instruction; none for a row that has no word (an event, DISPATCH, and the rows
of ERET other than ERET_RESUME, which share its word, R366). -/
def encodeWord (i : Instr) : Option Nat :=
  match encodeControl i with
  | some (op, body) => some (packF [(53, body), (8, op), (3, 0)])
  | none =>
    match encodeEngine i with
    | some (cls, eop, h, eof) =>
      some (packF [(30, eof), (1, h.cap), (6, eop), (4, h.sinc), (8, h.ssem), (4, h.wneed), (8, h.wsem), (3, cls)])
    | none => none

/-- The little-endian bytes of a number (R5). -/
def toBytes : Nat → Nat → List Byte
  | 0, _ => []
  | n + 1, v => BitVec.ofNat 8 (v % 256) :: toBytes n (v / 256)
/-- The number that little-endian bytes hold (R5). -/
def ofBytes : List Byte → Nat
  | [] => 0
  | b :: r => b.toNat + 256 * ofBytes r

/-- Decodes the instruction at the front of a byte list, and the bytes after it. -/
def decode (bs : List Byte) : Except Illegal (Instr × List Byte) :=
  match decodeWord (ofBytes (bs.take 8)) with
  | .ok i => .ok (i, bs.drop 8)
  | .error e => .error e

/-- What this decoder reads from an instruction whose bits are `w` (bits above `nbits` zero): the word is
laid out as eight little-endian bytes, as the hardware stores it (R178). -/
def decodeTableWord (nbits w : Nat) : Option Instr :=
  match decode (toBytes 8 (w % 2 ^ nbits)) with
  | .ok (i, _) => some i
  | .error _ => none

end Sys2Proof
end

