-- ==== Sys2Proof/Machine/Engine.lean ====
section
/-! DEFINITION. Commands of the engine queues: dispatch, the start of a command, its wait and signal, and
how it completes, stops or restarts (R119, R138, R139, R180 to R183, R317, R326, R327, R358, R372, R373). -/
namespace Sys2Proof.Machine

-- ## Dispatch

/-- The queue of an engine-class word, and the captured register its legality asks for. -/
def engineQueue (word : Nat) : Option Nat :=
  let c := bits word 63 61
  match decodeWord word with
  | .ok _ => if 1 ≤ c && c ≤ 6 then some (c - 1) else none
  | .error _ => none
def isMgo (word : Nat) : Bool := bits word 63 61 = 2 && bits word 36 31 = 1
/-- R138. -/
def execDispatch (word : Nat) (s : State) : Out :=
  match engineQueue word with
  | none => .next (s.raise cIllegal 0)
  | some q =>
    let reg := if bit word 30 then bits word 29 24 else 0
    ctl .tile 0 [reg] [] (do
      let s ← get
      let r := s.ring s.cur q
      needRing q r.v
      waitFor (r.filled < r.size && !(isMgo word && s.here.mcOcc))
      wrSp (← curAcc) (r.slot r.tail) (bytesOf 8 word ++ bytesOf 8 (s.g reg).toNat)
      modify fun s => ((s.setRing s.cur q { r with tail := (r.tail + 1) % 65536 }).setEngq s.cur q
        { s.engq s.cur q with next := ((s.engq s.cur q).next + 1) % 2 ^ 32 }).modHere fun t =>
          if isMgo word then { t with mcPending := t.mcShadow, mcOcc := true } else t
      next) s

-- ## The head of a queue

/-- Commands of the queue that have not started. -/
def State.unstarted (s : State) (t q : Nat) : Nat := (s.ring t q).filled - (if (s.engq t q).cur.isSome then 1 else 0)
/-- Queue sequence of the command in the head slot. -/
def State.headSeq (s : State) (t q : Nat) : Nat := ((s.engq t q).next + 2 ^ 32 - (s.ring t q).filled % 2 ^ 32) % 2 ^ 32
/-- Word and captured value of the head slot (R182). -/
def State.headWord (s : State) (t q : Nat) : Nat := (s.place t).spNum ((s.ring t q).slot (s.ring t q).head) 8
def State.headCap (s : State) (t q : Nat) : Nat := (s.place t).spNum ((s.ring t q).slot (s.ring t q).head + 8) 8
/-- The engines are frozen: a handler runs, or the core is halted (R270, R358). -/
def Place.enginesFrozen (p : Place) : Bool := p.frozen || p.hold == .halted
/-- Engines start commands of a context that runs: not at a freeze, but for the queues that QSTEP names
(R358, R373). A queue whose reset has not completed starts none. -/
def Place.starts (p : Place) (q : Nat) : Bool :=
  p.step.isSome && (match p.qstep with
    | some (todo, _) => bit todo q
    -- a light switch waits until the queues are drained (R153)
    | none => !p.enginesFrozen && p.switch.all p.lightOk && p.hold != .escalated)
/-- The VE's time base runs (R358, R361). -/
def Place.veRuns (p : Place) : Bool := p.qstep.isSome || p.starts 0
def Place.waitMet (p : Place) (h : Hdr) : Bool := h.wneed = 0 || h.wneed ≤ p.getSem h.wsem
/-- Subtract the wait of a command of queue `q`, which is an acquire (R118, R119). -/
def Place.takeWait (p : Place) (q : Nat) (h : Hdr) : Place :=
  if h.wneed = 0 then p else (p.setSem h.wsem (p.getSem h.wsem - h.wneed)).acquireFrom q h.wsem
/-- A command that goes back to unstarted leaves no effect: its wait is given back (R360). -/
def Place.giveWait (p : Place) (h : Hdr) : Place := if h.wneed = 0 then p else p.setSem h.wsem (p.getSem h.wsem + h.wneed)
/-- A queue has taken its engine step (R373). -/
def Place.stepped (p : Place) (q : Nat) (did : Bool) : Place :=
  { p with qstep := p.qstep.map fun (todo, done) => (setBits todo q q 0, if did then setBits done q q 1 else done) }

-- ## How a command ends

/-- Key of what is kept of a queue's command that goes on later. -/
def State.progressKey (s : State) (t q : Nat) : Nat := 8 * ((s.place t).ctx + 65537 * (s.place t).gpos) + q
/-- The slot of the head command is free, and nothing is started. -/
def State.freeSlot (s : State) (t q : Nat) : State :=
  let r := s.ring t q
  { (s.setRing t q { r with head := (r.head + 1) % 65536 }).setEngq t q { s.engq t q with cur := none, since := none } with
    progress := fdel (s.progressKey t q) s.progress }
/-- Post a cause of a command to its context. -/
def State.postCmd (s : State) (t q seq code : Nat) : State := s.post t ⟨code, seq, some q⟩
/-- A command has completed: its count, its signal unless it met a cause, and that cause. -/
def State.completed (s : State) (t q seq ssem sinc : Nat) : State :=
  let s := s.count t (2 + q) 1
  match (s.place t).met with
  | some c => s.postCmd t q seq c
  | none => (if sinc = 0 then s else s.modPlace t fun p => p.releaseTo q ssem).signal t ssem sinc ⟨cSemovf, seq, some q⟩
/-- Complete the head command. -/
def State.finish (s : State) (t q seq : Nat) (h : Hdr) (killed : Bool) : State :=
  ((s.freeSlot t q).completed t q seq h.ssem (if killed then 0 else h.sinc)).modPlace t fun p => { p with met := none }
/-- Note a cause that a running command meets: it goes on and adds no signal (R52, R81). -/
def meet (t c : Nat) : M Unit := onPlace t fun p => { p with met := some (p.met.getD c) }

/-- What follows a command's effect. -/
inductive Done where
  /-- it has completed -/
  | now
  /-- a vector result is on its way: the slot is free, the signal comes with the landing -/
  | lands
  /-- it has started -/
  | started (f : InFlight)

/-- An agent of memory for a command. -/
def State.cmdAcc (s : State) (t q seq : Nat) : Acc :=
  let p := s.place t
  ⟨t, p.asid, p.vf, p.ctx, some q, seq⟩
/-- Only whole elements of a command's progress stay (R327): those of XSGL and GSCADD. -/
def State.restartAt (s : State) (t q : Nat) : State :=
  let k := s.progressKey t q
  match fget? s.progress k with
  | some (seq, n) =>
    let whole := n % 2 ^ 64 / 2 ^ 32
    { s with progress := if whole = 0 then fdel k s.progress else fput k (seq, whole * 2 ^ 32) s.progress }
  | none => s
/-- A command whose read must wait: it is unstarted again, and for a park the context leaves (R40, R327). -/
def State.restartCmd (s : State) (t q : Nat) (h : Hdr) (park : Option (Nat × Nat)) : State :=
  let s := ((s.setEngq t q { s.engq t q with cur := none }).restartAt t q).modPlace t fun p => { p.giveWait h with met := none }
  match park with
  | some (r, i) => (s.modPlace t fun p => p.stepped q false).parkFor t r i
  | none => s

/-- A command is started, and keeps the cause that it has met. -/
def State.carry (s : State) (t q : Nat) (f : InFlight) : State :=
  (s.setEngq t q { s.engq t q with cur := some { f with met := (s.place t).met } }).modPlace t fun p => { p with met := none }
/-- A queue starts nothing: no tile, no command to start, one that is started, an engine that does not run (R138, R358), a
reset under way (R274), or stores of it that wait for room to be held (R43). -/
def State.queueRests (s : State) (t q : Nat) : Bool :=
  !isTile t || (s.ring t q).filled = 0 || (s.engq t q).cur.isSome || !(s.place t).starts q || (fget? s.qresets (8 * t + q)).isSome || s.queueBlocked t q
/-- One step of the head command of queue `q` of the acting tile: wait until the semaphore has its count,
subtract it, make `checks`, and do `body`. A failed check leaves no effect. -/
def State.command {α} (s : State) (q : Nat) (h : Hdr) (checks : Acc → Nat → M α) (body : Acc → α → M Done) : State :=
  let t := s.cur
  let p := s.here
  if s.queueRests t q then s
  else if !p.waitMet h then
    (s.setEngq t q { s.engq t q with since := some ((s.engq t q).since.getD s.tick) }).modPlace t fun p => p.stepped q false
  else
    let seq := s.headSeq t q
    let s1 := (s.setEngq t q { s.engq t q with since := none }).modPlace t fun p => { p.takeWait q h with met := none }
    let fail (s : State) (c : Nat) : State :=
      (s.modPlace t fun p => ({ p with met := some c, veIssued := p.veIssued || q = 0 }).stepped q true).finish t q seq h false
    let again (s : State) : Stop → State
      | .trap c _ | .trapAfter c _ => fail s c
      | .park r i => s.restartCmd t q h (some (r, i))
      | .stall => s.restartCmd t q h none
    match (checks (s1.cmdAcc t q seq) (s.headCap t q)).run s1 with
    | .error (.trap c _) s2 => fail { s1 with mtus := s2.mtus } c
    | .error e s2 => again s2 e
    | .ok a s2 => match (body (s2.cmdAcc t q seq) a).run s2 with
      | .error e s3 => again s3 e
      | .ok .now s3 => (s3.modPlace t fun p => p.stepped q true).finish t q seq h false
      | .ok .lands s3 => (s3.freeSlot t q).modPlace t fun p => { p.stepped q true with met := none }
      | .ok (.started f) s3 => (s3.carry t q f).modPlace t fun p => p.stepped q true

/-- A command without a check and without an effect on memory: the no-op of R183. -/
def noop (q : Nat) (h : Hdr) (s : State) : Out :=
  .next (s.command q h (fun _ _ => pure ()) fun _ _ => return .now)

/-- Read scratchpad for a command: a poisoned word is used as read, and the command meets POISON (R52). -/
def cmdRd (a : Acc) (o n : Nat) : M (List Byte) := do
  let bs ← rdSp a o n
  if ((← get).place a.place).spBad o n then meet a.place cPoison
  return bs
def cmdRdN (a : Acc) (o n : Nat) : M Nat := do return numOf (← cmdRd a o n)
/-- Global reads and writes of a command through the tile's L1 (R55). -/
def cmdRdL1 (a : Acc) (va n : Nat) : M (List Byte) := readL1 a va n
def cmdWrL1 (a : Acc) (va : Nat) (bs : List Byte) : M Unit := writeL1 a va bs 15 0 false a.seq

-- ## Effects that take several turns (R110, R119, R327)

/-- What a command keeps of its progress. -/
def State.progressAll (s : State) (a : Acc) : Nat :=
  match fget? s.progress (s.progressKey a.place (a.queue.getD 0)) with
  | some (seq, n) => if seq = a.seq then n else 0
  | none => 0
def State.setProgressAll (s : State) (a : Acc) (n : Nat) : State :=
  let k := s.progressKey a.place (a.queue.getD 0)
  { s with progress := if n = 0 then fdel k s.progress else fput k (a.seq, n) s.progress }
/-- Progress of a command: 2^32 times the element in progress, at which it restarts after a park, and the pieces of that
element that are done. -/
def State.progressOf (s : State) (a : Acc) : Nat := s.progressAll a % 2 ^ 64
def setProgress (a : Acc) (n : Nat) : M Unit :=
  modify fun s => s.setProgressAll a (s.progressAll a / 2 ^ 64 * 2 ^ 64 + n)
/-- Bytes that a command has read ahead of its next piece: the rest of an 8-byte element, which is read once (R122). -/
def State.carried (s : State) (a : Acc) (n : Nat) : List Byte := bytesOf n (s.progressAll a / 2 ^ 64)
def setCarried (a : Acc) (bs : List Byte) : M Unit :=
  modify fun s => s.setProgressAll a (numOf bs * 2 ^ 64 + s.progressOf a)
/-- The pieces of one element that are left, each once; a piece that answers false is the last. -/
def piecesWhile (a : Acc) (elem : Nat) : Nat → List (M Bool) → M Unit
  | _, [] => pure ()
  | j, p :: r => do
    if ← p then
      setProgress a (2 ^ 32 * elem + j + 1)
      piecesWhile a elem (j + 1) r
def piecesOf (a : Acc) (elem done : Nat) (l : List (M Unit)) : M Unit :=
  piecesWhile a elem done ((l.drop done).map fun p => do
    p
    return true)
/-- The elements of a command in their order, each a guard and its pieces: what was done before a stall is not repeated,
so that every write is merged once (R110). -/
def elementsOf (a : Acc) (l : List (M Bool × List (M Unit))) : M Unit := do
  let done := (← get).progressOf a
  ((l.zip (range 0 l.length)).drop (done / 2 ^ 32)).forM fun ((c, ps), i) => do
    let k := if i = done / 2 ^ 32 then done % 2 ^ 32 else 0
    if k ≠ 0 || (← c) then piecesOf a i k ps
    setProgress a (2 ^ 32 * (i + 1))
/-- A command of one element. -/
def pieces (a : Acc) (l : List (M Unit)) : M Unit := do piecesOf a 0 ((← get).progressOf a) l
/-- An effect that happens as a whole: while something that it needs is on its way, it has not begun. -/
def whole {α} (m : M α) : M α := do
  let s ← get
  match m.run s with
  | .ok x s' =>
    set s'
    return x
  | .error .stall s' =>
    set (s.keepAsks s')
    throw .stall
  | .error e s' =>
    set s'
    throw e
/-- The started command of a queue goes on. It has completed once no write of it is held (R119). -/
def State.runCmd (s : State) (q : Nat) (h : Hdr) (f : InFlight) (perform : Acc → List Nat → M Unit) : State :=
  let t := s.cur
  let a := s.cmdAcc t q f.seq
  match (perform a f.desc).run (s.modPlace t fun p => { p with met := f.met }) with
  | .ok _ s => if s.holdsOf a.ctx q f.seq && (q = 2 || q = 5) then s.carry t q f else s.finish t q f.seq h f.killed
  | .error (.trap c _) s | .error (.trapAfter c _) s => (s.modPlace t fun p => { p with met := some c }).finish t q f.seq h f.killed
  | .error (.park r i) s => if f.killed then s.finish t q f.seq h true else (s.modPlace t fun p => { p with met := none }).restartCmd t q h (some (r, i))
  | .error .stall s => s.carry t q f
/-- A command whose effect may take several turns: it makes its checks at its start, keeps what they answer, and begins. -/
def lasting (q : Nat) (h : Hdr) (checks : Acc → Nat → M (List Nat)) (perform : Acc → List Nat → M Unit) (s : State) : Out :=
  match (s.engq s.cur q).cur with
  | some f => .next (s.runCmd q h f perform)
  | none =>
    let word := s.headWord s.cur q
    let s' := s.command q h (fun a x => do return (x, ← checks a x)) fun a (x, desc) =>
      return .started ⟨a.seq, word, BitVec.ofNat 64 x, 0, false, desc, none⟩
    match (s'.engq s.cur q).cur with
    | some f => .next (s'.runCmd q h f perform)
    | none => .next s'

-- ## Descriptors (R325, R326, R328)

/-- The descriptor's offset and its checks: 32-byte aligned and inside the scratchpad. -/
def descOff (h : Hdr) (doff capv len : Nat) : M Nat := do
  let o := if h.cap = 1 then capv else 32 * doff
  need cAlign (o % 32 = 0)
  need cSpbound (o + len ≤ 0x180000)
  return o
/-- Read a descriptor and check its FORM. -/
def readDesc (a : Acc) (h : Hdr) (doff capv len form : Nat) : M Nat := do
  let o ← descOff h doff capv len
  let d ← cmdRdN a o len
  need cHdrfmt (d % 16 = form)
  return d
/-- Every byte of a scratchpad range exists. -/
def spOk (o n : Nat) : M Unit := need cSpbound (n = 0 || o + n ≤ 0x180000)
/-- Every byte of a global range may be accessed (R11, R26, R27); R11 comes first. -/
def vaOk (va n : Nat) : M Unit := need cPerm (n = 0 || (va < 2 ^ 56 && va + n ≤ 2 ^ 56))
/-- Lines' regions of a range. -/
def regionsOf (va n : Nat) : List Nat :=
  if n = 0 then [] else (range (va / 2 ^ 21) ((va + n - 1) / 2 ^ 21 + 1 - va / 2 ^ 21)).map fun r => max va (r * 2 ^ 21)
def permOk (a : Acc) (va n : Nat) (nd : Need) : M Unit :=
  (regionsOf va n).forM fun v => do
    let p ← checkPerm a v nd
    need cPerm (!p.dev)
/-- A poisoned granule: whether it has a clean copy (R104). -/
def State.poisonAt (s : State) (asid va : Nat) : Option Bool :=
  match s.walkPage asid va with
  | .leaf e l =>
    if s.pstAt (s.keyOf asid va) e l = 3 then some ((s.granAt asid va).any fun g => g.2.clean) else none
  | _ => none
/-- A global range that a command is to read: on a poisoned granule with a clean copy the context parks, without one the
command takes POISON at its start (R105). -/
def poisonOk (a : Acc) (va n : Nat) : M Unit := do
  let s ← get
  if n ≠ 0 then
    (range (va / 8192) ((va + n - 1) / 8192 + 1 - va / 8192)).forM fun g =>
      match s.poisonAt a.asid (8192 * g) with
      | some true => throw (.park 3 (8192 * g))
      | some false => trap cPoison
      | none => pure ()

end Sys2Proof.Machine
end

