-- ==== Sys2Proof/Machine/Copy.lean ====
section
/-! DEFINITION. The copy engine: descriptors, promised ticks and the commands of chapter 12 (R325 to R337). -/
namespace Sys2Proof.Machine

-- ## Membership (R147, R348)

/-- MEMB of a command: none, or a member of the batched step, whose bit is set or clear at its start. -/
inductive Memb where
  | none
  | live (i : Nat)
  | gone
  deriving DecidableEq, Repr
/-- MEMB's checks and the map as the command reads it once. -/
def readMemb (a : Acc) (m : Nat) : M Memb := do
  need cHdrfmt (m ≤ 0x100)
  if m = 0x100 then return .none
  let s ← get
  let batched := match s.stepAt a.place with
    | some st => st.batched
    | .none => false
  need cHdrfmt batched
  return if bit (s.bmaskNat a.place) m then .live m else .gone
/-- An event of a member's KV object clears its bit and parks it, and the command ends at once (R151, R348);
a T3 granule is such an event too (R94). The line with held writes that its read met is that member's (R43). -/
def dropMember (a : Acc) (i reason info : Nat) : M Unit :=
  modify fun s => match s.stepAt a.place with
    | some st =>
      match nth? st.members i with
      | some c =>
        let s := (s.notePark (dieOf a.place) c reason (s.place a.place).cc.pc.toNat a.place).clearMember st i
        let s := match if reason = 2 then fget? s.lateLine a.ctx else .none with
          | some l => { s with fenceMask := fdel c s.fenceMask, lateHeld := fdel c s.lateHeld, lateLine := fput c l (fdel a.ctx s.lateLine) }
          | .none => s
        s.parkCtx c reason info
      | .none => s.clearMember st i
    | .none => s
/-- Run reads of a member's KV object: an event that would park ends the command for that member, and there is no answer. -/
def forMember {α} (a : Acc) (m : Memb) (body : M α) : M (Option α) := do
  let s ← get
  match m, body.run s with
  | .live i, .error (.park r info) s' =>
    set s'
    dropMember a i r info
    return none
  | _, .ok x s' =>
    set s'
    return some x
  | _, .error e s' =>
    set s'
    throw e
/-- The checks of a command whose MEMB may name a member, in the order of R326: MEMB, then what `form` reads of its KV
objects (none where R96 refuses a handle), `bounds`, and `perms`. No answer when the member has left (R348). -/
def memberChecks {κ α} (a : Acc) (memb : Nat) (form : M (Option κ)) (bounds : Option κ → M Unit) (perms : κ → M α) : M (Memb × Option α) := do
  match ← readMemb a memb with
  | .gone => do
    bounds none
    return (.gone, none)
  | m => return (m, ← forMember a m do
    let k ← form
    bounds k
    match k with
    | some k => perms k
    | none => trap cPerm)

-- ## Paths of the XE (R55)

/-- One end of a move: scratchpad, or global memory. -/
def xeRead (a : Acc) (sp : Bool) (o n : Nat) : M (List Byte) := if sp then cmdRd a o n else readHome a true o n
def xeWrite (a : Acc) (sp : Bool) (o : Nat) (bs : List Byte) : M Unit := if sp then wrSp a o bs else writeHome a o bs
/-- Parts of a row, each within one line of the destination: offset and length. -/
def rowParts (dst n : Nat) : List (Nat × Nat) := (spanLines dst n).map fun (l, off, m) => (l + off - dst, m)
/-- Bytes from an address to the next multiple of 8. -/
def toElement (o : Nat) : Nat := (8 - o % 8) % 8
/-- Bytes of one part of a row of `n` bytes from `src`: the source is read in whole aligned 8-byte elements, each once, and
what one has beyond the part is kept for the next (R122). -/
def partBytes (a : Acc) (src n o m : Nat) (read : Nat → Nat → M (List Byte)) : M (List Byte) := do
  let had := if o = 0 then 0 else min (n - o) (toElement (src + o))
  let hi := min n (o + m + toElement (src + o + m))
  let bs := (← get).carried a had ++ (← read (src + o + had) (hi - (o + had)))
  setCarried a (bs.drop m)
  return bs.take m
/-- Copy a row part by part, ascending. -/
def xeMove (a : Acc) (ssp : Bool) (src : Nat) (dsp : Bool) (dst n : Nat) : List (M Unit) :=
  (rowParts dst n).map fun (o, m) => whole do xeWrite a dsp (dst + o) (← partBytes a src n o m (xeRead a ssp))
/-- Write a row of given bytes part by part. -/
def xePut (a : Acc) (dsp : Bool) (dst : Nat) (bs : List Byte) : List (M Unit) :=
  (spanLines dst bs.length).map fun (l, off, m) => xeWrite a dsp (l + off) ((bs.drop (l + off - dst)).take m)
/-- Byte ranges of two lists meet (R330). -/
def rangesMeet (l r : List (Nat × Nat)) : Bool :=
  l.any fun x => r.any fun y => x.2 ≠ 0 && y.2 ≠ 0 && x.1 < y.1 + y.2 && y.1 < x.1 + x.2
/-- Checks of the ends' ranges in the order of R326: scratchpad bytes, R11, then alignment, then permission. -/
def endSp (sp : Bool) (l : List (Nat × Nat)) : M Unit := if sp then l.forM fun (o, n) => spOk o n else pure ()
def endVa (sp : Bool) (l : List (Nat × Nat)) : M Unit := if sp then pure () else l.forM fun (o, n) => vaOk o n
def endBytes (l : List (Bool × List (Nat × Nat))) : M Unit := do
  l.forM fun (sp, r) => endSp sp r
  l.forM fun (sp, r) => endVa sp r
def endPerm (a : Acc) (sp : Bool) (l : List (Nat × Nat)) (nd : Need) : M Unit :=
  if sp then pure () else l.forM fun (o, n) => permOk a o n nd
/-- No poisoned granule of an end that is read (R105), the last check. -/
def endSound (a : Acc) (sp : Bool) (l : List (Nat × Nat)) : M Unit :=
  if sp then pure () else l.forM fun (o, n) => poisonOk a o n

-- ## Promised ticks (R337)

/-- Class of an end: c and X. -/
def endClass (tier : Nat) : Nat × Nat := if tier ≤ 1 then (1, 0) else if tier = 2 then (3, 1000) else (6, 3000)
/-- Tier of the worst granule of a global range, 3 for one that is not resident. -/
def State.worstTier (s : State) (asid va n : Nat) : Nat :=
  if n = 0 then 0
  else (range (va / 8192) ((va + n - 1) / 8192 + 1 - va / 8192)).foldl (fun w g =>
    let t := match s.granAt asid (8192 * g) with
      | some (_, p) => if p.st = 0 then p.tier else 3
      | none => match s.vaPa asid (8192 * g) with
        | some pa => tierOf pa
        | none => 3
    max w t) 0
def State.endOf (s : State) (a : Acc) (sp : Bool) (o n : Nat) : Nat := if sp then 0 else s.worstTier a.asid o n
/-- Ticks of a command whose moves have the given worst tier and length. -/
def promiseTicks (l : List (Nat × Nat)) : Nat :=
  300 + l.foldl (fun x e => max x (if e.2 = 0 then 0 else (endClass e.1).2)) 0 + l.foldl (fun x e => x + (endClass e.1).1 * ((e.2 + 127) / 128)) 0

-- ## Start and end of a copy

/-- A copy command: at its start it makes its checks and takes its promised tick; then it performs. -/
def xe (h : Hdr) (checks : Acc → Nat → M (List Nat × List (Nat × Nat))) (perform : Acc → List Nat → M Unit) (s : State) : Out :=
  match (s.engq s.cur 2).cur with
  | some f => .next (s.runCmd 2 h f perform)
  | none =>
    let word := s.headWord s.cur 2
    .next (s.command 2 h (fun a capv => do
      let (desc, moves) ← checks a capv
      return (capv, desc, moves)) fun a (capv, desc, moves) => do
        let v ← loggedValue 2 a.seq (BitVec.ofNat 64 ((← get).tick + promiseTicks moves))
        return .started ⟨a.seq, word, BitVec.ofNat 64 capv, v.toNat, false, desc, none⟩)

-- ## Fields of the XE descriptor (R329)

/-- An XE descriptor as its 512 bits. -/
structure Xd where
  w : Nat
def Xd.src (d : Xd) : Nat := bits d.w 511 456
def Xd.dst (d : Xd) : Nat := bits d.w 455 400
def Xd.len (d : Xd) : Nat := bits d.w 399 368
def Xd.rows (d : Xd) : Nat := bits d.w 367 352
def Xd.spitch (d : Xd) : Nat := bits d.w 351 320
def Xd.dpitch (d : Xd) : Nat := bits d.w 319 288
def Xd.pat (d : Xd) : Nat := bits d.w 287 224
def Xd.handle (d : Xd) : Nat := bits d.w 223 192
def Xd.first (d : Xd) : Nat := bits d.w 191 176
def Xd.layer (d : Xd) : Nat := bits d.w 175 168
def Xd.memb (d : Xd) : Nat := bits d.w 167 159
def Xd.xent (d : Xd) : Nat := bits d.w 158 155
def Xd.wb (d : Xd) : Nat := bits d.w 154 153
def Xd.lazy (d : Xd) : Bool := bit d.w 152
def Xd.pw (d : Xd) : Nat := 2 ^ bits d.w 151 150
def Xd.sas (d : Xd) : Bool := bit d.w 149
def Xd.das (d : Xd) : Bool := bit d.w 148
/-- Fields by their high bits, which a command uses; every other field and every reserved bit is zero. -/
def Xd.uses (d : Xd) (l : List Nat) : Bool :=
  let fields : List (Nat × Nat) := [(511, 456), (455, 400), (399, 368), (367, 352), (351, 320), (319, 288), (287, 224), (223, 192), (191, 176),
    (175, 168), (167, 159), (158, 155), (154, 153), (152, 152), (151, 150), (149, 149), (148, 148)]
  bits d.w 147 4 = 0 && fields.all fun (hi, lo) => l.contains hi || bits d.w hi lo = 0
/-- A scratchpad offset has its high bits zero (R329). -/
def spField (sp : Bool) (o : Nat) : Bool := !sp || o < 2 ^ 21
/-- Rows of an end. -/
def rowsOf (o pitch rows len : Nat) : List (Nat × Nat) := (range 0 rows).map fun r => (o + r * pitch, len)
def readXd (a : Acc) (h : Hdr) (doff capv : Nat) : M Xd := do return ⟨← readDesc a h doff capv 64 1⟩

def execXnop (h : Hdr) (s : State) : Out := noop 2 h s

-- ## XCPY, XSGL, XFILL (R330 to R333)

def execXcpy (h : Hdr) (doff : Nat) (s : State) : Out :=
  xe h (fun a capv => do
    let d ← readXd a h doff capv
    need cHdrfmt (d.uses [511, 455, 399, 367, 351, 319, 149, 148] && d.rows ≠ 0 && spField d.sas d.src && spField d.das d.dst)
    let src := rowsOf d.src d.spitch d.rows d.len
    let dst := rowsOf d.dst d.dpitch d.rows d.len
    need cHdrfmt (d.sas != d.das || !rangesMeet src dst)
    endBytes [(d.sas, src), (d.das, dst)]
    endPerm a d.sas src .r
    endPerm a d.das dst .w
    endSound a d.sas src
    let s ← get
    return ([d.w], (src.zip dst).map fun (x, y) => (max (s.endOf a d.sas x.1 x.2) (s.endOf a d.das y.1 y.2), d.len))) (fun a l => do
    let d : Xd := ⟨l.headD 0⟩
    pieces a ((range 0 d.rows).flatMap fun r => xeMove a d.sas (d.src + r * d.spitch) d.das (d.dst + r * d.dpitch) d.len)) s

/-- Fields of a scatter-gather element (R331). -/
structure Sge where
  w : Nat
def Sge.src (d : Sge) : Nat := bits d.w 255 200
def Sge.dst (d : Sge) : Nat := bits d.w 199 144
def Sge.len (d : Sge) : Nat := bits d.w 143 112
def Sge.next (d : Sge) : Nat := bits d.w 111 96
def Sge.cw (d : Sge) : Nat := bits d.w 95 78
def Sge.ck (d : Sge) : Nat := bits d.w 77 76
def Sge.sas (d : Sge) : Bool := bit d.w 75
def Sge.das (d : Sge) : Bool := bit d.w 74
def Sge.wf (d : Sge) : Bool := bits d.w 73 0 = 0 && d.ck ≠ 3 && spField d.sas d.src && spField d.das d.dst
/-- Walk the chain from an offset: the offsets and elements. A chain over 1,024 elements, or one that comes back, is
HDRFMT. -/
def walkChain (a : Acc) : Nat → Nat → List Nat → M (List Nat)
  | 0, _, _ => trap cHdrfmt
  | n + 1, o, seen => do
    need cSpbound (o + 32 ≤ 0x180000)
    need cHdrfmt (!seen.contains o)
    let e : Sge := ⟨← cmdRdN a o 32⟩
    if e.next = 0xFFFF then return [e.w]
    return e.w :: (← walkChain a n (32 * e.next) (o :: seen))
/-- The element is skipped (R331). -/
def skipped (a : Acc) (e : Sge) : M Bool := do
  if e.ck = 0 then return false
  let v ← cmdRdN a (8 * e.cw) 8
  return if e.ck = 1 then v = 0 else v ≠ 0
def execXsgl (h : Hdr) (doff : Nat) (s : State) : Out :=
  xe h (fun a capv => do
    let o ← descOff h doff capv 32
    let l ← walkChain a 1024 o []
    let es := l.map Sge.mk
    need cHdrfmt (es.all fun e => e.wf && (e.sas != e.das || !rangesMeet [(e.src, e.len)] [(e.dst, e.len)]))
    es.forM fun e => if e.ck ≠ 0 then spOk (8 * e.cw) 8 else pure ()
    endBytes (es.flatMap fun e => [(e.sas, [(e.src, e.len)]), (e.das, [(e.dst, e.len)])])
    es.forM fun e => do
      endPerm a e.sas [(e.src, e.len)] .r
      endPerm a e.das [(e.dst, e.len)] .w
    es.forM fun e => endSound a e.sas [(e.src, e.len)]
    let s ← get
    return (l, es.map fun e => (max (s.endOf a e.sas e.src e.len) (s.endOf a e.das e.dst e.len), e.len))) (fun a l => do
    elementsOf a (l.map fun w =>
      let e : Sge := ⟨w⟩
      (do return !(← skipped a e), xeMove a e.sas e.src e.das e.dst e.len))) s

/-- The pattern bytes of an XFILL row. -/
def fillBytes (pat pw n : Nat) : List Byte := (range 0 n).map fun i => BitVec.ofNat 8 (pat / 256 ^ (i % pw))
def execXfill (h : Hdr) (doff : Nat) (s : State) : Out :=
  xe h (fun a capv => do
    let d ← readXd a h doff capv
    need cHdrfmt (d.uses [455, 399, 367, 319, 287, 151, 148] && d.rows ≠ 0 && spField d.das d.dst)
    let dst := rowsOf d.dst d.dpitch d.rows d.len
    endBytes [(d.das, dst)]
    need cAlign (d.dst % d.pw = 0 && d.dpitch % d.pw = 0 && d.len % d.pw = 0)
    endPerm a d.das dst .w
    let s ← get
    return ([d.w], dst.map fun y => (s.endOf a d.das y.1 y.2, d.len))) (fun a l => do
    let d : Xd := ⟨l.headD 0⟩
    pieces a ((range 0 d.rows).flatMap fun r => xePut a d.das (d.dst + r * d.dpitch) (fillBytes d.pat d.pw d.len))) s

-- ## XBST, XBTAB (R77 to R80, R334, R335)

def execXbst (h : Hdr) (doff : Nat) (s : State) : Out :=
  xe h (fun a capv => do
    let d ← readXd a h doff capv
    need cHdrfmt (d.uses [511, 455, 399, 367, 149] && d.rows = 1 && spField d.sas d.src)
    endSp d.sas [(d.src, d.len)]
    need cSpbound (d.len = 0 || d.dst + d.len ≤ 0xC00000)
    endVa d.sas [(d.src, d.len)]
    need cAlign (d.dst % 1024 = 0 && d.len % 1024 = 0)
    endPerm a d.sas [(d.src, d.len)] .r
    let s ← get
    need cPerm ((s.place a.place).slotOf a.vf).isSome
    endSound a d.sas [(d.src, d.len)]
    return ([d.w], [(s.endOf a d.sas d.src d.len, d.len)])) (fun a l => do
    let d : Xd := ⟨l.headD 0⟩
    pieces a ((range 0 (d.len / 1024)).map fun i => do
      let bs ← xeRead a d.sas (d.src + 1024 * i) 1024
      let s ← get
      match (s.place a.place).slotOf a.vf with
      | none => trap cPerm
      | some (slot, key) => match s.bstCommit a.place (d.dst / 1024 + i) slot key.key bs with
        | some s => set s
        | none => meet a.place cPerm)) s

/-- The descriptor of a KV object, read once at package scope in the table's address space (R96): none for a handle
that R96 refuses, HDRFMT for an invalid descriptor (R98). -/
def readKvd (a : Acc) (handle : Nat) : M (Option Kvd) := do
  let s ← get
  match s.kvdVa a.vf handle with
  | none => return none
  | some va =>
    let w := numOf (← readHome { a with asid := s.kvtAsid a.vf } false va 64)
    let k : Kvd := ⟨va, w⟩
    if bit w 186 && k.f 239 228 = handle / 2 ^ 20 % 4096 then
      need cHdrfmt k.valid
      return some k
    else return none
/-- The handle's PERM (R326). -/
def needKvd (k : Option Kvd) : M Kvd :=
  match k with
  | some k => pure k
  | none => trap cPerm
/-- VA of a block-table entry. -/
def Kvd.bte (k : Kvd) (layer page : Nat) : Nat := k.btab + 8 * (layer * k.ppl + page)
/-- A block-table entry as a command reads it, at package scope. -/
def readBte (a : Acc) (va : Nat) : M Nat := do return numOf (← readHome a false va 8)
/-- Page of an entry with V = 1. -/
def pageOf (e : Nat) : Option Nat := if bit e 0 then some (bits e 55 16 * 65536) else none
/-- Tier T3 of any granule of a range: such a read is an event for a member (R348). -/
def t3Park (a : Acc) (va n : Nat) : M Unit := do
  let s ← get
  match (range (va / 8192) ((va + n + 8191) / 8192 - va / 8192)).find? fun g =>
      match s.granAt a.asid (8192 * g) with
      | some (_, p) => p.st = 0 && p.tier = 3
      | none => false with
  | some g => throw (.park 4 (8192 * g))
  | none => pure ()
/-- Pages of a range of a layer. -/
def readPages (a : Acc) (k : Kvd) (layer first n : Nat) : M (List (Option Nat)) :=
  (range first n).mapM fun p => do
    permOk a (k.bte layer p) 8 .r
    return pageOf (← readBte a (k.bte layer p))
/-- The fields that XBTAB's pages need, kept with the descriptor: entry bits and page VAs. -/
def packPages (l : List (Option Nat)) : List Nat := l.map fun p => match p with
  | some va => va + 1
  | none => 0
/-- One part of a page's copy; false when the member's object has met an event, which ends the command (R348). -/
def pageMove (a : Acc) (m : Memb) (src : Nat) (dsp : Bool) (dst len o n : Nat) : M Bool := do
  match ← forMember a m (partBytes a src len o n fun va n => do
      t3Park a va n
      readHome a true va n) with
  | some bs =>
    xeWrite a dsp (dst + o) bs
    return true
  | none => return false
def execXbtab (h : Hdr) (doff : Nat) (s : State) : Out :=
  xe h (fun a capv => do
    let d ← readXd a h doff capv
    need cHdrfmt (d.uses [455, 399, 367, 351, 319, 223, 191, 175, 167, 148] && d.rows ≠ 0 && spField d.das d.dst && d.spitch + d.len ≤ 65536)
    let dst := rowsOf d.dst d.dpitch d.rows d.len
    let (m, pages) ← memberChecks a d.memb (do
      let kv ← readKvd a d.handle
      need cHdrfmt (kv.all fun k => d.layer < k.layers && d.first + d.rows ≤ k.ppl)
      return kv) (fun _ => endBytes [(d.das, dst)]) fun k => do
        endPerm a d.das dst .w
        -- the block table, and the permission of every page it names
        let pages ← readPages a k d.layer d.first d.rows
        pages.forM fun p => match p with
          | some va => permOk a (va + d.spitch) d.len .r
          | none => pure ()
        pages.forM fun p => match p with
          | some va => poisonOk a (va + d.spitch) d.len
          | none => pure ()
        return pages
    let s ← get
    match pages with
    | none => return ([d.w, 1], [])
    | some pages => return (d.w :: (match m with | .live i => i + 2 | _ => 0) :: packPages pages, (pages.zip dst).map fun (p, y) =>
        (max (match p with | some va => s.endOf a false (va + d.spitch) d.len | none => 0) (s.endOf a d.das y.1 y.2), d.len))) (fun a l => do
    let d : Xd := ⟨l.headD 0⟩
    let idx := (l.drop 1).headD 0
    if idx ≠ 1 then
      let m : Memb := if idx = 0 then .none else .live (idx - 2)
      let all := (l.drop 2).zip (range 0 d.rows) |>.flatMap fun (p, t) =>
        let o := d.dst + t * d.dpitch
        if p = 0 then (xePut a d.das o (List.replicate d.len 0)).map fun w => do
          w
          return true
        else (rowParts o d.len).map fun (x, n) => whole (pageMove a m (p - 1 + d.spitch) d.das o d.len x n)
      let done := (← get).progressOf a
      piecesWhile a 0 done (all.drop done)) s

-- ## XMAP (R32, R33, R336)

/-- Two ranges meet. -/
def meets (a n b m : Nat) : Bool := a < b + m && b < a + n
def execXmap (h : Hdr) (doff : Nat) (s : State) : Out :=
  xe h (fun a capv => do
    let d ← readXd a h doff capv
    let t := (← get).place a.place
    need cHdrfmt (d.uses [511, 455, 399, 367, 158, 154, 152, 148] && !d.sas && d.das && d.rows = 1 && d.wb ≠ 3 && spField true d.dst &&
      4096 ≤ d.len && d.len ≤ 0x180000 && (fget? t.maps d.xent).isNone)
    need cSpbound (d.dst + d.len ≤ 0x180000 && t.maps.all fun e =>
      !meets d.dst d.len e.2.spbase e.2.len && !meets d.src d.len e.2.vabase e.2.len)
    vaOk d.src d.len
    need cAlign (d.src % 4096 = 0 && d.dst % 4096 = 0 && d.len % 4096 = 0)
    permOk a d.src d.len .r
    if d.wb ≠ 0 then permOk a d.src d.len .w
    if !d.lazy then poisonOk a d.src d.len
    let s ← get
    return ([d.w], if d.lazy then [] else [(s.endOf a false d.src d.len, d.len)])) (fun a l => do
    let d : Xd := ⟨l.headD 0⟩
    let e : MapEntry := ⟨d.src, d.wb, d.lazy, d.len, d.dst, a.seq⟩
    if !d.lazy then
      pieces a ((range 0 (d.len / 128)).map fun i => do wrSp a (d.dst + 128 * i) (← readHome a true (d.src + 128 * i) 128))
    onPlace a.place fun t => { t with
      maps := fput d.xent e t.maps
      mapFilled := (range (d.dst / 128) (d.len / 128)).foldl (fun m i => if d.lazy then fdel i m else fput i true m) t.mapFilled
      mapDirty := fclear t.mapDirty fun i => d.dst ≤ 32 * i && 32 * i < d.dst + d.len }) s
/-- Dirty sectors of a region. -/
def Place.dirtyOf (t : Place) (e : MapEntry) : List Nat :=
  (t.mapDirty.filter fun x => e.spbase ≤ 32 * x.1 && 32 * x.1 < e.spbase + e.len).map (·.1)
def execXmapUnmap (h : Hdr) (doff : Nat) (s : State) : Out :=
  xe h (fun a capv => do
    let d ← readXd a h doff capv
    let s ← get
    need cHdrfmt (d.uses [158])
    match fget? (s.place a.place).maps d.xent with
    | none => trap cHdrfmt
    | some e => return ([d.w], if e.wb = 0 then [] else [(s.endOf a false e.vabase e.len, e.len)])) (fun a l => do
    let d : Xd := ⟨l.headD 0⟩
    let t := (← get).place a.place
    match fget? t.maps d.xent with
    | none => pure ()
    | some e =>
      if e.wb ≠ 0 then (t.dirtyOf e).forM fun sec => do if ← writeSector a e sec then meet a.place cPoison
      onPlace a.place fun t => { t with
        maps := fdel d.xent t.maps
        mapDirty := fclear t.mapDirty fun i => e.spbase ≤ 32 * i && 32 * i < e.spbase + e.len
        mapSince := fclear t.mapSince fun i => e.spbase ≤ 32 * i && 32 * i < e.spbase + e.len
        mapFilled := fclear t.mapFilled fun i => e.spbase ≤ 128 * i && 128 * i < e.spbase + e.len }) s
/-- A lazy write-back of one sector of a region with WB = 0b10 (R336); POISON names its XMAP (R52). -/
def State.lazyWriteBack (s : State) (tile sector : Nat) : State :=
  let t := s.place tile
  match t.mapAt (32 * sector) with
  | none => s
  | some e =>
    if e.wb = 2 && fget false t.mapDirty sector && t.step.isSome then
      match (writeSector (s.cmdAcc tile 2 e.seq) e sector).run s with
      | .ok bad s => if bad then s.postFrom tile t.ctx ⟨cPoison, e.seq, some 2⟩ else s
      | .error _ s' => s.keepAsks s'
    else s
def execXmapLazyWriteBack (tile sector : Nat) (s : State) : Out := .next (s.lazyWriteBack tile sector)

-- ## The bound of lazy write-backs (R336)

/-- Time is about to pass: sectors that were first written at this tick. -/
def State.stampDirty (s : State) : State :=
  s.places.foldl (fun s e => if e.2.maps.isEmpty then s else s.modPlace e.1 fun p => { p with
    mapSince := p.mapDirty.foldl (fun m x => if (p.mapAt (32 * x.1)).any (fun r => r.wb = 2) && (fget? m x.1).isNone then fput x.1 s.tick m else m) p.mapSince }) s
/-- Ticks since a tick, across the wrap of the counter (R414). -/
def State.since (s : State) (tick : Nat) : Nat := (s.tick + 2 ^ 64 - tick) % 2 ^ 64
/-- Ticks until the next write-back of a sector is due. -/
def State.dirtyTime (s : State) : Option Nat :=
  s.places.foldl (fun m e => if e.2.step.isNone then m else e.2.mapSince.foldl (fun m x =>
    let left := 2 ^ 16 - s.since x.2
    if left = 0 then m else some (min left (m.getD left))) m) none
/-- Write back the sectors whose time has come. -/
def State.dueSectors (s : State) : State :=
  s.places.foldl (fun s e => e.2.mapSince.foldl (fun s x => if 2 ^ 16 ≤ s.since x.2 then s.lazyWriteBack e.1 x.1 else s) s) s

end Sys2Proof.Machine
end

