-- ==== Sys2Proof/Machine/Index.lean ====
section
/-! DEFINITION. The index engine: gather, scatter, scatter-add, compaction and live lists (R338 to R341). -/
namespace Sys2Proof.Machine

/-- A GE descriptor as its 512 bits (R338). -/
structure Gd where
  w : Nat
def Gd.base (d : Gd) : Nat := bits d.w 511 456
def Gd.ioff (d : Gd) : Nat := bits d.w 455 435
def Gd.coff (d : Gd) : Nat := bits d.w 434 414
def Gd.cntoff (d : Gd) : Nat := bits d.w 413 393
def Gd.nidx (d : Gd) : Nat := bits d.w 392 377
def Gd.lim (d : Gd) : Nat := bits d.w 376 345
def Gd.rowb (d : Gd) : Nat := bits d.w 344 332
def Gd.etyp (d : Gd) : Nat := bits d.w 331 329
def Gd.iw (d : Gd) : Nat := bits d.w 328 328
def Gd.bas (d : Gd) : Bool := bit d.w 327
def Gd.first (d : Gd) : Nat := bits d.w 326 311
def Gd.rpm (d : Gd) : Nat := bits d.w 310 306
def Gd.rsv (d : Gd) : Nat := bits d.w 305 4
/-- Bytes of an index, and the void index. -/
def Gd.ib (d : Gd) : Nat := 2 + 2 * d.iw
def Gd.void (d : Gd) (e : Nat) : Bool := e + 1 = 2 ^ (8 * d.ib)
def readGd (a : Acc) (h : Hdr) (doff capv : Nat) : M Gd := do return ⟨← readDesc a h doff capv 64 2⟩

/-- A command of the GE: checks, then its effect; it keeps its descriptor and what else they answer. -/
def ge (h : Hdr) (checks : Acc → Nat → M (Gd × List Nat)) (eff : Acc → Gd → List Nat → M Unit) (s : State) : Out :=
  lasting 3 h (fun a x => do
    let (d, l) ← checks a x
    return d.w :: l) (fun a l => eff a ⟨l.headD 0⟩ (l.drop 1)) s
def execGnop (h : Hdr) (s : State) : Out := noop 3 h s

/-- The index list, the range of every row checked: one that fails raises SPBOUND or PERM by the array's side (R339). -/
def readIndices (a : Acc) (d : Gd) : M (List Nat) := do
  let l ← (range 0 d.nidx).mapM fun i => cmdRdN a (d.ioff + d.ib * i) d.ib
  l.forM fun e =>
    if d.void e then pure ()
    else do
      let row := d.base + e * d.rowb
      if d.bas then need cSpbound (e < d.lim && row + d.rowb ≤ 0x180000)
      else
        need cPerm (e < d.lim)
        vaOk row d.rowb
  return l
/-- Permission of every row of a global array, and no poison under one that is read. -/
def rowsPerm (a : Acc) (d : Gd) (nd : Need) (l : List Nat) : M Unit := do
  if !d.bas then
    let rows := (l.filter fun e => !d.void e).map fun e => d.base + e * d.rowb
    rows.forM fun r => permOk a r d.rowb nd
    if nd != .w then rows.forM fun r => poisonOk a r d.rowb
/-- The checks that GGATH, GSCAT and GSCADD share; `elem` is the size that must divide the rows. -/
def indexChecks (h : Hdr) (doff : Nat) (elem : Gd → Nat) (nd : Need) (a : Acc) (capv : Nat) : M (Gd × List Nat) := do
  let d ← readGd a h doff capv
  need cHdrfmt (d.rsv = 0 && d.nidx ≠ 0 && 1 ≤ d.rowb && d.rowb ≤ 4096 && elem d ≠ 0)
  spOk d.ioff (d.ib * d.nidx)
  spOk d.coff (d.rowb * d.nidx)
  let l ← readIndices a d
  need cAlign (d.ioff % d.ib = 0 && d.rowb % elem d = 0 && d.base % elem d = 0 && d.coff % elem d = 0)
  rowsPerm a d nd l
  return (d, l)
/-- Read or write a row of the array. -/
def geRead (a : Acc) (d : Gd) (o n : Nat) : M (List Byte) := if d.bas then cmdRd a o n else cmdRdL1 a o n
def geWrite (a : Acc) (d : Gd) (o : Nat) (bs : List Byte) : M Unit := if d.bas then wrSp a o bs else cmdWrL1 a o bs
/-- Write a row of the array from the scratchpad, part by part. -/
def geMove (a : Acc) (d : Gd) (src dst : Nat) : List (M Unit) :=
  (rowParts dst d.rowb).map fun (o, m) => whole do geWrite a d (dst + o) (← partBytes a src d.rowb o m (cmdRd a))
/-- For each entry in ascending order, its position and its index: the pieces of its effect. -/
def entryPieces (l : List Nat) (f : Nat → Nat → List (M Unit)) : List (M Unit) := (l.zip (range 0 l.length)).flatMap fun (e, i) => f i e

def execGgath (h : Hdr) (doff : Nat) (s : State) : Out :=
  ge h (indexChecks h doff (fun _ => 1) .r) (fun a d l => pieces a (entryPieces l fun i e =>
    let c := d.coff + i * d.rowb
    [if d.void e then wrSp a c (List.replicate d.rowb 0)
     else do wrSp a c (← geRead a d (d.base + e * d.rowb) d.rowb)])) s
def execGscat (h : Hdr) (doff : Nat) (s : State) : Out :=
  ge h (indexChecks h doff (fun _ => 1) .w) (fun a d l => pieces a (entryPieces l fun i e =>
    if d.void e then [] else geMove a d (d.coff + i * d.rowb) (d.base + e * d.rowb))) s

/-- Size and sum of GSCADD's elements (R338, R339). -/
def etypSize (t : Nat) : Nat := if t = 0 || t = 1 then 4 else if t = 2 then 2 else if t = 3 then 8 else 0
def etypAdd (t x y : Nat) : Nat := if t = 0 then aopResult 0 4 x y else if t = 1 then aopResult 9 4 x y else if t = 2 then aopResult 10 2 x y else aopResult 0 8 x y
/-- One indivisible update of an element: at the bank, or in the L1 once the line is owned (R125). -/
def addElement (a : Acc) (d : Gd) (o : Nat) (f : Nat → Nat) : M Unit := do
  let n := etypSize d.etyp
  if d.bas then wrSp a o (bytesOf n (f (← cmdRdN a o n)))
  else
    let k := (← get).keyOf a.asid o
    let p ← checkPerm a o .rwa
    l1Own a k (!p.sa)
    let old := numOf (lineBytes ((← get).l1 a.place k).data (o % 128) n)
    ownedWrite a k (o % 128) (bytesOf n (f old)) 15 1 a.seq
def execGscadd (h : Hdr) (doff : Nat) (s : State) : Out :=
  ge h (indexChecks h doff (fun d => etypSize d.etyp) .rwa) (fun a d l =>
    let n := etypSize d.etyp
    elementsOf a ((entryPieces l fun i e =>
      if d.void e then []
      else (range 0 (d.rowb / n)).map fun x => do
        let y ← cmdRdN a (d.coff + i * d.rowb + n * x) n
        addElement a d (d.base + e * d.rowb + n * x) fun old => etypAdd d.etyp old y).map fun p => (pure true, [p]))) s

/-- R340. -/
def execGcmpct (h : Hdr) (doff : Nat) (s : State) : Out :=
  ge h (fun a capv => do
    let d ← readGd a h doff capv
    need cHdrfmt (d.rsv = 0 && d.nidx ≠ 0 && 1 ≤ d.rowb && d.rowb ≤ 4096 && d.iw = 0 && d.lim = 0)
    spOk d.ioff d.nidx
    spOk d.cntoff 8
    let flags ← (range 0 d.nidx).mapM fun i => cmdRdN a (d.ioff + i) 1
    let rows := (range 0 d.nidx).filter fun i => (nth? flags i).getD 0 ≠ 0
    spOk d.coff (d.rowb * rows.length)
    rows.forM fun i => if d.bas then spOk (d.base + i * d.rowb) d.rowb else vaOk (d.base + i * d.rowb) d.rowb
    need cAlign (d.cntoff % 8 = 0)
    if !d.bas then
      rows.forM fun i => permOk a (d.base + i * d.rowb) d.rowb .r
      rows.forM fun i => poisonOk a (d.base + i * d.rowb) d.rowb
    return (d, [])) (fun a d _ => do
    -- the progress holds the rows looked at and the rows written
    let done := (← get).progressOf a
    let n ← (range (done / 65536) (d.nidx - done / 65536)).foldlM (fun n i => do
      let n ← if (← cmdRdN a (d.ioff + i) 1) ≠ 0 then do
          wrSp a (d.coff + n * d.rowb) (← geRead a d (d.base + i * d.rowb) d.rowb)
          pure (n + 1)
        else pure n
      setProgress a (65536 * (i + 1) + n)
      return n) (done % 65536)
    wrSp a d.cntoff (bytesOf 8 n)) s

/-- R341: the map is read once, at the start. -/
def execGlive (h : Hdr) (doff : Nat) (s : State) : Out :=
  ge h (fun a capv => do
    let d ← readGd a h doff capv
    let n := d.nidx * d.rpm
    need cHdrfmt (d.rsv = 0 && 1 ≤ d.nidx && d.nidx ≤ 256 && 1 ≤ d.rpm && d.rpm ≤ 16 && n ≤ 4096 && d.first + n - 1 ≤ 0xFFFE &&
      d.base = 0 && d.ioff = 0 && d.lim = 0 && d.iw = 0 && !d.bas)
    spOk d.coff (2 * n)
    spOk d.cntoff 8
    need cAlign (d.coff % 2 = 0 && d.cntoff % 8 = 0)
    return (d, [(← get).bmaskNat a.place])) (fun a d l => do
    let map := l.headD 0
    (range 0 d.nidx).forM fun i => (range 0 d.rpm).forM fun r =>
      let x := i * d.rpm + r
      wrSp a (d.coff + 2 * x) (bytesOf 2 (if bit map i then d.first + x else 0xFFFF))
    wrSp a d.cntoff (bytesOf 8 ((range 0 d.nidx).filter (bit map)).length)) s

end Sys2Proof.Machine
end

