-- ==== Sys2Proof/Machine/Link.lean ====
section
/-! DEFINITION. The link engine and what arrives at a tile from its peers (R34 to R38, R128, R249, R342 to R345). -/
namespace Sys2Proof.Machine

/-- An LE descriptor as its 256 bits (R342). -/
structure Ld where
  w : Nat
def Ld.peer (d : Ld) : Nat := bits d.w 255 192
def Ld.loff (d : Ld) : Nat := bits d.w 191 171
def Ld.bar (d : Ld) : Nat := bits d.w 170 150
def Ld.bv (d : Ld) : Bool := bit d.w 149
def Ld.red (d : Ld) : Nat := bits d.w 148 146
def Ld.scp (d : Ld) : Nat := bits d.w 145 144
def Ld.idx (d : Ld) : Nat := bits d.w 143 136
def Ld.cnt (d : Ld) : Nat := bits d.w 135 120
def Ld.len (d : Ld) : Nat := bits d.w 119 88
def Ld.rsv (d : Ld) : Nat := bits d.w 87 4
def readLd (a : Acc) (h : Hdr) (doff capv : Nat) : M Ld := do return ⟨← readDesc a h doff capv 32 3⟩

-- ## Bytes and barriers at a tile

/-- The LE as the agent of a release (R120). -/
def leAgent : Nat := 4
/-- The barrier word of a transfer. -/
def barBytes (m : PeerMsg) : List (Nat × Nat) := match m.bar with
  | some b => [(b, 8)]
  | none => []
/-- A transaction barrier counts one arrival of `n` bytes (R128). -/
def barrierWord (w n : Nat) : Nat :=
  (w % 2 ^ 56 + 2 ^ 56 - n % 2 ^ 56) % 2 ^ 56 + (w / 2 ^ 56 % 256 + 255) % 256 * 2 ^ 56
/-- The update of the barrier word that a transfer names; that of a poisoned word is one of the causes of the transfer's
command (R52). -/
def arriveBar (t : Nat) (m : PeerMsg) : M Unit :=
  match m.bar with
  | none => pure ()
  | some b => do
    let s ← get
    let a := s.cmdAcc t 4 0
    let bad := (s.place t).spBad b 8
    wrSp a b (bytesOf 8 (barrierWord (numOf (← rdSp a b 8)) m.len))
    if bad && m.pkg = s.pkgNum then meet m.tile cPoison

-- ## Commands: checked and sent; the arrival completes them

/-- The message of a command. -/
def Ld.msg (d : Ld) (s : State) (a : Acc) (kind : PeerKind) (data : List Byte) : PeerMsg :=
  ⟨s.pkgNum, a.place, a.vf, a.ctx, kind, peerTile d.peer, peerOff d.peer, d.loff, data, d.len, if d.bv then some d.bar else none, some (4, a.seq)⟩
/-- A command of the LE: after its checks, `send` makes the message. A tile of this package answers it; another package is
outside the model, and its answer is taken as a success (log 20), while one that no route reaches refuses it. -/
def le (h : Hdr) (doff : Nat) (checks : Acc → Ld → M Unit) (send : Acc → Ld → M PeerMsg) (s : State) : Out :=
  let word := s.headWord s.cur 4
  .next (s.command 4 h (fun a capv => do
    let d ← readLd a h doff capv
    checks a d
    return (capv, d)) fun a (capv, d) => do
      let m ← send a d
      let s ← get
      if peerPkg d.peer = s.pkgNum then
        set { s with peers := s.peers ++ [m] }
        return .started ⟨a.seq, word, BitVec.ofNat 64 capv, 0, false, [], none⟩
      else if s.reaches a.place (peerPkg d.peer) then
        match m.kind with
        | .get =>
          let bs ← (range 0 d.len).mapM fun _ => do return (← fresh).truncate 8
          touchAll a ((d.loff, d.len) :: barBytes m)
          wrSp a d.loff bs
          arriveBar a.place m
        -- a push to another package is a release at system scope (R121)
        | .enq _ => releaseBy leAgent allClasses 3
        | _ => pure ()
        return .now
      else
        meet a.place cGrant
        return .now)
/-- The ranges that R342 checks: SPBOUND. -/
def leRanges (d : Ld) : M Unit := do
  need cSpbound (d.peer < 2 ^ 40)
  spOk d.loff d.len
  spOk (peerOff d.peer) d.len
  if d.bv then spOk d.bar 8
/-- A barrier word is a multiple of 8. -/
def leBar (d : Ld) : M Unit := need cAlign (!d.bv || d.bar % 8 = 0)

def execLnop (h : Hdr) (s : State) : Out := noop 4 h s
def execLput (h : Hdr) (doff : Nat) (s : State) : Out :=
  le h doff (fun _ d => do
    need cHdrfmt (d.rsv = 0)
    leRanges d
    leBar d) (fun a d => do
    let bs ← cmdRd a d.loff d.len
    return d.msg (← get) a .put bs) s
def execLget (h : Hdr) (doff : Nat) (s : State) : Out :=
  le h doff (fun _ d => do
    need cHdrfmt (d.rsv = 0)
    leRanges d
    leBar d) (fun a d => do return d.msg (← get) a .get []) s
/-- Element size of RED, none for a reserved value. -/
def redSize (r : Nat) : Nat := if r = 1 then 2 else if r < 5 then 4 else 0
def execLred (h : Hdr) (doff : Nat) (s : State) : Out :=
  le h doff (fun _ d => do
    need cHdrfmt (d.rsv = 0 && redSize d.red ≠ 0)
    leRanges d
    let n := redSize d.red
    need cAlign (d.len % n = 0 && d.loff % n = 0 && peerOff d.peer % n = 0)
    leBar d) (fun a d => do
    let bs ← cmdRd a d.loff d.len
    return d.msg (← get) a (.red d.red) bs) s
def execLenq (h : Hdr) (doff : Nat) (s : State) : Out :=
  le h doff (fun _ d => do
    need cHdrfmt (d.rsv = 0)
    need cSpbound (d.peer < 2 ^ 40)
    spOk d.loff d.len
    spOk (peerOff d.peer) d.len) (fun a d => do
    let bs ← cmdRd a d.loff d.len
    return d.msg (← get) a (.enq d.idx) bs) s
/-- LSIG waits until the writes it covers are performed at its scope (R120, R345). -/
def execLsig (h : Hdr) (doff : Nat) (s : State) : Out :=
  le h doff (fun _ d => do
    need cHdrfmt (d.rsv = 0 && (d.scp = 1 || d.scp = 2) && d.cnt ≠ 0 && d.loff = 0 && d.len = 0 && d.bar = 0 && !d.bv && d.red = 0)
    need cSpbound (d.peer < 2 ^ 40)) (fun a d => do
    releaseBy leAgent allClasses (if peerPkg d.peer = (← get).pkgNum then d.scp else 3)
    return d.msg (← get) a (.sig d.idx d.cnt) []) s

-- ## The sender hears (R37, R119, R249, R345)

/-- Wait and signal fields of an engine-class word (R180). -/
def hdrOf (word : Nat) : Hdr := ⟨bits word 60 53, bits word 52 49, bits word 48 41, bits word 40 37, bits word 30 30, 0⟩
/-- The transfer has ended: the LE's command completes, with a cause when it was refused or overflowed, or that it met before;
a SEMRSIG reports to its context. -/
def State.answer (s : State) (m : PeerMsg) (code : Option Nat) : State :=
  if m.pkg ≠ s.pkgNum then s
  else match m.queue with
    | some (q, seq) => match (s.engq m.tile q).cur with
      | some f =>
        if f.seq = seq then (s.modPlace m.tile fun p => { p with met := code.or f.met }).finish m.tile q seq (hdrOf f.word) f.killed else s
      | none => s
    | none => match code, m.kind with
      | some c, .sig sem _ => s.postFrom m.tile m.ctx ⟨c, rsigDetail m.toTile sem, none⟩
      | _, _ => s

-- ## Grants (R35, R36)

/-- Rights by bit: 0 PUT, 1 GET, 2 SIG, 3 ENQ, 4 RED. -/
def rightOf : PeerKind → Nat
  | .put => 0
  | .get => 1
  | .sig _ _ => 2
  | .enq _ => 3
  | .red _ => 4
/-- Byte ranges that an entry must cover: the payload and the barrier word in the tile the entry guards. -/
def rangesOf (m : PeerMsg) : List (Nat × Nat) :=
  match m.kind with
  | .put | .red _ => (m.offset, m.len) :: (match m.bar with | some b => [(b, 8)] | none => [])
  | .get => [(m.offset, m.len)]
  | _ => []
def Grant.admits (g : Grant) (m : PeerMsg) : Bool :=
  g.v && g.vf = m.vf && g.vf ≤ 64 && bit g.rights (rightOf m.kind) && g.pklo ≤ m.pkg && m.pkg ≤ g.pkhi && g.tlo ≤ m.tile && m.tile ≤ g.thi &&
    (rangesOf m).all fun (o, n) => n = 0 || (g.oflo ≤ o && o + n - 1 ≤ g.ofhi)
/-- The tile admits a message: a context is loaded, has executed its first instruction, does not replay, and a grant matches (R35, R36, R38, R423). -/
def State.admits (s : State) (m : PeerMsg) : Bool :=
  let t := s.place m.toTile
  t.step.isSome && t.firstDone && (s.replaying t.ctx).isNone && t.grants.any fun g => g.admits m
/-- A refused transfer: logged at the receiver, answered with GRANT (R37). -/
def State.refuse (s : State) (m : PeerMsg) : State :=
  (s.logTile m.toTile ⟨s.tick, m.offset, m.pkg, m.tile, m.vf, 2 ^ (rightOf m.kind), 1⟩).answer m (some cGrant)

-- ## Arrivals

/-- Log bytes that a peer wrote, when the receiving context is recorded (R421): an entry for each 4,096 bytes of them. -/
def recordPeer (m : PeerMsg) (bs : List Byte) : M Unit :=
  modify fun s => (range 0 ((bs.length + 4095) / 4096)).foldl (fun s i =>
    (s.logInput (s.place m.toTile).ctx m.toTile 4 (m.offset + 4096 * i) (m.pkg % 1024 * 2 ^ 6 * 2 ^ 16 + m.tile % 512 * 2 ^ 13)
      ((bs.drop (4096 * i)).take 4096) false).getD s) s
/-- The barrier word that the transfer left is an input too. -/
def recordBar (m : PeerMsg) : M Unit := do
  match m.bar with
  | some b => recordPeer { m with offset := b } ((((← get).place m.toTile)).spBytes b 8)
  | none => pure ()
/-- LRED's element (R343). -/
def redApply (op x y : Nat) : Nat :=
  if op = 0 then aopResult 9 4 x y else if op = 1 then aopResult 10 2 x y else if op = 2 then aopResult 0 4 x y
  else minMax fp32 (op = 3) false x y
/-- Elements of `n` bytes of a byte list. -/
def elements (n : Nat) (bs : List Byte) : List Nat := (range 0 (bs.length / n)).map fun i => numOf ((bs.drop (n * i)).take n)
/-- An admitted transfer acts; its bytes, then its barrier (R343). -/
def performPeer (m : PeerMsg) : M Unit := do
  let s ← get
  let a := s.cmdAcc m.toTile 4 0
  match m.kind with
  | .put =>
    touchAll a ((m.offset, m.len) :: barBytes m)
    wrSp a m.offset m.data
    recordPeer m m.data
    arriveBar m.toTile m
    recordBar m
  | .get =>
    let bs ← rdSp a m.offset m.len
    let bad := ((← get).place m.toTile).spBad m.offset m.len
    let b := (← get).cmdAcc m.tile 4 0
    if m.pkg = s.pkgNum then
      touchAll b ((m.loff, m.len) :: barBytes m)
      wrSp b m.loff bs
      -- the getter's context receives the bytes from the tile that it reads
      let back := { m with tile := m.toTile, toTile := m.tile, offset := m.loff }
      recordPeer back bs
      arriveBar m.tile m
      recordBar back
      if bad then meet m.tile cPoison
  | .red op =>
    let n := redSize op
    touchAll a ((m.offset, m.len) :: barBytes m)
    if ((← get).place m.toTile).spBad m.offset m.len && m.pkg = s.pkgNum then meet m.tile cPoison
    (m.data |> elements n).zip (range 0 (m.len / n)) |>.forM fun (y, i) => do
      let x := numOf (← rdSp a (m.offset + n * i) n)
      wrSp a (m.offset + n * i) (bytesOf n (redApply op x y))
    recordPeer m (((← get).place m.toTile).spBytes m.offset m.len)
    arriveBar m.toTile m
    recordBar m
  | _ => pure ()
/-- The message of a delivery. -/
def State.delivered (s : State) (d : Delivery) : Option PeerMsg :=
  match d with
  | .pending n => nth? s.peers n
  | .external m => if m.pkg ≠ s.pkgNum then some m else none
/-- The message is no longer in flight. -/
def State.take (s : State) (d : Delivery) : State :=
  match d with
  | .pending n => { s with peers := dropNth s.peers n }
  | .external _ => s
/-- A message waits at the port while the tile switches (R38). -/
def State.portOpen (s : State) (m : PeerMsg) : Bool := isTile m.toTile && (s.place m.toTile).switch.isNone && (s.place m.toTile).slogBusy.isNone

def execPeerTransferArrival (d : Delivery) (s : State) : Out :=
  .next (match s.delivered d with
    | none => s
    | some m =>
      let ok := match m.kind with | .put | .get | .red _ => true | _ => false
      if !ok || !s.portOpen m then s
      else if !s.admits m then (s.take d).refuse m
      else match (performPeer m).run (s.take d) with
        | .ok _ s' =>
          let met := if m.pkg = s.pkgNum then (s'.place m.tile).met else none
          s'.answer m met
        | .error (.park r i) s' => { s'.parkFor m.toTile r i with peers := s.peers }
        | .error _ s' => { s' with peers := s.peers })

/-- R249, R345: the signal is added, or refused, or would overflow. -/
def execSignalArrival (d : Delivery) (s : State) : Out :=
  .next (match s.delivered d with
    | none => s
    | some m => match m.kind with
      | .sig sem n =>
        if !s.portOpen m then s
        else if !s.admits m then (s.take d).refuse m
        else
          let s := s.take d
          let c := (s.place m.toTile).getSem sem + n
          if c > 65535 then s.answer m (some cSemovf)
          else (s.modPlace m.toTile fun p => p.setSem sem c).answer m none
      | _ => s)

/-- A LENQ that the receiving tile refuses (R344). -/
def State.enqBad (s : State) (m : PeerMsg) (q : Nat) : Bool :=
  let r := s.ring m.toTile q
  !r.v || q = 6 || q = 7 || q > 63 || m.len ≠ 16 * (r.sszm + 1) || (q < 6 && engineQueue (numOf (m.data.take 8)) != some q)
/-- A slot's bytes are written at the tail of a ring and published; an engine queue counts the command. -/
def State.publish (s : State) (t q : Nat) (data : List Byte) : Option State :=
  let r := s.ring t q
  match (wrSp (s.cmdAcc t 4 0) (r.slot r.tail) data).run s with
  | .ok _ s =>
    let s := s.setRing t q { r with tail := (r.tail + 1) % 65536 }
    let s := if q < 6 then s.setEngq t q { s.engq t q with next := ((s.engq t q).next + 1) % 2 ^ 32 } else s
    some (if q = 1 && isMgo (numOf (data.take 8)) then s.modPlace t fun p => { p with mcPending := p.mcShadow, mcOcc := true } else s)
  | .error _ _ => none
/-- Publishing a push is a release of the sender's LE at the ring's declared scope (R121). -/
def State.enqRelease (s : State) (m : PeerMsg) : Except Stop Unit × State :=
  if m.pkg ≠ s.pkgNum then (.ok (), s)
  else match (releaseBy leAgent allClasses (s.ring m.toTile (match m.kind with | .enq q => q | _ => 0)).scope).run { s with cur := m.tile } with
    | .ok _ s' => (.ok (), { s' with cur := s.cur })
    | .error e s' => (.error e, { s' with cur := s.cur })
/-- The command of a push goes back to unstarted; one that KILL left without its signal is discarded (R156, R344). -/
def State.unsendEnq (s : State) (m : PeerMsg) (park : Option (Nat × Nat)) : State :=
  match m.queue, (s.engq m.tile 4).cur with
  | some (_, seq), some f =>
    if m.pkg ≠ s.pkgNum || f.seq ≠ seq then s
    else if f.killed then s.freeSlot m.tile 4
    else (s.restartCmd m.tile 4 (hdrOf f.word) park).modPlace m.tile fun p =>
      -- a step of the queue did not start it (R373)
      { p with qstep := p.qstep.map fun (todo, done) => (todo, setBits done 4 4 0) }
  | _, _ => s
/-- Write a push's slot behind those that the CC has claimed; it is published when they are (R344). -/
def State.reserveSlot (s : State) (t q : Nat) (m : PeerMsg) : Option State :=
  let r := s.ring t q
  let slot := (r.tail + r.claimed) % 65536
  match (s.place t).step, (wrSp (s.cmdAcc t 4 0) (r.slot slot) m.data).run s with
  | some st, .ok _ s =>
    some { s.setRing t q { r with claimed := r.claimed + 1 } with pushes := s.pushes ++ [⟨st, (s.place t).gpos, q, slot, m⟩] }
  | _, _ => none
/-- A push has been published: the replay log has its slot, and its command completes. -/
def State.pushed (s : State) (t q : Nat) (m : PeerMsg) : State := ((s.logInput (s.place t).ctx t 3 q 0 m.data false).getD s).answer m none
/-- A reserved slot: published once the tail has passed it; its command is unstarted again when the ring is gone. -/
def State.endPush (s : State) (p : Push) : State :=
  let done : State := { s with pushes := s.pushes.filter (· ≠ p) }
  if p.slot = 65536 || !s.steps.any (fun st => st.id == p.step) then done.unsendEnq p.msg none
  else match s.places.find? fun e => s.ownsPush e.1 p.ring p with
    | none => s
    | some (t, _) =>
      let past := ((s.ring t p.ring).tail + 65536 - p.slot) % 65536
      if 0 < past && past < 32768 then done.pushed t p.ring p.msg else s
/-- Every reserved slot that has been published, or is gone. -/
def State.endPushes (s : State) : State := s.pushes.foldl State.endPush s
/-- R344: refused, held while the ring is full, or published, behind claimed slots once they are; a full ring leaves the
sender's command unstarted. -/
def execLenqArrival (d : Delivery) (s : State) : Out :=
  .next (match s.delivered d with
    | none => s
    | some m => match m.kind with
      | .enq q =>
        let t := m.toTile
        if !s.portOpen m then s
        else if !s.admits m || s.enqBad m q then (s.take d).refuse m
        else
          let r := s.ring t q
          if r.filled + r.claimed ≥ r.size || (q = 1 && isMgo (numOf (m.data.take 8)) && (s.place t).mcOcc) then
            (s.take d).unsendEnq m none
          else match s.enqRelease m with
            | (.error (.park r i), s) => (s.take d).unsendEnq m (some (r, i))
            | (.error _, s) => s
            | (.ok _, s) =>
              if r.claimed = 0 then (((s.take d).publish t q m.data).map fun s' => s'.pushed t q m).getD s
              else ((s.take d).reserveSlot t q m).getD s
      | _ => s)

end Sys2Proof.Machine
end

