-- ==== Sys2Proof/Machine/System.lean ====
section
/-! DEFINITION. System instructions: traps and returns, system registers, halting, shoot-down, keys, zeroing,
causal profiling, counters and queue resets (R194, R195, R268 to R274, R366, R373, R404, R427). -/
namespace Sys2Proof.Machine

-- ## Traps (R268)

def execTrap (a c : Nat) (s : State) : Out :=
  ctl .any 1 [a] [] (do throw (.trap c (((← rg a).toNat) % 2 ^ 32))) s
def execSyscall (imm : Nat) (s : State) : Out := ctl .any 0 [] [] (throw (.trapAfter cSyscall imm)) s
def execBkpt (imm : Nat) (s : State) : Out := ctl .any 0 [] [] (throw (.trap cBreak imm)) s

-- ## Return from an exception (R366, R373, R404)

/-- A steward core returns to PPRIV at `sys.epc` (R404). -/
def State.stewardEret (s : State) : State :=
  let pp := s.regBits (iodReg 0 (0x6000 + 0x100 * (s.cur - 516))) 3 2
  s.modHere fun t => { t with cc := { t.cc with pc := eretPc t.epc, priv := pp }, stallSince := none, begun := none, wdogGt := 0 }
/-- The pc that an ERET gives is the target of a control transfer (R178). -/
def checkReturn : M Unit := do
  checkTarget (eretPc (← get).here.epc)
/-- An ERET with the action `act` of a tile whose registers have gone back to the CC; `goes` says that it gives a pc. -/
def eretWith (goes : Bool) (act : State → State) (s : State) : Out :=
  ctl .handler 1 [] [] (do
    if goes then checkReturn
    modify fun s => if isTile s.cur then act (s.modHere fun t => { t.copyBack with stallSince := none, begun := none }) else s.stewardEret
    return none) s
/-- Action 0: the CC resumes. -/
def execEretResume (s : State) : Out := eretWith true (fun s => s.modHere fun t => t.thaw false) s
/-- Action 1: it runs one instruction and freezes again. -/
def execEretStep (s : State) : Out := eretWith true (fun s => s.modHere fun t => t.thaw true) s
/-- Queues whose head is a command of theirs that has its wait met, as a mask. -/
def State.readyQueues (s : State) (t : Nat) : Nat :=
  (range 0 6).foldl (fun a q =>
    if (s.ring t q).filled ≠ 0 && (s.engq t q).cur.isNone && engineQueue (s.headWord t q) == some q && (s.place t).waitMet (hdrOf (s.headWord t q)) then a + 2 ^ q else a) 0
/-- Action 2: the CC stays frozen, and each such queue takes one step. -/
def execEretQstep (s : State) : Out :=
  eretWith false (fun s => let todo := s.readyQueues s.cur; s.modHere fun t => { t with qstep := some (todo, 0), entering := none }) s
/-- Action 3. -/
def execEretParkPromise (s : State) : Out :=
  eretWith true (fun s => s.parkTile s.cur 7 (s.here.cause.toNat / 2 ^ 32) (eretPc s.here.epc)) s
/-- Action 4: as an immediate PARK (R149), which a pending wake turns into a resume. -/
def execEretParkExplicit (s : State) : Out :=
  eretWith true (fun s =>
    let c := s.here.ctx
    if s.ctxd c 51 51 = 1 then (s.setCtxd c 51 51 0).modHere fun t => { t.thaw false with bpSkip := false }
    else s.parkTile s.cur 5 0 (eretPc s.here.epc)) s
/-- Action 5. -/
def execEretReady (s : State) : Out :=
  eretWith true (fun s => s.beginSwitch s.cur ⟨none, eretPc s.here.epc, false, none, 0, eretPc s.here.epc⟩) s
/-- Action 6: KILL as if executed at the pc. -/
def execEretKill (s : State) : Out :=
  eretWith true (fun s => (s.modHere fun t => { t with frozen := false, entering := none, cc := { t.cc with pc := eretPc t.epc } }).kill s.cur) s
/-- Action 7. -/
def execEretEscalate (s : State) : Out := eretWith false (fun s => s.escalate s.cur) s

-- ## System registers (R194, R195, R269)

/-- What user and higher privilege may do: 0 nothing, 1 read, 2 read and write. -/
def sysUser (n : Nat) : Nat :=
  if n = 5 ∨ n = 6 then 2
  else if n = 0x10 ∨ n = 0x11 ∨ (0x18 ≤ n ∧ n ≤ 0x1E) ∨ n = 0x31 then 0
  else 1
/-- `sys.qwait`k: a wait of the head command on its semaphore. -/
def State.qwait (s : State) (t q : Nat) : Nat :=
  match (s.engq t q).since with
  | none => 0
  | some n =>
    let h := hdrOf (s.headWord t q)
    if (s.place t).waitMet h then 0
    else h.wsem * 2 ^ 56 + h.wneed * 2 ^ 52 + (s.place t).getSem h.wsem * 2 ^ 36 + 2 ^ 35 + n % 2 ^ 32
/-- The registers that are plain values of the place. -/
def State.sysPlain (s : State) (n : Nat) : Nat :=
  let t := s.here
  if n = 0 then t.ctx
  else if n = 1 then t.asid
  else if n = 2 then t.vf
  else if n = 3 then t.gpos * 2 ^ 32 + s.pkgNum * 2 ^ 16 + s.cur
  else if n = 4 then t.regbnd
  else if n = 5 then t.lead
  else if n = 6 then t.srseed
  else if n = 7 then s.tick
  else if 8 ≤ n ∧ n ≤ 0xB then (fget 0 t.bmask (n - 8)).toNat
  else if 0xC ≤ n ∧ n ≤ 0xF then fget 0 t.phase (n - 0xC)
  else if n = 0x10 then t.cause.toNat
  else if n = 0x11 then t.epc.toNat
  else if 0x18 ≤ n ∧ n ≤ 0x1E then (if isTile s.cur then s.cutv s.cur (n - 0x18) else 0)
  else if 0x20 ≤ n ∧ n ≤ 0x25 then s.qwait s.cur (n - 0x20)
  else if n = 0x30 then t.core.priv
  else if n = 0x31 then t.tvec
  else t.exc.toNat
/-- Every started command has ended, and `sys.cutv` is final (R358, R359). -/
def execSysrd (d num : Nat) (s : State) : Out :=
  ctl .any (if sysUser num = 0 then 1 else 0) [d] [] (do
    let s ← get
    waitFor (!(0x18 ≤ num && num ≤ 0x1E) || s.enginesRest s.cur)
    let plain := BitVec.ofNat 64 (s.sysPlain num)
    if num = 7 then wg d (← loggedValue 1 0 plain)
    -- TILE of a core that has no tile is not stated: a free value
    else if num = 3 && !isTile s.cur then wg d (BitVec.ofNat 64 (s.pkgNum * 2 ^ 16 + (← fresh).toNat % 512))
    else wg d plain
    next) s

/-- A write of the system register `n` of a place. -/
def Place.sysWrite (t : Place) (n : Nat) (w : Word) : Place :=
  let v := w.toNat
  if n = 1 then { t with asid := v % 65536 }
  else if n = 2 then { t with vf := v % 128 }
  else if n = 4 then (if 16 ≤ v % 128 && v % 128 ≤ 64 then { t with regbnd := v % 128 } else t)
  else if n = 5 then { t with lead := v % 16 }
  else if n = 6 then
    let seed := if v % 2 ^ 32 = 0 then 1 else v % 2 ^ 32
    { t with srseed := seed, vesr := seed, mesr := rotl16 seed }
  else if 0xC ≤ n ∧ n ≤ 0xF then { t with phase := fset 0 t.phase (n - 0xC) (v % 2 ^ 32) }
  else if n = 0x11 then { t with epc := w }
  else if n = 0x31 then { t with tvec := v % 2 ^ 56 }
  else if n = 0x32 then { t with exc := excFields w }
  else t
/-- R194, R214, R269. The CC's earlier accesses have bound or are performed at tile scope by then; those of the context's
started engine commands are waited for. -/
def execSyswr (a num : Nat) (s : State) : Out :=
  ctl .any (if sysUser num = 2 then 0 else 1) [a] [] (do
    let s ← get
    waitFor (!(num = 1 || num = 2 || num = 4) || s.enginesRest s.cur)
    waitFor (num ≠ 6 || (s.unstarted s.cur 0 = 0 && (s.engq s.cur 0).cur.isNone && s.queueIdle s.cur 1))
    let v ← rg a
    onHere fun t => t.sysWrite num v
    next) s

-- ## Stopping a core (R270)

def execHalt (s : State) : Out :=
  ctl .any 3 [] [] (do
    onHere fun t => { t with hold := .halted }
    next) s
def execIdle (s : State) : Out :=
  ctl .any 1 [] [] (do
    onHere fun t => { t with hold := .idle }
    next) s

-- ## Shoot-down, replication (R30, R69, R271)

/-- Lines of a test that are moving between caches. -/
def State.unsettled (s : State) (p : LineKey → Bool) : Bool :=
  s.msgs.any (fun m => match m with
    | .grant _ k _ _ _ _ _ | .skim _ k _ | .ack _ k _ | .done k => p k
    | .toHost _ _ => false) || s.places.any fun e => e.2.l1.any fun l => p l.2.key && l.2.mark
/-- Stores in state W of lines of a test, made before the given places in program order, are left. -/
def State.storesLeft (s : State) (p : LineKey → Bool) (before : FMap Nat) : Bool :=
  s.places.any fun e => e.2.l1.any fun l => p l.2.key && l.2.pend.any fun b => b.order < fget 0 before e.1
def execShoot (d a b opt : Nat) (s : State) : Out :=
  ctl .any 2 [d, a, b] [] (do
    let s ← get
    let asid := if bit opt 0 then none else some ((s.g d).toNat % 65536)
    let all := bit opt 1
    let lo := (s.g a).toNat
    let n := (s.g b).toNat
    if !all && n = 0 then next
    else
      let first := lo / 8192
      let stop := (lo + n + 8191) / 8192
      let covers (k : LineKey) : Bool := k.asid == asid && (all || (first ≤ k.line / 64 && k.line / 64 < stop))
      if s.here.begun.isNone then
        waitFor (!s.unsettled covers)
        modify fun s => (s.shoot asid all first stop).modHere fun p => { p with begun := some (s.places.map fun e => (e.1, e.2.order)) }
      -- a write-back that found no room to be held is tried again; stores in W are performed or held (R30, step 4)
      modify fun s => ((s.home.map (·.2.key)).filter fun k => covers k && (s.homeLine k).any (·.waits)).foldl State.cleanOut s
      let s ← get
      waitFor (!(s.home.any fun e => covers e.2.key && e.2.waits) && !s.storesLeft covers (s.here.begun.getD []))
      next) s

/-- Skim every replica of a region; L1 copies are not affected (R68). -/
def State.skimReplicas (s : State) (code : Nat) : State :=
  let mine := s.dirs.filter fun e => regionCode e.2.key.asid e.2.key.va = code && !e.2.q.isEmpty
  mine.foldl (fun s e =>
    let s := e.2.q.foldl (fun s d => s.dropReplica d e.2.key) s
    (s.setDir e.2.key { s.dir e.2.key with q := [] }).modRegion e.2.key.asid e.2.key.va fun r =>
      { r with skims := (r.skims + e.2.q.length) % 2 ^ 32 }) s
/-- Give a region a degree; a lower one takes the replicas away. -/
def State.setDegree (s : State) (asid : Option Nat) (va deg : Nat) : State :=
  match fget? s.regions (regionCode asid va) with
  | none => s
  | some r =>
    let s := s.modRegion asid va fun r => { r with degree := deg, dchg := if deg = r.degree then r.dchg else (r.dchg + 1) % 2 ^ 8 }
    if deg < r.degree then s.skimReplicas (regionCode asid va) else s
/-- The region of an address as the acting core addresses memory: a VA, or a PA on a steward core (R427). -/
def State.namedRegion (s : State) (va : Nat) : Option (Option Nat × Nat) :=
  if s.physical then (s.reverse va).bind fun k => (s.regionOf k).map fun _ => (k.asid, k.va)
  else (s.region (some s.here.asid) va).map fun r => (r.asid, va)
def execReplset (a deg pin : Nat) (s : State) : Out :=
  ctl .any 1 [a] [] (do
    let s ← get
    let va := (s.g a).toNat
    if !s.physical then checkVa va
    match s.namedRegion va with
    | none => trap cPerm
    | some (asid, va) =>
      orderRead 15
      modify fun s => if pin = 1 then (s.setDegree asid va deg).modRegion asid va fun r => { r with pin := true }
        else s.modRegion asid va fun r => { r with pin := false }
      next) s

-- ## Keys, scratchpad (R80, R272, R427)

/-- Load a key into a slot of a tile. -/
def Place.keyload (t : Place) (slot key fn : Nat) : Place := { t with keys := fput slot ⟨key, fn, true, none⟩ t.keys }
/-- A slot that takes no key: valid, or still being zeroed. -/
def Place.slotBusy (t : Place) (slot : Nat) : Bool := match fget? t.keys slot with
  | some k => k.valid || k.zeroing.isSome
  | none => false
def execKeyload (d a b slot : Nat) (s : State) : Out :=
  ctl .any 2 [d, a, b] [] (do
    let s ← get
    let w := (s.g d).toNat
    let st := isSteward s.cur
    let fn := w % 128
    need cPerm (fn ≤ 64 && (if st then bits w 15 7 = 0 && w / 2 ^ 25 = 0 else w / 128 = 0))
    let t := if st then bits w 24 16 else s.cur
    let p := s.place t
    -- a tile of a gated die cannot be reached (R83; PERM is the model's choice, log 78)
    need cPerm (!s.gated.contains (dieOf t))
    need cPerm (!p.slotBusy slot && !p.keys.any fun e => e.1 ≠ slot && e.2.valid && e.2.fn = fn)
    -- the quota of key slots (R401)
    need cPerm (bits (s.limits fn) 140 136 ≠ 0)
    onPlace t fun p => p.keyload slot ((s.g a).toNat + 2 ^ 64 * (s.g b).toNat) fn
    next) s
/-- KEYKILL clears the slot at once; the visit of the rows begins (R80). -/
def Place.keykill (t : Place) (slot : Nat) : Place :=
  { t with keys := fput slot ⟨0, 0, false, some 0⟩ t.keys, kernel := if t.bstSlots.contains slot then none else t.kernel }
def execKeykill (a slot : Nat) (s : State) : Out :=
  if !isSteward s.cur && a ≠ 0 then .next (s.raise cIllegal 0)
  else ctl .any 2 [a] [] (do
    let s ← get
    let w := (s.g a).toNat
    need cPerm (w < 512 && !(isSteward s.cur && s.gated.contains (dieOf w)))
    onPlace (if isSteward s.cur then w else s.cur) fun p => p.keykill slot
    next) s

def execZerosp (a b : Nat) (s : State) : Out :=
  ctl .any 1 [a, b] [] (do
    let s ← get
    let n := (s.g b).toNat
    need cAlign ((s.g a).toNat % 64 = 0 && n % 64 = 0)
    let lo := if n = 0 then 0 else (s.g a).toNat
    let n := if n = 0 then spSize s.cur else n
    checkSp s.cur lo n
    orderRead 15
    spTouch (← curAcc) lo n
    onHere fun t => t.zeroSp lo n
    next) s

-- ## Progress, causal profiling, counters (R273, R419, R424)

/-- Counters that exist (R419). -/
def counterExists (n : Nat) : Bool := n ≤ 9 || (0x10 ≤ n && n ≤ 0x24)
/-- A counter as its tile reads it: the stored word plus the count since load. -/
def State.counter (s : State) (t n : Nat) : Nat :=
  let p := s.place t
  ((s.peek p.asid (s.ctxd p.ctx 503 448 + 8 * n) 8).getD 0 + fget 0 p.cnt n) % 2 ^ 64
def execMark (k : Nat) (s : State) : Out :=
  ctl .tile 0 [] [] (do
    let pc ← rpc
    modify fun s =>
      let s := s.count s.cur (0x10 + k) 1
      s.traceTile s.cur 0x02 pc.toNat k (s.counter s.cur (0x10 + k) % 2 ^ 32)
    next) s
/-- Arm or disarm a range on every tile of the gang. -/
def State.causal (s : State) (k lo hi delay : Nat) : State :=
  match s.here.step with
  | some id => (s.modStep id fun st => { st with
      ranges := if delay = 0 then fdel k st.ranges else fput k (lo / 8 * 8, hi / 8 * 8, delay) st.ranges }).endTrial id
  | none => s
def execCausal (a b k delay : Nat) (s : State) : Out :=
  ctl .tile 1 [a, b] [] (do
    let lo ← rg a
    let hi ← rg b
    modify fun s => s.causal k lo.toNat hi.toNat delay
    next) s
def execCntrd (d a : Nat) (s : State) : Out :=
  ctl .tile 0 [d, a] [] (do
    let s ← get
    let n := (s.g a).toNat
    wg d (BitVec.ofNat 64 (if counterExists n then s.counter s.cur n else 0))
    next) s

-- ## Queue reset (R47, R274, R374)

/-- Commands of a queue without their signal: unstarted, started, and results that have not landed. -/
def State.unsignalled (s : State) (t q : Nat) : Nat :=
  (s.ring t q).filled + (if q = 0 then ((s.place t).landing.map (·.seq)).eraseDups.length else 0)
/-- The part of a held line whose sectors have a provenance that a test names, or the rest of it. -/
def Held.part (h : Held) (mine : Prov → Bool) : Option Held :=
  let prov := h.prov.filter fun e => mine e.2
  let secs := prov.foldl (fun n e => n + 2 ^ e.1) 0
  if prov.isEmpty then none else some { h with prov := prov, secs := secs, mask := h.mask &&& secMask secs }
/-- The held sectors that a test names are discarded, each line with its record when `dfr` (R47). -/
def State.discardHeld (s : State) (mine : Prov → Bool) (dfr : Bool) : State :=
  let gone := s.held.filterMap fun h => h.part mine
  let s := { s with held := s.held.filterMap fun h => h.part fun p => !mine p }
  let s := if dfr then gone.foldl (fun s h => s.dfr h 2) s else s
  gone.foldl (fun s h => s.roomAgain h.vf) s
/-- Reset an engine queue of a tile. -/
def State.resetEngine (s : State) (t q : Nat) (dfr : Bool) : State :=
  let p := s.place t
  let s := s.discardFrom t q 0
  let s := s.modPlace t fun p => { p with q := fdel q p.q, landing := if q = 0 then [] else p.landing }
  let s := { s with
    peers := s.peers.filter fun m => !(q = 4 && m.pkg = s.pkgNum && m.tile = t && m.queue.isSome)
    pushes := if q = 4 then s.pushes.map fun (p : Push) => if p.msg.pkg = s.pkgNum && p.msg.tile = t then { p with msg := { p.msg with queue := none } } else p else s.pushes
    progress := fdel (8 * (p.ctx + 65537 * p.gpos) + q) s.progress }
  s.discardHeld (fun h => h.queue == some q && h.ctx == p.ctx && h.tile == t) dfr
/-- Reset a launch queue: what has not started is dropped. -/
def State.resetLaunch (s : State) (d q : Nat) : State :=
  let mine := s.steps.filter fun st => !st.started && st.die = d && st.queue = q && !st.template
  let s := mine.foldl (fun s st => s.putRecordCpl st.asid st.vf st.packet.cpl (st.packet.f 127 64) 0 0x03) s
  let s := { s with steps := s.steps.filter fun st => !mine.any fun m => m.id == st.id }
  let s := match fget? s.prologues d with
    | some pr => if pr.queue = q then { s with prologues := fdel d s.prologues }.modPlace (512 + d) fun _ => Place.reset (512 + d) else s
    | none => s
  let l := s.lq d q
  s.setLq d q { l with cons := l.prod, copies := [], reading := [], again := none, busy := l.busy.filter fun i => !mine.any fun m => m.id == i }
/-- Stores of a queue's commands that are not yet performed. -/
def State.queueStores (s : State) (t q ctx : Nat) : Bool :=
  (s.place t).l1.any fun (_, l) => l.pend.any fun p => p.prov.queue == some q && p.prov.ctx == ctx
/-- Resets under way: writes of their commands that came to be held are discarded, and one ends when none of its stores
is left (R274). -/
def State.endQresets (s : State) : State :=
  s.qresets.foldl (fun s e =>
    let t := e.1 / 8
    let q := e.1 % 8
    let s := s.discardHeld (fun h => h.queue == some q && h.ctx == e.2 && h.tile == t) true
    if s.queueStores t q e.2 then s else { s with qresets := fdel e.1 s.qresets }) s
/-- QRESET: at its first execution it resets, then it waits for what it leaves to be performed; a second one of the queue
waits for the first. -/
def execQreset (a opt : Nat) (s : State) : Out :=
  ctl .any 1 [a] [] (do
    let s ← get
    let w := (s.g a).toNat
    if opt = 0 then
      let t := bits w 8 0
      let q := bits w 12 10
      need cPerm (q < 6 && w / 2 ^ 13 = 0 && !bit w 9)
      if s.here.begun.isNone then
        waitFor ((fget? s.qresets (8 * t + q)).isNone)
        let n := s.unsignalled t q
        modify fun s =>
          -- the SC of the queue's own tile resets without a notice (R374)
          let quiet := (s.cur = t && s.onSc) || (s.place t).step.isNone
          let s := s.resetEngine t q true
          let s := if quiet then s else s.post t ⟨cQreset, n, some q⟩
          { s with qresets := fput (8 * t + q) (s.place t).ctx s.qresets }.modHere fun p => { p with begun := some [] }
      modify State.endQresets
      waitFor ((fget? (← get).qresets (8 * t + q)).isNone)
      next
    else
      need cPerm (w < 256)
      modify fun s => s.resetLaunch (w / 64) (w % 64)
      next) s

end Sys2Proof.Machine
end

