-- ==== Sys2Proof/Machine/Coherence.lean ====
section
/-! DEFINITION. Events of the home directories, the replication control, the host's side of coherence, and writes of the
I/O dies (R54 to R75, R130 to R132, R395). -/
namespace Sys2Proof.Machine

-- ## The home directory (R61 to R63)

/-- A read request of a tile's L1 that its permissions allow, for a line it does not hold. -/
def State.homeReadFor (s : State) (t : Nat) (k : LineKey) : State :=
  let p := s.place t
  let l := s.l1 t k
  if p.step.isNone || l.st ≠ .i || !l.pend.isEmpty || s.keyOf p.asid k.va ≠ k then s
  else
    let a : Acc := ⟨t, p.asid, p.vf, p.ctx, none, 0⟩
    match (do
        let _ ← checkPerm a k.va .r
        modify fun s => s.touch k none
        l1Room t k
        dirRead a k true : M Line).run s with
    | .ok d s' => s'.fillL1 t k d 15
    | .error .stall s' => { s with msgs := s'.msgs }
    | .error _ _ => s
def execHomeRead (tile : Nat) (k : LineKey) (s : State) : Out := event (fun s => s.homeReadFor tile k) s
/-- The ownership request of a line that holds stores in state W. -/
def execHomeOwnership (tile : Nat) (k : LineKey) (s : State) : Out :=
  event (fun s => if s.hasMsg (grantFor k) || (s.l1 tile k).st = .m then s else s.ownForStore tile k) s
def execSkim (die : Nat) (k : LineKey) (s : State) : Out := event (fun s => s.deliverSkims die k) s
/-- The tile whose L1 line carries the pending-skim mark. -/
def State.markOf (s : State) (k : LineKey) : Option Nat := (s.places.find? fun e => (s.l1 e.1 k).mark).map (·.1)
/-- An acknowledgement reaches the home directory; with the last one, skims-done goes out. -/
def State.skimAck (s : State) (die : Nat) (k : LineKey) : State :=
  let s := if s.msgs.contains (.ack die k true) then
      let s := s.unsend (.ack die k true)
      -- a replica that a later read placed stays known to the directory (R60)
      if (s.replica die k).isSome then s else s.setDir k { s.dir k with q := remove (s.dir k).q die }
    else s
  if s.msgs.contains (.ack die k false) then
    let s := s.unsend (.ack die k false)
    let d := s.dir k
    let rest := remove d.k die
    let s := s.setDir k { d with k := rest }
    if d.k.contains die && rest.isEmpty then s.sendOnce (.done k) else s
  else s
def execSkimAcknowledgement (die : Nat) (k : LineKey) (s : State) : Out := event (fun s => s.skimAck die k) s
/-- Skims-done clears the mark; what waited for it may merge. A grant that is still on its way loses its mark. -/
def State.skimsDone (s : State) (k : LineKey) : State :=
  if !s.msgs.contains (.done k) then s
  else
    let s := s.unsend (.done k)
    let s := { s with msgs := s.msgs.map fun m => match m with
      | .grant t k' d dirty bad prov mark => .grant t k' d dirty bad prov (mark && k' != k)
      | m => m }
    match s.markOf k with
    | none => s
    | some t =>
      let l := s.l1 t k
      (s.setL1 t { l with mark := false, hide := false, wide := 0, prov := if l.dirty = 0 then [] else l.prov }).mergeAll t
def execSkimsDone (k : LineKey) (s : State) : Out := event (fun s => s.skimsDone k) s
def execDropNotice (die : Nat) (k : LineKey) (s : State) : Out := event (fun s => s.dropCopies die k) s
def execOwnerWriteBack (k : LineKey) (s : State) : Out := event (fun s => s.ownerEvicts k) s
def execOwnershipGrant (tile : Nat) (k : LineKey) (s : State) : Out := event (fun s => s.takeGrant tile k) s

-- ## Replication control (R58, R68)

/-- Skims of every replica of a region go out; no completion is awaited. -/
def State.sendSkims (s : State) (code : Nat) : State :=
  let mine := s.dirs.filter fun e => regionCode e.2.key.asid e.2.key.va = code && !e.2.q.isEmpty
  mine.foldl (fun s e =>
    let k := e.2.key
    let s := e.2.q.foldl (fun s d => (s.sendOnce (.skim d k true)).flits (s.homeDie k) d 0 (s.lineFn k)) s
    (s.event (s.homeDie k) 0x04 (s.lineFn k) e.2.q.length).modRegion k.asid k.va fun r =>
      { r with skims := (r.skims + e.2.q.length) % 2 ^ 32 }) s
/-- The degree that a sweep gives a region. -/
def sweptDegree (cfg : Nat) (r : Region) : Nat :=
  if !bit cfg 0 || r.pin then r.degree
  else if r.skimp > bits cfg 19 12 then r.degree - 1
  else if r.share > bits cfg 35 20 && r.degree < 3 then r.degree + 1
  else r.degree
/-- A die reports its counts of replica hits and evictions to the home dies of the regions (R67). -/
def State.reportScrim (s : State) (die : Nat) : State :=
  let mine := s.scrimCounts.filter fun e => e.1 % 4 = die
  let s := mine.foldl (fun s (key, hits, evicts) => { s with regions := match fget? s.regions (key / 4) with
    | some r => fput (key / 4) { r with rhits := (r.rhits + hits) % 2 ^ 32, sevict := (r.sevict + evicts) % 2 ^ 24 } s.regions
    | none => s.regions }) s
  { s with scrimCounts := s.scrimCounts.filter fun e => e.1 % 4 ≠ die }
/-- R68's sweep of one die. -/
def State.sweepDie (s : State) (die : Nat) : State :=
  let cfg := s.regN (dieReg die 0x1000)
  let s := s.reportScrim die
  (s.regions.filter fun e => e.2.home = die).foldl (fun s (code, r) =>
    let deg := sweptDegree cfg r
    let s := { s with regions := fput code { r with
      degree := deg, share := 0, skimp := 0, dchg := if deg = r.degree then r.dchg else (r.dchg + 1) % 2 ^ 8 } s.regions }
    if deg < r.degree then s.sendSkims code else s) s
/-- The sweep that began at the last multiple of 2^20: it runs once, within 2^18 gt (R68). -/
def State.rctSweep (s : State) (die : Nat) : State :=
  let n := s.tick / 2 ^ 20
  if die < 4 && s.tick % 2 ^ 20 ≤ 2 ^ 18 && fget 0 s.swept die ≠ n + 1 then { s.sweepDie die with swept := fput die (n + 1) s.swept } else s
def execRctSweep (die : Nat) (s : State) : Out := event (fun s => s.rctSweep die) s
/-- R58: the ways that leave the scrim drop their replicas, with their notices, and the ways that join it write their
home lines back. -/
def State.changeWays (s : State) (die : Nat) : State :=
  let new := s.regBits (dieReg die 0x1000) 11 8
  let gone := s.replicas.filter fun e => e.1 % 4 = die && new ≤ e.2.1
  let s := gone.foldl (fun s e =>
    let k := lineOf (e.1 / 4)
    let d := s.dir k
    let cached := s.places.any fun x => x.1 < 512 && dieOf x.1 = die && (s.l1 x.1 k).st ≠ .i
    ((s.dropReplica die k).scrimCount die k 0 1).setDir k { d with q := remove d.q die, p := if cached then d.p else remove d.p die }) s
  let joined := (s.home.map (·.2)).filter fun h => s.homeDie h.key = die && h.way < new
  let s := joined.foldl (fun s h => if s.lineQuiet h.key then s.evictHome h.key else s) s
  -- a line that is under way, or could not be written back, keeps its way until it can leave
  if s.home.any fun e => s.homeDie e.2.key = die && e.2.way < new then s
  else { s with scrimWays := fset 8 s.scrimWays die new, scrimDue := fdel die s.scrimDue }
def execScrimwaysChange (die : Nat) (s : State) : Out := event (fun s => s.changeWays die) s

-- ## The host (R72, R75, R395)

/-- A cached line of a PA; none has a copy in no cache. -/
def State.lineAt (s : State) (pa : Nat) : Option LineKey := s.reverse (pa / 128 * 128)
/-- Every copy goes, and the latest data is in the frame: what a snoop that invalidates leaves. -/
def State.surrender (s : State) (k : LineKey) (pa : Nat) : State :=
  let s := (s.revoke k none true).1
  match s.homeLine k with
  | some h =>
    let s := if h.dirty = 0 then s else s.toFrame k (pa / 128 * 128) (secMask h.dirty) h.data
    (if h.poisoned &&& h.dirty ≠ 0 then s.poison k.asid k.va false else s).dropHome k
  | none => s
/-- Run on the line of a PA when the directory can serve it now. -/
def State.onLine (s : State) (pa : Nat) (f : LineKey → State → State) : State :=
  if s.paBusy (pa / 128 * 128) then s
  else match s.lineAt pa with
    | some k => f k s
    | none => s
/-- An owner of the package keeps the line in S, where the home partition has room for what it sends. -/
def State.share (s : State) (k : LineKey) (f : State → State) : State :=
  match s.ownerRoom k with
  | some s' => f ((s'.downgrade k).passOn k)
  | none => s
/-- R72, host snoop for data. -/
def State.snpData (s : State) (pa : Nat) : State :=
  s.onLine pa fun k s => s.share k fun s =>
    match s.hostSt pa with
    | .e => s.setHost pa .s
    | .m => s.setHost pa .o
    | _ => s
def execSnpData (pa : Nat) (s : State) : Out := event (fun s => if inT3 pa then s.snpData pa else s) s
def execSnpInv (pa : Nat) (s : State) : Out :=
  event (fun s => if inT3 pa then s.onLine pa fun k s => (s.surrender k pa).setHost pa .i else s) s
/-- R72, host snoop current: the host obtains the data, and no state changes. -/
def execSnpCur (_pa : Nat) (s : State) : Out := event (fun s => s) s
/-- R75, host read: a device owner goes to S; E when no cache of the device holds a copy. -/
def State.hostRead (s : State) (pa : Nat) : State :=
  s.onLine pa fun k s =>
    if s.hostSt pa ≠ .i then s
    else match s.dirRoom k with
      | (s, false) => s
      | (s, true) => s.share k fun s =>
        let d := s.dir k
        s.setHost pa (if d.l.isEmpty && d.p.isEmpty then .e else .s)
def execMemRdSnpData (pa : Nat) (s : State) : Out := event (fun s => if inHbm pa || inT2 pa then s.hostRead pa else s) s
def execMemRdSnpInv (pa : Nat) (s : State) : Out :=
  event (fun s => if inHbm pa || inT2 pa then s.onLine pa fun k s => if s.replaysIn k.asid then s else match s.dirRoom k with
    | (s, true) => (s.surrender k pa).setHost pa .m
    | (s, false) => s else s) s
/-- A line of the host's data in the home partition; `back` gives the device the duty to write it back. It waits for room
there. -/
def State.hostData (s : State) (k : LineKey) (pa : Nat) (d : Line) (back : Bool) : Option State :=
  (s.homeRoom k).map fun s =>
    let h := (s.homeLine k).getD (s.newHome k)
    ((s.setHome { h with pa := some (pa / 128 * 128), data := d, valid := 15, dirty := if back then 15 else h.dirty }).recordHost
      k.asid k.va (bytesOf 128 d.toNat)).passOn k
/-- R75, host write-back from M or O; a line of a context that replays waits (R423). -/
def State.hostWriteBack (s : State) (pa : Nat) (d : Line) : State :=
  if s.hostSt pa ≠ .m && s.hostSt pa ≠ .o then s
  else match s.lineAt pa with
    | some k => if s.replaysIn k.asid then s else ((s.hostData k pa d true).map fun s => s.setHost pa .i).getD s
    | none => (s.memWrite (pa / 128 * 128) (bytesOf 128 d.toNat)).setHost pa .i
def execMemWr (pa : Nat) (d : Line) (s : State) : Out :=
  event (fun s => if s.populated pa && !inT3 pa then s.hostWriteBack pa d else s) s

/-- The PA of a line that awaits the host. -/
def State.askedPa (s : State) (k : LineKey) : Option Nat :=
  match s.walkPage (s.asidFor k) k.va with
  | .leaf e l => if s.populated (paOf e l k.va) then some (paOf e l k.va) else none
  | _ => none
/-- The host answers a request of the device (R72, R75): the state it leaves, and the data of a snoop. -/
def State.hostAnswers (s : State) (k : LineKey) (a : HostAns) : State :=
  match s.msgs.findSome? fun m => match m with
    | .toHost k' n => if k' == k then some n else none
    | _ => none with
  | none => s
  | some n =>
    let s' := s.unsend (.toHost k n)
    match s.askedPa k with
    | none => s'
    | some pa =>
      let h := s.hostSt pa
      if n ≥ 3 && h == .i then s'
      else match n, a with
      | 0, .shared => s'.setHost pa .s
      | 0, .exclusive => s'.setHost pa .e
      | 1, .ownership => s'.setHost pa .m
      | 2, .ownership => s'.setHost pa .m
      | 3, .data d =>
        if h = .m || h = .o then ((s'.hostData k pa d false).map fun s => s.setHost pa .o).getD s else s'.setHost pa .s
      | 3, .shared => if h = .e then s'.setHost pa .s else s
      | 4, .data d => if h = .m || h = .o then ((s'.hostData k pa d true).map fun s => s.setHost pa .i).getD s else s'.setHost pa .i
      | 4, .shared => if h = .s || h = .e then s'.setHost pa .i else s
      | 5, .data d =>
        if h = .m || h = .o then ((s'.hostData k pa d true).map fun s => ((s.setHost pa .i).flushLine k)).getD s else s'.setHost pa .i
      | 5, .shared => if h = .s || h = .e then s'.setHost pa .i else s
      | _, _ => s
def execHostAnswer (k : LineKey) (a : HostAns) (s : State) : Out := event (fun s => s.hostAnswers k a) s

-- ## Errors, and what the monitor sets without a register (R15, R40, R43, R52, R65, R81)

/-- What an outside event does. An error in a clean sector is a miss: the sector of a shared copy or of the home partition
is fetched at the next access, that of an owner at once, which changes nothing (log 79). -/
def State.outside (s : State) : Outside → State
  | .spError t w true => if 4 * w < spSize t then s.modPlace t fun p => { p with spErrors := p.spErrors + 1 } else s
  | .spError t w false => if 4 * w < spSize t then s.modPlace t fun p => { p with spPoison := fput w true p.spPoison } else s
  | .l1Error t k i =>
    let l := s.l1 t k
    if i ≥ 4 || !bit l.valid i then s
    else if bit l.dirty i then s.setL1 t { l with bad := l.bad ||| 2 ^ i }
    else if l.st = .s then s.setL1 t { l with valid := l.valid - 2 ^ i }
    else s
  | .homeError k i => match s.homeLine k with
    | none => s
    | some h =>
      if i ≥ 4 || !bit h.valid i then s
      else if bit h.dirty i then s.setHome { h with poisoned := h.poisoned ||| 2 ^ i }
      else s.setHome { h with valid := h.valid - 2 ^ i }
  | .scrimError d k => s.dropReplica d k
  | .bstError t w => if t < 512 && w < 786432 then s.modPlace t fun p => { p with bstBad := fput w true p.bstBad } else s
  | .tagError t r => if t < 512 && r < 12288 then s.modPlace t fun p => { p with tagBad := fput r true p.tagBad } else s
  | .target f bad => { s with badTargets := if bad then addTo s.badTargets f else remove s.badTargets f }
  | .asdBase pa => { s with asdBase := pa / 16 * 16, roots := [] }
  | .overflow f n => { s with holdArea := fset 0 s.holdArea f n }
  | .stageB => if s.regBits 0x8 3 0 = 1 then s.stageB else s
  | .fuse => if s.regBits 0x8 3 0 = 2 || s.regBits 0x8 3 0 = 3 || s.regBits 0x8 3 0 = 4 then s.raiseSvn else s

-- ## Writes of the I/O dies (R110, R130)

/-- Merge a write of an I/O-die agent at every device scope; it waits while a line of it is busy. -/
def State.ioWrite (s : State) (pa : Nat) (bs : List Byte) : Option State :=
  (((spanLines pa bs.length).foldl (fun (acc : Option State × List Byte) (l, off, m) =>
    (acc.1.bind fun s =>
      if !s.populated l then some (s.logMtu (mtuOf l) l 3)
      else if !s.paReady l true || (match s.lineAt l with | some k => s.replaysIn k.asid | none => false) then none
      else
        let s' := s.writePa (l + off) (acc.2.take m)
        some (match s.lineAt l with
          | some k => s'.recordHost k.asid (k.va + off) (acc.2.take m)
          | none => s'), acc.2.drop m)) (some s, bs))).1
/-- What a write of an I/O-die agent that must wait asks of the host. -/
def State.ioAsk (s : State) (pa n : Nat) : State := (spanLines pa n).foldl (fun s e => s.paRequest e.1 true) s
def execInboundWrite (pa : Nat) (bs : List Byte) (s : State) : Out :=
  event (fun s => (s.ioWrite pa bs).getD (s.ioAsk pa bs.length)) s
/-- One descriptor: its writes in ascending address order, then the completion. -/
def State.dmaWrites (s : State) (l : List (Nat × List Byte)) : Option State :=
  (sortBy (fun e : Nat × List Byte => e.1) l).foldl (fun acc e => acc.bind fun s => s.ioWrite e.1 e.2) (some s)
def execDmaDescriptor (writes : List (Nat × List Byte)) (done : Option (Nat × List Byte)) (s : State) : Out :=
  event (fun s => ((s.dmaWrites writes).bind fun s => match done with
    | some (pa, bs) => s.ioWrite pa bs
    | none => some s).getD (writes.foldl (fun s e => s.ioAsk e.1 e.2.length) s)) s

end Sys2Proof.Machine
end

