-- ==== Sys2Proof/Machine/Residency.lean ====
section
/-! DEFINITION. The residency engine: evaluation, moves, deadlines, poison, and the command and event rings (R86 to R94,
R104 to R107). -/
namespace Sys2Proof.Machine

-- ## Granules by code

/-- The address-space tag and VA of a granule code. -/
def granTag (g : Nat) : Option Nat := if g / 2 ^ 43 = 0 then none else some (g / 2 ^ 43 - 1)
def granVa (g : Nat) : Nat := g % 2 ^ 43 * 8192
def State.granOf (s : State) (g : Nat) : Option Pgd := fget? s.pgd g
def State.regOf (s : State) (g : Nat) : Option Region := fget? s.regions (regionCode (granTag g) (granVa g))
/-- The function that owns a granule. -/
def State.granVf (s : State) (g : Nat) : Nat := (s.regOf g).map (·.perm.vf) |>.getD 0
def State.modPgd (s : State) (g : Nat) (f : Pgd → Pgd) : State := s.modGran (granTag g) (granVa g) f

/-- Pages of a granule in every address space that maps it: PA of the leaf and the leaf. -/
def State.leaves (s : State) (g : Nat) : List (Nat × Nat) :=
  let asids := match granTag g with
    | some a => [a]
    | none => (range 0 65536).filter fun a => bit (s.asd a) 0
  asids.filterMap fun a =>
    let (_, ea, e) := s.path a (granVa g) 0
    if bits e 1 0 = 3 && bit e 56 == (granTag g).isNone then some (ea, e) else none
/-- PROTECT of a granule's page by the RSE: PST, and the frame of a move. -/
def State.rseProtect (s : State) (g pst : Nat) (frame : Option Nat) : State :=
  (s.leaves g).foldl (fun s (ea, e) =>
    let e := setBits e 59 58 pst
    s.memWrite ea (bytesOf 8 (match frame with | some f => setBits e 51 13 (f / 8192) | none => e))) s
/-- SHOOT of one page, after which no die shares it (R88). -/
def State.shootGran (s : State) (g : Nat) : State :=
  (s.shoot (granTag g) false (g % 2 ^ 43) (g % 2 ^ 43 + 1)).modPgd g fun p => { p with sharers := [] }
/-- A line of the granule is moving between caches. -/
def State.granBusy (s : State) (g : Nat) : Bool :=
  (range 0 64).any fun i =>
    !s.lineQuiet ⟨granTag g, g % 2 ^ 43 * 64 + i⟩

-- ## Frames

/-- The die whose RSE pools a frame of a tier. -/
def poolDie (die tier : Nat) : Nat := if tier = 1 then die else 2 * (die / 2)
def Rse.pool (r : Rse) (tier : Nat) : List Nat := if tier = 1 then r.pool1 else r.pool2
def Rse.setPool (r : Rse) (tier : Nat) (l : List Nat) : Rse := if tier = 1 then { r with pool1 := l } else { r with pool2 := l }
/-- A frame may hold a granule: it is of the function's channel groups, and in T1 on the region's path (R24, R401). -/
def State.suits (s : State) (g tier f : Nat) : Bool :=
  s.channelOk (s.granVf g) f && (tier ≠ 1 || (s.regOf g).map Region.mtu == some (mtuOf f))
/-- A free frame for a granule, which is not mapped. -/
def State.freeFrame (s : State) (die g tier : Nat) : Option Nat :=
  ((s.rse (poolDie die tier)).pool tier).find? fun f => (fget? (s.mtu (mtuOf f)).rmap (f / 8192)).isNone && s.suits g tier f
/-- The die whose pool a frame enters once it is zeroed. -/
def homePool (f : Nat) : Nat := if inHbm f then stackOf f / 2 else 2 * (mtuOf f - 8)
/-- A frame for a granule is being zeroed: a request that needs one waits for it (R409). -/
def State.frameComing (s : State) (die g tier : Nat) : Bool :=
  s.zeroing.any fun f => tierOf f = tier && homePool f = poolDie die tier && s.suits g tier f
def State.takeFrame (s : State) (die tier f : Nat) : State :=
  s.modRse (poolDie die tier) fun r => r.setPool tier (remove (r.pool tier) f)
def State.poolFrame (s : State) (die f : Nat) : State :=
  s.modRse (poolDie die (tierOf f)) fun r => r.setPool (tierOf f) (addTo (r.pool (tierOf f)) f)
/-- The zero engine finishes a frame, which enters the pool of its die (R409). -/
def State.zeroed (s : State) (pa : Nat) : State :=
  if !s.zeroing.contains pa then s
  else
    let s := { s.clearPa pa 8192 with zeroing := remove s.zeroing pa }
    if tierOf pa = 3 then s
    else s.poolFrame (homePool pa) pa
def execFrameZeroingEnd (pa : Nat) (s : State) : Out := event (fun s => s.zeroed pa) s

-- ## Moves (R92, R105)

/-- Open the switch window of a move to a frame. A host's copy of a line of the granule (R75) stays where it is: the model
moves without asking the host, copies the frame's bytes, and a later write-back of the host goes to the old frame (R92 is
silent on it; log 97). -/
def State.openWindow (s : State) (die : Nat) (w : Window) : State :=
  let s := s.takeFrame die w.tier w.frame
  let s := (s.rseProtect w.gran 1 none).modPgd w.gran fun p => { p with st := 1 }
  (s.shootGran w.gran).modRse die fun r => { r with window := some w, queue := r.queue.filter fun m => m.promote || m.gran ≠ w.gran }
/-- The context with the earlier wake. -/
def State.earlier (s : State) (a b : Option Nat) : Option Nat :=
  match a, b with
  | some x, some y => if s.ctxd y 191 128 < s.ctxd x 191 128 then some y else some x
  | some x, none => some x
  | none, y => y
/-- Close it: copy the content, release the old frame, and make the granule resident. -/
def State.closeWindow (s : State) (die : Nat) (w : Window) : State :=
  match s.granOf w.gran with
  | none => s.modRse die fun r => { r with window := none }
  | some p =>
    let s := if w.refetch then
        ((s.copyPa (p.lframe * 8192) w.frame 8192).modPgd w.gran fun p => { p with dirty := false }).modRse die fun r =>
          { r with retired := r.retired ++ [p.frame * 8192] }
      else if w.tier = 1 then
        (s.copyPa (p.frame * 8192) w.frame 8192).modPgd w.gran fun p => { p with
          lframe := p.frame, ltier := p.tier, lv := true, dirty := false, owner := if w.cmd then none else s.earlier p.owner w.owner }
      else
        -- a command that names another frame than the clean copy's takes the content along, and the copy is freed (log 76)
        let keeps := p.lv && w.frame = p.lframe * 8192
        let s := if !keeps || p.dirty then s.copyPa (p.frame * 8192) w.frame 8192 else s
        { s.modPgd w.gran fun p => { p with lv := false, dirty := false, owner := none } with
          zeroing := s.zeroing ++ [p.frame * 8192] ++ (if p.lv && !keeps then [p.lframe * 8192] else []) }
    let asid := (granTag w.gran).getD 0
    let s := (s.rmapDel (p.frame * 8192) 1).modMtu (mtuOf w.frame) fun m => { m with
      rmap := fput (w.frame / 8192) (granVa w.gran / 8192, (granTag w.gran).isNone, asid) m.rmap }
    let s := s.modPgd w.gran fun p => { p with frame := w.frame / 8192, tier := w.tier, st := 0, sharers := [], sip := if w.tier = 1 then false else p.sip }
    (s.rseProtect w.gran 0 (some w.frame)).modRse die fun r => { r with window := none, queue := r.queue.filter fun m => m.gran ≠ w.gran }

/-- The order of promotions: those that have missed last, then by deadline and VA. -/
def promoteBefore (a b : RseMove) : Bool :=
  if a.missed ≠ b.missed then b.missed
  else a.deadline < b.deadline || (a.deadline = b.deadline && granVa a.gran < granVa b.gran)
/-- The least entry of a list in an order. -/
def firstBy {α} (before : α → α → Bool) : List α → Option α
  | [] => none
  | a :: r => match firstBy before r with
    | none => some a
    | some b => if before b a then some b else some a
/-- Entries that the RSE serves by itself. -/
def State.hardware (s : State) (die : Nat) (l : List RseMove) : List RseMove :=
  l.filter fun m => !s.rseHa die (s.granVf m.gran) && (match s.granOf m.gran with | some p => p.st = 0 && !p.large | none => false)
/-- A queued promotion waits for the T1 frame that a demotion of a granule would free (R91). -/
def State.awaitsFrame (s : State) (die : Nat) (p : Pgd) (l : List RseMove) : Bool :=
  l.any fun m => m.promote && (match s.granOf m.gran with | some x => x.tier = 2 | none => false) && (s.freeFrame die m.gran 1).isNone &&
    s.channelOk (s.granVf m.gran) (p.frame * 8192) && (s.regOf m.gran).map Region.mtu == some (mtuOf (p.frame * 8192))
/-- The next move a die may begin: the first promotion that has a frame, else the demotion whose owner wakes last. -/
def State.nextMove (s : State) (die : Nat) : Option Window :=
  let q := s.hardware die (s.rse die).queue
  let pro := q.filter fun m => m.promote && (match s.granOf m.gran with | some p => p.tier = 2 | none => false) && (s.freeFrame die m.gran 1).isSome
  match firstBy promoteBefore pro with
  | some m => (s.freeFrame die m.gran 1).map fun f => ⟨m.gran, f, 1, some m.owner, false, false⟩
  | none =>
    let dem := q.filter fun m => !m.promote && (match s.granOf m.gran with | some p => p.tier = 1 && !p.pin && !s.awaitsFrame die p q | none => false)
    match firstBy (fun a b => s.ctxd b.owner 191 128 < s.ctxd a.owner 191 128) dem with
    | none => none
    | some m => match s.granOf m.gran with
      | none => none
      | some p =>
        let f := if p.lv then some (p.lframe * 8192) else s.freeFrame die m.gran 2
        f.map fun f => ⟨m.gran, f, 2, none, false, false⟩
/-- A promotion finds the pool empty (R107, KIND 3): posted at every MOVE event at which it does (the model's choice,
log 77). -/
def State.poolEmpty (s : State) (die : Nat) : State :=
  let q := (s.hardware die (s.rse die).queue).filter (·.promote)
  match firstBy promoteBefore q with
  | some m => if (s.freeFrame die m.gran 1).isNone && !s.frameComing die m.gran 1 then s.resEvent die 3 (granVa m.gran) ((granTag m.gran).getD 0) m.owner (s.granVf m.gran) else s
  | none => s
/-- The residency engine of a die starts moves (R89). -/
def State.rseEn (s : State) (die : Nat) : Bool := bit (s.regN (dieReg die 0x1008)) 0
/-- One step of the RSE's moves: close its window, or open the next. -/
def State.rseMove (s : State) (die : Nat) : State :=
  match (s.rse die).window with
  | some w => if w.cmd || w.refetch then s else s.closeWindow die w
  | none =>
    if !s.rseEn die then s
    else match s.nextMove die with
      | some w => if s.granBusy w.gran then s else s.openWindow die w
      | none => s.poolEmpty die
def execMove (die : Nat) (s : State) : Out := event (fun s => s.rseMove die) s
/-- The evaluation at a multiple of 2^16 (R91). -/
def execRseEvaluate (ctx : Nat) (s : State) : Out := event (fun s => if s.tick % 2 ^ 16 = 0 then s.evaluate ctx else s) s

-- ## Parks for late granules (R94)

/-- Park a running context wherever its step runs; a member of a batch only leaves the batch (R151). -/
def State.parkRunning (s : State) (c reason info : Nat) : State :=
  match s.steps.find? fun st => st.started && st.current.contains c && st.positions.any fun p => p.tile.isSome with
  | none => s
  | some st =>
    if st.batched then
      ((s.notePark (c / 16384 % 4) c reason 0 0).leaveBatch c).parkCtx c reason info
    else (st.positions.filterMap (·.tile)).foldl (fun s t =>
      if (s.place t).frozen || (s.place t).switch.isSome then s else s.parkTile t reason info (s.place t).cc.pc) s
/-- R94 for every eligible context of the package. -/
def State.tierPark (s : State) : State :=
  let all := (range 0 4).flatMap fun d => s.liveContexts d
  all.foldl (fun s c =>
    let st := s.ctxState c
    if st = 1 || st = 2 then
      match s.tierCheck c with
      | (s, none) => s
      | (s, some va) => if st = 1 then ((s.notePark (c / 16384 % 4) c 4 0 0).leaveBatch c).parkCtx c 4 va else s.parkRunning c 4 va
    else s) s
/-- Contexts with a granule in T3 park at once (R94): after a map request gave a page a frame there. -/
def State.tierThree (s : State) : State := if s.pgd.any fun e => e.2.tier = 3 then s.tierPark else s
def execMap (mtu : Nat) (s : State) : Out := event (fun s => (s.mapEvent mtu 0).tierThree) s
def execProtect (mtu : Nat) (s : State) : Out := event (fun s => (s.mapEvent mtu 3).tierThree) s

-- ## Poison and refetch (R104, R105)

/-- The PTE follows a poisoned granule, its page is shot down, and a function in host-assisted mode hears of it. -/
def State.spreadPoison (s : State) (g : Nat) : State :=
  ((s.resEvent (s.granDie (granTag g) (granVa g)) 2 (granVa g) ((granTag g).getD 0) 0 (s.granVf g)).rseProtect g 3 none).shootGran g
/-- The residency engine serves what the MTUs have asked of it about poisoned granules (R104). -/
def State.servePoison (s : State) : State :=
  s.poisonAsks.foldl (fun s g => if s.granBusy g then s else { s.spreadPoison g with poisonAsks := remove s.poisonAsks g }) s
/-- A move that meets the error ends, and its target frame goes back. -/
def State.endMove (s : State) (g : Nat) : State :=
  s.rses.foldl (fun s (d, r) => match r.window with
    | some w => if w.gran = g then (s.modRse d fun r => { r with window := none }).poolFrame d w.frame else s
    | none => s) s
/-- An uncorrectable error in a frame: its granule is poisoned; in a lower copy, that copy is lost. -/
def State.frameError (s : State) (pa : Nat) : State :=
  let f := pa / 8192
  s.pgd.foldl (fun s (g, p) =>
    if p.frame = f && p.st ≠ 2 then (s.endMove g).poison (granTag g) (granVa g) true
    else if p.lframe = f && p.lv then
      let refetching := s.rses.any fun e => match e.2.window with | some w => w.gran = g && w.refetch | none => false
      if refetching then (s.endMove g).poison (granTag g) (granVa g) false
      else s.modPgd g fun p => { p with lv := false }
    else s) s
def execPoisonGranule (pa : Nat) (s : State) : Out := event (fun s => s.frameError pa) s
/-- The refetch of a poisoned granule from its clean copy: it begins, and at the next such event ends. -/
def State.refetchGran (s : State) (die g : Nat) (cmd : Bool) : State :=
  match (s.rse die).window with
  | some w => if w.gran = g && w.refetch && w.cmd = cmd then s.closeWindow die w else s
  | none =>
    match s.granOf g with
    | some p =>
      if s.rseEn die && p.st = 3 && p.clean && !s.granBusy g && !s.poisonAsks.contains g then
        match s.freeFrame die g 1 with
        | some f => s.openWindow die ⟨g, f, 1, p.owner, true, cmd⟩
        | none => if s.frameComing die g 1 then s else s.resEvent die 3 (granVa g) ((granTag g).getD 0) 0 (s.granVf g)
      else s
    | none => s
def execRefetchCleanCopy (die : Nat) (k : LineKey) (s : State) : Out :=
  event (fun s =>
    let g := granCode k.asid k.va
    if s.granDie k.asid k.va ≠ die || s.rseHa die (s.granVf g) then s else s.refetchGran die g false) s

-- ## The command ring (R106)

/-- Registers of ring group `r` of a die. -/
def ringGroup (die r : Nat) : Nat := dieReg die (0x2000 + 0x40 * r)
structure RseCmd where
  w : Nat
def RseCmd.va (c : RseCmd) : Nat := bits c.w 255 200
def RseCmd.tag (c : RseCmd) : Option Nat := if bit c.w 183 then none else some (bits c.w 199 184)
def RseCmd.gran (c : RseCmd) : Nat := granCode c.tag c.va
def RseCmd.op (c : RseCmd) : Nat := bits c.w 182 180
def RseCmd.tier (c : RseCmd) : Nat := bits c.w 179 178
def RseCmd.frame (c : RseCmd) : Nat := bits c.w 177 139 * 8192
def RseCmd.deadline (c : RseCmd) : Nat := bits c.w 127 64
/-- Fields that make any command BADREQ. -/
def RseCmd.bad (c : RseCmd) : Bool := c.va % 8192 ≠ 0 || bits c.w 138 128 ≠ 0 || bits c.w 63 8 ≠ 0 || c.op > 4
/-- The code of a command that has been performed. -/
def RseCmd.done (c : RseCmd) (s : State) : Nat := if c.deadline < s.tick then 2 else 1
/-- The frame that a command names is one a move may take (R86): none, or of the target tier, in the stack of the
region's MTU or in T2 behind the I/O die on the home die's side; a frame that is mapped is none (log 76). -/
def State.cmdFrameOk (s : State) (c : RseCmd) (tier : Nat) : Bool :=
  c.frame = 0 || (tierOf c.frame = tier && (fget? (s.mtu (mtuOf c.frame)).rmap (c.frame / 8192)).isNone &&
    (if tier = 1 then (s.regOf c.gran).map Region.mtu == some (mtuOf c.frame)
      else inT2 c.frame && mtuOf c.frame = 8 + s.granDie c.tag c.va / 2))
/-- The frame a moving command names, or one from the pool. -/
def State.cmdFrame (s : State) (die : Nat) (c : RseCmd) (p : Pgd) (tier : Nat) : Option Nat :=
  if c.frame ≠ 0 then some c.frame
  else if tier = 2 && p.lv then some (p.lframe * 8192)
  else s.freeFrame die c.gran tier
/-- Answer of a command: performed or refused with a code; it has begun; it waits. -/
inductive RseAns where
  | code (s : State) (n : Nat)
  | begun (s : State)
  | wait
/-- PROMOTE and DEMOTE: `tier` is where they take the granule. -/
def State.cmdMove (s : State) (die : Nat) (c : RseCmd) (tier : Nat) : RseAns :=
  match (s.rse die).window, s.granOf c.gran with
  | some w, _ =>
    if w.cmd && w.gran = c.gran && !w.refetch then let s := s.closeWindow die w; .code s (c.done s) else .wait
  | none, none => .code s 5
  | none, some p =>
    let ok := s.rseHa die (s.granVf c.gran) && s.movable c.tag c.va && p.st = 0 && c.tier = tier &&
      (if tier = 1 then p.tier = 2 else p.tier = 1 && !p.pin) && s.cmdFrameOk c tier
    if p.st = 1 || (ok && (s.granBusy c.gran || !s.rseEn die || s.zeroing.contains c.frame)) then .wait
    else if !ok then .code s 4
    else match s.cmdFrame die c p tier with
      | none => if s.frameComing die c.gran tier then .wait else .code (s.resEvent die 3 c.va (c.tag.getD 0) 0 (s.granVf c.gran)) 3
      | some f =>
        let s := s.openWindow die ⟨c.gran, f, tier, none, false, true⟩
        .begun (if tier = 1 then s.modRse die fun r => { r with queue := r.queue.filter (fun m => m.gran ≠ c.gran) ++ [⟨c.gran, true, c.deadline, 65536, false⟩] } else s)
/-- A set that a granule's lines would need holds 8 pinned ways of other lines already (R58). -/
def State.pinFull (s : State) (die va : Nat) : Bool :=
  (range 0 64).any fun i =>
    let v := va + 128 * i
    (s.home.filter fun e => e.2.pinned && s.homeDie e.2.key = die && l2Set e.2.key.va = l2Set v && e.2.key.line ≠ v / 128).length ≥ 8
/-- Lines of a granule. -/
def granLines (c : RseCmd) : List LineKey := (range 0 64).map fun i => ⟨c.tag, c.va / 128 + i⟩
/-- PIN; one that names a frame is BADREQ (the model's choice, log 76). It waits until the lines of a pinned granule are
in the home partition. -/
def State.cmdPin (s : State) (die : Nat) (c : RseCmd) : RseAns :=
  match s.granOf c.gran with
  | none => .code s 5
  | some p =>
    if !s.movable c.tag c.va || p.st ≠ 0 || p.tier > 1 || c.tier > 1 || c.frame ≠ 0 then .code s 4
    else if c.tier = 1 then .code (s.modPgd c.gran fun p => { p with pin := true }) (c.done s)
    else if s.pinFull die c.va then .code s 6
    else
      let s := (granLines c).foldl (fun s k => (s.serveFill k).fillAsk k) s
      if !(granLines c).all fun k => (s.homeLine k).any fun h => h.valid = 15 then .begun s
      else
        let s := (granLines c).foldl (fun s k => match s.homeLine k with
          | some h => s.setHome { h with pinned := true }
          | none => s) s
        .code (s.modPgd c.gran fun p => { p with tier := 0, pin := true }) (c.done s)
def State.cmdUnpin (s : State) (c : RseCmd) : RseAns :=
  match s.granOf c.gran with
  | none => .code s 5
  | some p =>
    if !s.movable c.tag c.va then .code s 4
    else
      let s := (granLines c).foldl (fun s k => match s.homeLine k with
        | some h => s.setHome { h with pinned := false }
        | none => s) s
      .code (s.modPgd c.gran fun x => { x with pin := false, tier := if p.tier = 0 then 1 else p.tier }) (c.done s)
def State.cmdRefetch (s : State) (die : Nat) (c : RseCmd) : RseAns :=
  match (s.rse die).window, s.granOf c.gran with
  | some w, _ => if w.cmd && w.gran = c.gran && w.refetch then let s := s.closeWindow die w; .code s (c.done s) else .wait
  | none, none => .code s 5
  | none, some p =>
    if !s.rseHa die (s.granVf c.gran) || !s.movable c.tag c.va || p.st ≠ 3 || !s.cmdFrameOk c 1 then .code s 4
    else if !p.clean then .code s 7
    else if s.granBusy c.gran || !s.rseEn die || s.poisonAsks.contains c.gran || s.zeroing.contains c.frame then .wait
    else match s.cmdFrame die c p 1 with
      | none => if s.frameComing die c.gran 1 then .wait else .code (s.resEvent die 3 c.va (c.tag.getD 0) 0 (s.granVf c.gran)) 3
      | some f => .begun (s.openWindow die ⟨c.gran, f, 1, p.owner, true, true⟩)
/-- The command at the head of a die's ring, if it is of kind `op`. -/
def State.rseCommand (s : State) (die op : Nat) : State :=
  let g := ringGroup die 2
  match s.cmdHead g 32 with
  | none => s
  | some (pa, w) =>
    let c : RseCmd := ⟨w⟩
    if (if c.op > 4 then 0 else c.op) ≠ op then s
    else if c.bad then s.cmdDone g pa 4
    else match (if op = 0 then s.cmdMove die c 1 else if op = 1 then s.cmdMove die c 2 else if op = 2 then s.cmdPin die c
        else if op = 3 then s.cmdUnpin c else s.cmdRefetch die c) with
      | .code s n =>
        (if op = 0 then s.modRse die fun r => { r with queue := r.queue.filter fun m => m.gran ≠ c.gran || m.owner ≠ 65536 } else s).cmdDone g pa n
      | .begun s => s
      | .wait => s
/-- Published PROMOTE commands of a die's ring are promotions with a deadline from then on (R94, R106). -/
def State.seePromotes (s : State) (die : Nat) : State :=
  let g := ringGroup die 2
  (range 0 (s.cmdCount g)).foldl (fun s i =>
    let c : RseCmd := ⟨s.cmdAt g 32 i⟩
    match s.granOf c.gran with
    | some p =>
      if c.op = 0 && !c.bad && c.tier = 1 && s.rseHa die (s.granVf c.gran) && s.movable c.tag c.va && p.tier = 2 && p.st ≤ 1 &&
          !(s.rse die).queue.any fun m => m.gran = c.gran then
        s.modRse die fun r => { r with queue := r.queue ++ [⟨c.gran, true, c.deadline, 65536, false⟩] }
      else s
    | none => s) s

-- ## Deadlines (R94)

/-- Queued promotions of a die whose deadline the tick has reached. -/
def State.deadlineMiss (s : State) (die : Nat) : State :=
  let s := s.seePromotes die
  let late := (s.rse die).queue.filter fun m => m.promote && !m.missed && m.deadline ≤ s.tick
  let s := late.foldl (fun s m => s.resEvent die 1 (granVa m.gran) ((granTag m.gran).getD 0) m.owner (s.granVf m.gran)) s
  (s.modRse die fun r => { r with queue := r.queue.map fun m => if m.promote && m.deadline ≤ s.tick then { m with missed := true } else m }).tierPark
def execDeadlineMiss (die : Nat) (s : State) : Out := event (fun s => s.deadlineMiss die) s

def execPromote (die : Nat) (s : State) : Out := event (fun s => s.rseCommand die 0) s
def execDemote (die : Nat) (s : State) : Out := event (fun s => s.rseCommand die 1) s
def execPin (die : Nat) (s : State) : Out := event (fun s => s.rseCommand die 2) s
def execUnpin (die : Nat) (s : State) : Out := event (fun s => s.rseCommand die 3) s
def execRefetch (die : Nat) (s : State) : Out := event (fun s => s.rseCommand die 4) s

/-- R107: the oldest waiting event goes to the ring. -/
def State.writeResEvent (s : State) (die : Nat) : State :=
  match (s.rse die).events with
  | [] => s
  | w :: r =>
    let g := ringGroup die 3
    match s.ringEvent g w with
    | some s => s.modRse die fun x => { x with events := r }
    | none => s.ringAsk g
def execResidencyEvent (die : Nat) (s : State) : Out := event (fun s => s.writeResEvent die) s

end Sys2Proof.Machine
end

