-- ==== Sys2Proof/Machine/Firmware.lean ====
section
/-! DEFINITION. Events that the firmware and the host cause: quotas, function enables, the mailbox, contexts, power,
start-up, queries, recording, function-level reset (R83, R270, R375, R391 to R394, R398 to R423). -/
namespace Sys2Proof.Machine

-- ## Register writes (R392, R394)

def execRegisterWrite (off size value : Nat) (who : Who) (s : State) : Out := event (fun s => s.regWrite who 0 off size value) s
def execQcommit (value : Nat) (who : Who) (s : State) : Out := event (fun s => s.regWrite who 0 0x20 8 value) s
def execVfen (hi value : Nat) (who : Who) (s : State) : Out := event (fun s => s.regWrite who 0 (if hi = 0 then 0x10 else 0x18) 8 value) s
def execTickadj (v : Nat) (s : State) : Out := event (fun s => s.regWrite .monitor 0 0xA010 8 v) s
/-- The host sets or clears VF Enable (R398). -/
def execSrIovVfEnable (on : Bool) (s : State) : Out := event (fun s => { s with vfEnable := on }) s

-- ## Mailbox (R407)

def execStatus (s : State) : Out := event (fun s => s.mbdoor .pf 1) s
def execRecover (s : State) : Out := event (fun s => s.mbdoor .pf 2) s
def execReset (s : State) : Out := event (fun s => s.mbdoor .pf 3) s

-- ## Contexts (R149, R410)

/-- A write of CTXOP. -/
def State.ctxopWrite (s : State) (d op h : Nat) : State := s.regWrite .scheduler 0 (dieReg d 0x1078) 8 (op * 2 ^ 60 + h % 65536)
def execCreate (die handle : Nat) (s : State) : Out := event (fun s => s.ctxopWrite die 1 handle) s
def execFree (die handle : Nat) (s : State) : Out := event (fun s => s.ctxopWrite die 2 handle) s
def execSwapout (die handle : Nat) (s : State) : Out := event (fun s => s.ctxopWrite die 3 handle) s
def execSwapin (die handle : Nat) (s : State) : Out := event (fun s => s.ctxopWrite die 4 handle) s
def execRetrysave (die handle : Nat) (s : State) : Out := event (fun s => s.ctxopWrite die 5 handle) s

-- ## Cores and power (R83, R270, R394, R412)

/-- CORECTL of a tile or a steward core. -/
def corectlReg (p : Nat) : Nat := if p < 512 then tileReg p 0 else iodReg 0 (0x6090 + 0x100 * (p - 516))
/-- A write of CORECTL at a place that has one. -/
def State.corectlWrite (s : State) (p v : Nat) : State := if isTile p || isSteward p then s.regWrite .monitor 0 (corectlReg p) 8 v else s
def execRestart (place pc : Nat) (s : State) : Out := event (fun s => s.corectlWrite place (pc / 8 * 8 + 1)) s
def execCoreWake (place : Nat) (s : State) : Out := event (fun s => s.corectlWrite place (s.regN (corectlReg place) / 8 * 8 + 2)) s
def execDieGating (value : Nat) (retain : Bool) (s : State) : Out := event (fun s => s.writeDiepwr value retain) s
/-- An island's clock is lowered; no state is lost. -/
def execThermalThrottle (island : Nat) (s : State) : Out := event (fun s => { s with throttled := addTo s.throttled island }) s
/-- Link-level retry: no flit is lost (R413). -/
def execLinkRetry (_link : Nat) (s : State) : Out := event (fun s => s) s
/-- The domains stop when the tick reaches an armed STOPTICK, and each one's stop tick is kept: the model has one tick for
all of them (R418, log 92). -/
def State.stopAt (s : State) : State :=
  if !s.stopped && bit (s.regN 0xA008) 0 && s.regN 0xA000 ≤ s.tick then { s with stopped := true, stopTick := some s.tick } else s
def execStop (s : State) : Out := event State.stopAt s
/-- A plug-in past its budget takes WATCHDOG in the scheduler layer (R404). -/
def State.budgetEnds (s : State) (k : Nat) : State :=
  let p := s.place k
  let b := s.regBits (iodReg 0 (0x6000 + 0x100 * (k - 516))) 15 4
  if isSteward k && p.cc.priv = 1 && p.hold != .halted && 1000 * b < p.wdogGt then
    (s.modPlace k fun p => { p with wdogGt := 0, stallSince := none, begun := none }).takeStewardTrap k cWatchdog b p.cc.pc
  else s
def execPluginBudgetExpiry (core : Nat) (s : State) : Out := event (fun s => s.budgetEnds core) s

-- ## Start-up and resets (R391, R403, R407, R408, R414)

/-- Power-good: nothing that power holds survives, and the tick counts from 0. -/
def execPowerGood (s : State) : Out := event (fun s => { s with tick := 0 }.packageReset) s
/-- A conventional reset of the package (log 21). -/
def execConventionalReset (s : State) : Out := event (fun s => s.packageReset) s
/-- Stage C goes through CD0 to CD3 in that order. -/
def State.dieTest (s : State) (d : Nat) (passed : Bool) : State :=
  let st := s.regBits 0x8 3 0
  if (st ≠ 2 && st ≠ 3) || d ≠ s.tested || 4 ≤ d then s
  else
    let s := if passed then s.setRegBits 0x8 (4 + d) (4 + d) 1
      else if s.regBits 0x8 23 16 = 0 then s.setRegBits 0x8 23 16 (0x28 + d) else s
    { s.setRegBits 0x8 3 0 (if d = 3 then 4 else 3) with tested := d + 1 }
def execDieOnline (die : Nat) (passed : Bool) (s : State) : Out := event (fun s => s.dieTest die passed) s

-- ## Queries (R420)

/-- A write of a query's command. -/
def State.queryWrite (s : State) (d op : Nat) : State := s.regWrite .pf 0 (dieReg d 0x1100) 8 op
def execRctQuery (die : Nat) (s : State) : Out := event (fun s => s.queryWrite die 1) s
def execPgdQuery (die : Nat) (s : State) : Out := event (fun s => s.queryWrite die 2) s
def execRhtQuery (die : Nat) (s : State) : Out := event (fun s => s.queryWrite die 3) s

-- ## Recording and replay (R421 to R423)

/-- The context of a recording slot. -/
def State.recCtx (s : State) (f k : Nat) : Nat := s.regBits (recReg f k 0) 15 0
/-- The tile that runs a context. -/
def State.tileOf (s : State) (c : Nat) : Option Nat := (s.places.find? fun e => s.runs e.1 c).map (·.1)
/-- A log of the MARK mode in which no entry fits any more ends (R422). -/
def State.fullLog (s : State) (f k : Nat) : State :=
  let c := s.recCtx f k
  if (s.recording c).contains k && s.ctxVf c = f && s.recMode f k = 0 && s.recUsed f k + 96 > 2 ^ s.recN f k then
    s.horizonAt c ((s.tileOf c).getD 0) k
  else s
def execHorizon (f k : Nat) (s : State) : Out := event (fun s => s.fullLog f k) s
/-- Write a logged input; none while it cannot be written yet. -/
def State.replayWrite (s : State) (c t kind addr aux : Nat) (bs : List Byte) : Option State :=
  if kind = 2 then some (s.modPlace t fun p => { p with
    promised := fput aux (numOf bs) p.promised
    q := p.q.map fun e => if e.1 = 2 then (e.1, { e.2 with cur := e.2.cur.map fun f => if f.seq = aux then { f with promised := numOf bs } else f }) else e })
  else if kind = 3 then s.publish t addr bs
  else if kind = 4 then
    match (wrSp (s.cmdAcc t 4 0) addr bs).run s with
    | .ok _ s => some s
    | .error _ _ => none
  else s.putVa (s.ctxAsid c) addr bs
/-- The next logged input takes effect when INSTR of the context has reached its ICOUNT (R423). -/
def State.replayNext (s : State) (f k : Nat) : State :=
  let c := s.recCtx f k
  match s.tileOf c with
  | none => s
  | some t =>
    if s.ctxVf c ≠ f || s.replaying c ≠ some k then s
    else match s.replayHead c f k with
      | none => s
      | some (h, bs) =>
        let kind := bits h 55 48
        if kind < 2 || 5 < kind || s.instrs c t < bits h 191 128 then s
        else match s.replayWrite c t kind (bits h 127 72) (bits h 47 16) bs with
          | some s => s.replayTake f k bs.length
          | none => s
/-- An input that is due takes effect before the next instruction of a tile issues (R423). -/
def State.takeInput (s : State) (t : Nat) : State :=
  match s.replaying (s.place t).ctx with
  | some k => s.replayNext (s.ctxVf (s.place t).ctx) k
  | none => s
def execReplayInput (f k : Nat) (s : State) : Out := event (fun s => s.replayNext f k) s

-- ## Function-level reset (R375)

/-- Step 2: a tile that runs one of the function's contexts freezes, its queues are reset without notices, and the
context leaves it. -/
def State.resetTile (s : State) (t : Nat) : State :=
  let s := (range 0 6).foldl (fun s q => s.resetEngine t q false) s
  match s.stepAt t with
  | some st => s.leaveBarriers st.id (s.place t).gpos
  | none => s
/-- Stores of a function that are not yet performed are dropped from the L1s. -/
def Place.dropPending (p : Place) (f : Nat) : Place :=
  let left := p.l1.map fun (e : Nat × L1Line) => (e.1, { e.2 with pend := e.2.pend.filter fun x => x.prov.vf ≠ f })
  { p with l1 := left.filter fun e => !(e.2.st == .i && e.2.pend.isEmpty) }
/-- Steps, packets and prologues of a function are gone. -/
def State.dropWork (s : State) (f : Nat) : State :=
  let s := (range 0 4).foldl (fun s d => match fget? s.prologues d with
    | some pr => if s.lqVf d pr.queue = f then { s with prologues := fdel d s.prologues }.modPlace (512 + d) fun _ => Place.reset (512 + d) else s
    | none => s) s
  let s := (range 0 256).foldl (fun s i =>
    if s.lqVf (i / 64) (i % 64) = f then s.setLq (i / 64) (i % 64) { s.lq (i / 64) (i % 64) with copies := [], reading := [], busy := [], again := none } else s) s
  { s with steps := s.steps.filter fun st => st.vf ≠ f }
/-- The frames of a function go to the zero engine, and with them its mappings in its address spaces (R375, R409, log 96). -/
def State.releaseFrames (s : State) (f : Nat) (asids : List Nat) : State :=
  let mine (code : Nat) : Bool := match fget? s.regions code with
    | some r => r.perm.vf = f && !r.perm.dev
    | none => false
  let grans := s.pgd.filter fun e => mine (regionCode (granTag e.1) (granVa e.1))
  let s := s.flushLines fun k => grans.any fun e => e.1 == granCode k.asid k.va
  let s := grans.foldl (fun s e =>
    let s := (match granTag e.1 with | some a => [a] | none => asids).foldl (fun (s : State) a =>
      let (_, ea, pte) := s.path a (granVa e.1) 0
      if bits pte 1 0 = 3 && bit pte 56 == (granTag e.1).isNone then s.memWrite ea (bytesOf 8 0) else s) (s.shootGran e.1)
    let frames := (if e.2.st = 2 then [] else [e.2.frame * 8192]) ++ (if e.2.lv then [e.2.lframe * 8192] else [])
    { (if e.2.st = 2 then s else s.rmapDel (e.2.frame * 8192) 1) with zeroing := s.zeroing ++ frames.filter fun x => !s.zeroing.contains x }) s
  let gone (g : Nat) : Bool := grans.any fun e => e.1 == g
  -- the frame that an open switch window had taken
  let taken := s.rses.filterMap fun e => e.2.window.bind fun w => if gone w.gran then some w.frame else none
  { s with
    zeroing := s.zeroing ++ taken, pgd := s.pgd.filter fun e => !gone e.1, regions := s.regions.filter fun e => !mine e.1
    rses := s.rses.map fun (e : Nat × Rse) => (e.1, { e.2 with
      window := e.2.window.filter fun w => !gone w.gran, queue := e.2.queue.filter fun m => !gone m.gran }) }
/-- The reset of a function, its steps in order. -/
def State.flr (s : State) (f : Nat) : State :=
  let tiles := (s.places.filter fun e => e.1 < 512 && e.2.owner = f).map (·.1)
  let run := tiles.filter fun t => (s.place t).step.isSome
  let asids := (s.steps.filter fun st => st.vf = f).map (·.asid) ++ tiles.map (fun t => (s.place t).asid)
  let ctxs := (range 0 4).flatMap fun d => (s.liveContexts d).filter fun c => s.ctxVf c == f
  let asids := (asids ++ ctxs.map s.ctxAsid ++ (s.regions.filter fun e => e.2.perm.vf = f).filterMap (·.2.asid)).eraseDups
  -- 1 and 2
  let s := run.foldl State.resetTile (s.disableQueues f)
  -- 3
  let s := { s with
    peers := s.peers.filter fun m => m.vf ≠ f || m.pkg ≠ s.pkgNum
    pushes := s.pushes.filter fun p => p.msg.vf ≠ f || p.msg.pkg ≠ s.pkgNum }
  -- 4
  let s := { s with places := s.places.map fun (e : Nat × Place) => (e.1, e.2.dropPending f) }
  let s := s.discardHeld (fun p => p.vf = f) false
  -- 5
  let s := s.flushLines fun k => match k.asid with
    | some a => asids.contains a
    | none => false
  let s := s.leaveHosts fun k => match k.asid with
    | some a => asids.contains a
    | none => false
  let s := tiles.foldl (fun s t => s.modPlace t fun p => ((if p.step.isSome then { p.vacate with slog := [], slogBusy := none } else p)).zeroSp 0 0x180000) s
  let s := s.places.foldl (fun s e => (e.2.keys.filter fun k => k.2.valid && k.2.fn = f).foldl (fun s k => s.modPlace e.1 fun p => p.keykill k.1) s) s
  -- no grant of a line of its ASIDs is on its way any more
  let s := { s with msgs := s.msgs.filter fun m => match m with
    | .grant _ k _ _ _ _ _ => !(match k.asid with | some a => asids.contains a | none => false)
    | _ => true }
  let s := (s.releaseFrames f asids).discardHeld (fun p => p.vf = f) false
  ctxs.foldl State.freeContext (s.dropWork f)
def execFunctionLevelReset (f : Nat) (s : State) : Out := event (fun s => s.flr f) s

end Sys2Proof.Machine
end

