-- ==== Sys2Proof/Machine/Fp.lean ====
section
/-! DEFINITION. The scalar floating instructions (R185, R191, R235 to R237). -/
namespace Sys2Proof.Machine

/-- The format that PR selects. -/
def fnFmt (n : FN) : Fmt := if n.pr = 1 then fp64 else fp32
/-- An operand: 64 bits, or bits [31:0] of an FP32 operand (R191). -/
def State.fop (s : State) (n : FN) (i : Nat) : Nat := (s.f i).toNat % 2 ^ (fnFmt n).w
def State.fval (s : State) (n : FN) (i : Nat) : Val := (fnFmt n).dec (s.fop n i)
/-- `f[d] := v(s)`; an FP32 or narrower result leaves the higher bits zero. -/
def fpOp (d : Nat) (fs : List Nat) (v : State → Nat) : State → Out :=
  alu [] (d :: fs) fun s => s.setF d (BitVec.ofNat 64 (v s))
/-- A rounded operation on one, two or three values. -/
def fp1 (d a : Nat) (n : FN) (v : Val → Val) : State → Out :=
  fpOp d [a] fun s => (fnFmt n).round n.rm false (v (s.fval n a))
def fp2 (d a b : Nat) (n : FN) (v : Val → Val → Val) : State → Out :=
  fpOp d [a, b] fun s => (fnFmt n).round n.rm false (v (s.fval n a) (s.fval n b))
/-- An exact zero of unlike signs is −0 under rounding toward −∞ only. -/
def fnDown (n : FN) : Bool := n.rm == 3

def execFadd (d a b : Nat) (fn : FN) : State → Out := fp2 d a b fn (Val.add (fnDown fn))
def execFsub (d a b : Nat) (fn : FN) : State → Out := fp2 d a b fn fun x y => Val.add (fnDown fn) x y.neg
def execFmul (d a b : Nat) (fn : FN) : State → Out := fp2 d a b fn Val.mul
def execFdiv (d a b : Nat) (fn : FN) : State → Out := fp2 d a b fn Val.div
def execFsqrt (d a : Nat) (fn : FN) : State → Out := fp1 d a fn Val.sqrt
def execFfma (d a b c : Nat) (fn : FN) : State → Out :=
  fpOp d [a, b, c] fun s =>
    let p := (s.fval fn a).mul (s.fval fn b)
    (fnFmt fn).round fn.rm false (Val.add (fnDown fn) (if fn.fx = 1 then p.neg else p) (s.fval fn c))
def execFmin (d a b : Nat) (fn : FN) : State → Out :=
  fpOp d [a, b] fun s => minMax (fnFmt fn) false (fn.fx == 1) (s.fop fn a) (s.fop fn b)
def execFmax (d a b : Nat) (fn : FN) : State → Out :=
  fpOp d [a, b] fun s => minMax (fnFmt fn) true (fn.fx == 1) (s.fop fn a) (s.fop fn b)

/-- The code of FCMP: 1 below, 2 equal, 4 above, 8 unordered (R237). -/
def compareCode (a b : Val) : Nat :=
  if a.isNan || b.isNan then 8 else if a.cmp b = -1 then 1 else if a.cmp b = 0 then 2 else 4
def execFcmp (d a b : Nat) (fn : FN) : State → Out :=
  alu [d] [a, b] fun s => s.setG d (BitVec.ofNat 64 (compareCode (s.fval fn a) (s.fval fn b)))
/-- The class bit of a value (R237); a magnitude below the smallest normal is subnormal. -/
def classBit (f : Fmt) (v : Val) : Nat :=
  match v with
  | .nan => 8
  | .inf s => if s then 0 else 7
  | .num s m _ => if m = 0 then (if s then 3 else 4) else if m < 2 ^ f.mb then (if s then 2 else 5) else (if s then 1 else 6)
def execFclass (d a : Nat) (fn : FN) : State → Out :=
  alu [d] [a] fun s => s.setG d (BitVec.ofNat 64 (2 ^ classBit (fnFmt fn) (s.fval fn a)))

/-- FCVT's source registers and destinations by code (R236): 2 and 3 write `g`, 4 and 5 read `g`. -/
def fcvtG (d a code : Nat) : List Nat := if code = 2 ∨ code = 3 then [d] else if code = 4 ∨ code = 5 then [a] else []
def fcvtF (d a code : Nat) : List Nat := if code = 2 ∨ code = 3 then [a] else if code = 4 ∨ code = 5 then [d] else [d, a]
/-- The value a conversion writes. -/
def State.convert (s : State) (a code : Nat) (fn : FN) : Word :=
  let x := (s.f a).toNat
  let sat := fn.fx == 1
  let out (n : Nat) : Word := BitVec.ofNat 64 n
  if code = 0 then out (fp64.round fn.rm false (fp32.dec (x % 2 ^ 32)))
  else if code = 1 then out (fp32.round fn.rm sat (fp64.dec x))
  else if code = 2 then BitVec.ofInt 64 ((s.fval fn a).toRange fn.rm (-2 ^ 63) (2 ^ 63 - 1))
  else if code = 3 then BitVec.ofInt 64 ((s.fval fn a).toRange fn.rm 0 (2 ^ 64 - 1))
  else if code = 4 then out ((fnFmt fn).round fn.rm false (intVal (s.g a).toInt))
  else if code = 5 then out ((fnFmt fn).round fn.rm false (intVal (s.g a).toNat))
  else if code = 6 then out (fp32.round fn.rm false (fp16.dec (x % 2 ^ 16)))
  else if code = 7 then out (fp16.round fn.rm sat (fp32.dec (x % 2 ^ 32)))
  else if code = 8 then out (fp32.round fn.rm false (bf16.dec (x % 2 ^ 16)))
  else out (bf16.round fn.rm sat (fp32.dec (x % 2 ^ 32)))
def execFcvt (d a code : Nat) (fn : FN) : State → Out :=
  alu (fcvtG d a code) (fcvtF d a code) fun s =>
    if code = 2 ∨ code = 3 then s.setG d (s.convert a code fn) else s.setF d (s.convert a code fn)
def execFmvg (d a : Nat) (fn : FN) : State → Out := alu [d] [a] fun s => s.setG d (BitVec.ofNat 64 (s.fop fn a))
def execFmvf (d a : Nat) (fn : FN) : State → Out :=
  alu [a] [d] fun s => s.setF d (BitVec.ofNat 64 ((s.g a).toNat % 2 ^ (fnFmt fn).w))
/-- Magnitude of `a` with the sign of `b`, inverted when `inv`. -/
def signFrom (f : Fmt) (inv : Bool) (a b : Nat) : Nat := a % 2 ^ (f.w - 1) + f.signBit (bit b (f.w - 1) != inv)
def execFsgn (d a b : Nat) (fn : FN) : State → Out :=
  fpOp d [a, b] fun s => signFrom (fnFmt fn) (fn.fx == 1) (s.fop fn a) (s.fop fn b)
def execFrnd (d a : Nat) (fn : FN) : State → Out := fp1 d a fn (Val.integral fn.rm)

end Sys2Proof.Machine
end

