-- ==== Sys2Proof/Machine/Integer.lean ====
section
/-! DEFINITION. NOP, the integer instructions and the immediate instructions (R189, R232 to R234). -/
namespace Sys2Proof.Machine

-- ## Values (R232, R233)

def clzWord (a : Word) : Nat := if a = 0 then 64 else 63 - a.toNat.log2
/-- Trailing zeros of a number of `n` bits. -/
def ctzNat : Nat → Nat → Nat
  | 0, _ => 0
  | n + 1, w => if w % 2 = 1 then 0 else 1 + ctzNat n (w / 2)
def popNat : Nat → Nat → Nat
  | 0, _ => 0
  | n + 1, w => w % 2 + popNat n (w / 2)
def bswapWord (a : Word) : Word := BitVec.ofNat 64 (numOf (bytesOf 8 a.toNat).reverse)
/-- Signed quotient, truncated toward zero (R233). -/
def divWord (a b : Word) : Word := if b = 0 then BitVec.allOnes 64 else BitVec.ofInt 64 (a.toInt.tdiv b.toInt)
def remWord (a b : Word) : Word := if b = 0 then a else BitVec.ofInt 64 (a.toInt.tmod b.toInt)
def divuWord (a b : Word) : Word := if b = 0 then BitVec.allOnes 64 else BitVec.ofNat 64 (a.toNat / b.toNat)
def remuWord (a b : Word) : Word := if b = 0 then a else BitVec.ofNat 64 (a.toNat % b.toNat)
def mulhWord (a b : Word) : Word := BitVec.ofInt 64 (a.toInt * b.toInt / 2 ^ 64)
def mulhuWord (a b : Word) : Word := BitVec.ofNat 64 (a.toNat * b.toNat / 2 ^ 64)
/-- POS and LEN of a bit field (R233). -/
def fieldPos (b : Word) : Nat := b.toNat % 64
def fieldLen (b : Word) : Nat := min (b.toNat / 256 % 128) (64 - fieldPos b)
def bfxuWord (a b : Word) : Word := BitVec.ofNat 64 (a.toNat / 2 ^ fieldPos b % 2 ^ fieldLen b)
def bfxWord (a b : Word) : Word :=
  if fieldLen b = 0 then 0 else sext (fieldLen b) (a.toNat / 2 ^ fieldPos b)
def bfiWord (a b c : Word) : Word :=
  if fieldLen b = 0 then c else BitVec.ofNat 64 (setBits c.toNat (fieldPos b + fieldLen b - 1) (fieldPos b) a.toNat)

/-- `g[D] := v(g[A], g[B])`. -/
def int2 (d a b : Nat) (v : Word → Word → Word) : State → Out := alu [d, a, b] [] fun s => s.setG d (v (s.g a) (s.g b))
/-- `g[D] := v(g[A])`. -/
def int1 (d a : Nat) (v : Word → Word) : State → Out := alu [d, a] [] fun s => s.setG d (v (s.g a))

-- ## Meanings

def execNop : State → Out := alu [] [] fun s => s
def execAdd (d a b : Nat) : State → Out := int2 d a b (· + ·)
def execSub (d a b : Nat) : State → Out := int2 d a b (· - ·)
def execAnd (d a b : Nat) : State → Out := int2 d a b (· &&& ·)
def execOr (d a b : Nat) : State → Out := int2 d a b (· ||| ·)
def execXor (d a b : Nat) : State → Out := int2 d a b (· ^^^ ·)
def execAndn (d a b : Nat) : State → Out := int2 d a b fun x y => x &&& ~~~y
def execSll (d a b : Nat) : State → Out := int2 d a b fun x y => x <<< (y.toNat % 64)
def execSrl (d a b : Nat) : State → Out := int2 d a b fun x y => x >>> (y.toNat % 64)
def execSra (d a b : Nat) : State → Out := int2 d a b fun x y => x.sshiftRight (y.toNat % 64)
def execMul (d a b : Nat) : State → Out := int2 d a b (· * ·)
def execMulh (d a b : Nat) : State → Out := int2 d a b mulhWord
def execMulhu (d a b : Nat) : State → Out := int2 d a b mulhuWord
def execDiv (d a b : Nat) : State → Out := int2 d a b divWord
def execDivu (d a b : Nat) : State → Out := int2 d a b divuWord
def execRem (d a b : Nat) : State → Out := int2 d a b remWord
def execRemu (d a b : Nat) : State → Out := int2 d a b remuWord
def execMin (d a b : Nat) : State → Out := int2 d a b fun x y => if y.slt x then y else x
def execMax (d a b : Nat) : State → Out := int2 d a b fun x y => if x.slt y then y else x
def execMinu (d a b : Nat) : State → Out := int2 d a b fun x y => if y.ult x then y else x
def execMaxu (d a b : Nat) : State → Out := int2 d a b fun x y => if x.ult y then y else x
def execClz (d a : Nat) : State → Out := int1 d a fun x => BitVec.ofNat 64 (clzWord x)
def execCtz (d a : Nat) : State → Out := int1 d a fun x => BitVec.ofNat 64 (ctzNat 64 x.toNat)
def execPopc (d a : Nat) : State → Out := int1 d a fun x => BitVec.ofNat 64 (popNat 64 x.toNat)
def execBswap (d a : Nat) : State → Out := int1 d a bswapWord
def execSeq (d a b : Nat) : State → Out := int2 d a b fun x y => boolWord (x == y)
def execSlt (d a b : Nat) : State → Out := int2 d a b fun x y => boolWord (x.slt y)
def execSltu (d a b : Nat) : State → Out := int2 d a b fun x y => boolWord (x.ult y)
def execSel (d a b c : Nat) : State → Out :=
  alu [d, a, b, c] [] fun s => s.setG d (if s.g c ≠ 0 then s.g a else s.g b)
def execBfx (d a b : Nat) : State → Out := int2 d a b bfxWord
def execBfxu (d a b : Nat) : State → Out := int2 d a b bfxuWord
def execBfi (d a b c : Nat) : State → Out := alu [d, a, b, c] [] fun s => s.setG d (bfiWord (s.g a) (s.g b) (s.g c))

-- ## Immediates (R234)

def execAddi (d a imm : Nat) : State → Out := int1 d a (· + imm32 imm)
def execAndi (d a imm : Nat) : State → Out := int1 d a (· &&& imm32 imm)
def execOri (d a imm : Nat) : State → Out := int1 d a (· ||| imm32 imm)
def execXori (d a imm : Nat) : State → Out := int1 d a (· ^^^ imm32 imm)
def execSlli (d a imm : Nat) : State → Out := int1 d a (· <<< (imm % 64))
def execSrli (d a imm : Nat) : State → Out := int1 d a (· >>> (imm % 64))
def execSrai (d a imm : Nat) : State → Out := int1 d a fun x => x.sshiftRight (imm % 64)
def execSlti (d a imm : Nat) : State → Out := int1 d a fun x => boolWord (x.slt (imm32 imm))
def execSltui (d a imm : Nat) : State → Out := int1 d a fun x => boolWord (x.ult (imm32 imm))
def execSeqi (d a imm : Nat) : State → Out := int1 d a fun x => boolWord (x == imm32 imm)
def execMovi (d imm : Nat) : State → Out := alu [d] [] fun s => s.setG d (imm32 imm)
def execMovhi (d a imm : Nat) : State → Out :=
  int1 d a fun x => BitVec.ofNat 64 (imm * 2 ^ 32 + x.toNat % 2 ^ 32)
def execLea (d a imm sh : Nat) : State → Out := int1 d a (· + (imm32 imm <<< sh))
def execAddpc (d imm : Nat) : State → Out := alu [d] [] fun s => s.setG d (s.pc + imm32 imm)

end Sys2Proof.Machine
end

