-- ==== Sys2Proof/Machine/Launch.lean ====
section
/-! DEFINITION. Events of the command front ends and of the context schedulers: packets, prologues, batches, picking,
starting, handing off, pre-empting, and the end of a step (R160 to R177, R401). -/
namespace Sys2Proof.Machine

-- ## The command front end (R160 to R165)

def execLqprod (f die q n : Nat) (s : State) : Out := event (fun s => s.doorbell (if f = 0 then .pf else .function f) 0 f die q n) s
/-- Add what is being read of a packet: all sixteen elements make a private copy. -/
def LaunchQ.read (l : LaunchQ) (idx : Nat) (es : List Nat) : LaunchQ :=
  let r := l.reading ++ es
  if r.length < 16 then { l with reading := r }
  else { l with reading := [], copies := l.copies ++ [⟨(r.take 16).foldr (fun w n => w + 2 ^ 64 * n) 0, idx⟩] }
/-- Read the next `n` elements of the packet behind the copies, 8 bytes each, as far as its page allows: at most 16 packets
ahead of LQCONS (R164). -/
def State.readAhead (s : State) (d q : Nat) : Nat → State
  | 0 => s
  | n + 1 =>
    let l := s.lq d q
    let idx := (l.cons + l.copies.length) % 2 ^ 32
    if !s.lqEn d q || l.copies.length ≥ 16 || idx = l.prod then s
    else
      match s.fetch (s.lqAsid d q) none (bits (s.lqdesc d q) 127 72 + 128 * (idx % 2 ^ s.lqNlog d q) + 8 * l.reading.length) 8 with
      | (s, .ok bs) => (s.setLq d q ((s.lq d q).read idx [numOf bs])).readAhead d q n
      | (s, .wait) => s
      -- what cannot be read at all is a packet of a reserved TYPE
      | (s, .bad) => (s.setLq d q ((s.lq d q).read idx [0])).readAhead d q n
/-- The packet at the head is read whole before it is accepted. -/
def State.topUp (s : State) (d q : Nat) : State :=
  if (s.lq d q).copies.isEmpty then s.readAhead d q (16 - (s.lq d q).reading.length) else s
/-- Unfinished steps of a queue, or of its packet `idx`. -/
def State.queueSteps (s : State) (d q : Nat) (idx : Option Nat) : Bool :=
  s.steps.any fun st => !st.template && !st.direct && st.die = d && st.queue = q && match idx with
    | some i => st.packet.index = i
    | none => true
/-- What a packet is to the CFE. -/
inductive PacketKind where
  /-- a LAUNCH without a prologue, or a reserved TYPE -/
  | launch
  | ffence
  | skip
  | prologue
  deriving DecidableEq, Repr
/-- What the CFE does with a packet. DESIGN CHOICE (log 100, log 102): a misaligned PROLOG runs and its first fetch takes ALIGN, so
that the packet ends with PROTRAP; a REPEAT runs the PROLOG of its copy, or none where the copy has none. -/
def Packet.kind (p : Packet) : PacketKind :=
  if p.type = 2 then .ffence else if p.type = 3 then .skip else if p.type = 1 && p.f 335 280 ≠ 0 then .prologue else .launch
/-- The packet at acceptance of an enabled queue; its predecessor has been accepted, and for SERIAL has completed (R164). -/
def State.atHead (s : State) (d q : Nat) : Option (State × Packet) :=
  if !s.lqEn d q || !s.fnEnabled (s.lqVf d q) || !s.online d then none
  else if (match fget? s.prologues d with | some pr => pr.queue == q | none => false) then none
  else
    let s := s.topUp d q
    let l := s.lq d q
    match (match l.again with | some c => some c | none => l.copies.head?) with
    | none => none
    | some p =>
      let serial := p.type = 1 && p.f 9 9 = 1 && l.again.isNone
      if serial && s.queueSteps d q (some ((p.index + 2 ^ 32 - 1) % 2 ^ 32)) then none else some (s, p)
/-- A packet becomes a pending step, or fails; while a page it names is on its way it stays. -/
def State.acceptLaunch (s : State) (d q : Nat) (p : Packet) : State × Bool :=
  match s.makeStep p d q (s.lqVf d q) (s.lqAsid d q) p.cls p.deadline none false with
  | .step s st => ((s.addStep st).advance d q, true)
  | .failed s st => ((s.failPacket p (s.lqAsid d q) (s.lqVf d q) st).advance d q, true)
  | .wait s => (s, false)
/-- FFENCE: after every earlier packet has completed; what was read behind it is read again. -/
def State.acceptFfence (s : State) (d q : Nat) : State × Bool :=
  if s.queueSteps d q none then (s, false)
  else let s := s.advance d q; (s.setLq d q { s.lq d q with copies := [], reading := [] }, true)
/-- Start a packet's prologue on the CFE of the die (R165). -/
def State.startPrologue (s : State) (d q : Nat) (p : Packet) : State × Bool :=
  if (fget? s.prologues d).isSome then (s, false)
  else
    let va := bits (s.lqdesc d q) 127 72 + 128 * (p.index % 2 ^ s.lqNlog d q)
    let put (c : Core) (i v : Nat) : Core := c.setG i (BitVec.ofNat 64 v)
    let c := (range 0 8).foldl (fun c i => put c (9 + i) (p.shape i)) { Core.reset with pc := BitVec.ofNat 64 (p.f 335 280) }
    let s := { s with prologues := fput d ⟨q, p, s.tick, none⟩ s.prologues }
    (s.modPlace (512 + d) fun _ => { (Place.reset (512 + d)).putSp 0 (bytesOf 128 p.bits) with
      cc := put (put c 3 q) 4 va, asid := s.lqAsid d q, vf := s.lqVf d q, hold := .running }, true)
/-- Serve the head packet of a queue; the second part says whether it was accepted, or its prologue began. -/
def State.accept (s : State) (d q : Nat) (p : Packet) : State × Bool :=
  match p.kind with
  | .launch => s.acceptLaunch d q p
  | .ffence => s.acceptFfence d q
  | .skip => (s.advance d q, true)
  | .prologue => s.startPrologue d q p
/-- The head packet of a queue could be accepted now. -/
def State.canAccept (s : State) (d q : Nat) : Bool :=
  match s.atHead d q with
  | some (s, p) => (s.accept d q p).2
  | none => false
/-- The round-robin turn is at a queue: none from where the round goes on up to it has a packet to accept (R164). -/
def State.hasTurn (s : State) (d q : Nat) : Bool :=
  let r := fget 0 s.lqTurn d
  !(range 0 ((q + 64 - r) % 64)).any fun i => s.canAccept d ((r + i) % 64)
/-- The CFE of a die serves a queue whose head packet is of a kind. -/
def State.serveQueue (s : State) (d q : Nat) (k : PacketKind) : State :=
  if !s.hasTurn d q then s
  else match s.atHead d q with
    | some (s, p) => if p.kind = k then (s.accept d q p).1 else s
    | none => s
def execLaunchPacket (die q : Nat) (s : State) : Out := event (fun s => s.serveQueue die q .launch) s
def execFfence (die q : Nat) (s : State) : Out := event (fun s => s.serveQueue die q .ffence) s
def execSkip (die q : Nat) (s : State) : Out := event (fun s => s.serveQueue die q .skip) s
def execPrologue (die q : Nat) (s : State) : Out := event (fun s => s.serveQueue die q .prologue) s
def execPrologueTimeout (die : Nat) (s : State) : Out :=
  event (fun s => match fget? s.prologues die with
    | some pr => if pr.ended.isNone && pr.start + 10000 ≤ s.tick then s.endPrologue die none else s
    | none => s) s

/-- What a CXS has to say to the scheduler firmware, once (R148, R169). -/
def State.report (s : State) (r : Report) : State := { s with reports := if s.reports.contains r then s.reports else s.reports ++ [r] }

-- ## Batches from templates (R169)

/-- Insert by (DEADLINE, handle). -/
def State.byDeadline (s : State) (l : List Nat) : List Nat := sortBy (fun c => s.ctxd c 127 64 * 65536 + c) l
/-- R169. -/
def State.formBatch (s : State) (d g k : Nat) : State :=
  let n := s.regBits (dieReg d 0x1070) 15 0
  let asid := s.regBits (dieReg d 0x1070) 47 32
  if g ≥ n then s
  else match s.fetch asid none (s.regN (dieReg d 0x1068) + 128 * g) 128 with
    | (_, .wait) => s
    | (_, .bad) => s
    | (s, .ok bs) =>
      let tpl : Packet := ⟨setBits (numOf bs) 279 168 0, 0⟩
      let free := s.byDeadline ((s.liveContexts d).filter fun c =>
        s.ctxState c = 1 && s.ctxd c 975 960 = g && s.ctxd c 56 55 = k && !s.steps.any fun st => st.current.contains c)
      match free with
      | [] => s
      | c0 :: _ =>
        let vf := s.ctxVf c0
        let members := (free.filter fun c => s.ctxVf c = vf && s.ctxAsid c = s.ctxAsid c0).take tpl.bcount
        let due := s.ctxd c0 127 64 ≤ s.tick + 1000 * s.regBits (dieReg d (0x1040 + 8 * k)) 47 32
        if s.hostHeld d vf || !s.fnEnabled vf || tpl.bcount = 0 || !(members.length = tpl.bcount || due) then s
        else match s.makeStep { tpl with index := c0 } d 0 vf (s.ctxAsid c0) k (s.ctxd c0 127 64) (some members) true with
          | .step s st => s.addStep st
          | .failed s n => if n = stBadpkt || n = stBadlnr then s.report (.badTemplate d g) else s
          | .wait s => s
def execFormBatch (die group cls : Nat) (s : State) : Out := event (fun s => s.formBatch die group cls) s

-- ## Picking and reserving (R171, R172, R401)

/-- Time-sliced functions with work on a die, ascending. -/
def State.slicedWork (s : State) (d : Nat) : List Nat :=
  (range 0 65).filter fun f => s.timeSliced f && s.steps.any fun st => st.vf = f && st.mask.contains d
/-- Length of a function's turn in gt. -/
def State.turnLength (s : State) (f : Nat) : Nat := bits (s.limits f) 15 8 * s.regBits 0x30 15 0 * 1000
/-- Begin a turn. -/
def State.giveTurn (s : State) (d f : Nat) : State := s.modCxs d fun c => { c with sliceFn := some f, sliceEnd := s.tick + s.turnLength f }
/-- A turn begins when no function with work has one: that of the next function, ascending. -/
def State.ensureTurn (s : State) (d : Nat) : State :=
  let w := s.slicedWork d
  let after (f : Nat) : Option Nat := (w.find? (f < ·)).or w.head?
  match (s.cxsOf d).sliceFn with
  | some f => if w.contains f then s else match after f with | some g => s.giveTurn d g | none => s
  | none => match w.head? with | some g => s.giveTurn d g | none => s
/-- Free tiles of a die, lowest first. -/
def State.freeTiles (s : State) (d : Nat) : List Nat := (tilesOf d).filter s.freeTile
/-- The step for which tiles of a die are kept until it holds its gang there (R171, R173). -/
def State.keeper (s : State) (d : Nat) : Option Step :=
  ((s.cxsOf d).picking.bind s.stepOf).bind fun st => if s.needs st d then some st else none
/-- Reserve free tiles of a die for a step until it holds its gang there; not while another step reserves. -/
def State.reserve (s : State) (st : Step) (d : Nat) : State :=
  if (s.keeper d).any (·.id ≠ st.id) then s
  else
    let l := (s.freeTiles d).take (min (st.gang - st.holds d) (s.allowance st.vf d))
    let s := s.modStep st.id fun x => { x with reserved := x.reserved ++ l }
    s.modCxs d fun c => { c with picking := if st.holds d + l.length < st.gang then some st.id else none }
/-- A position that awaits a tile takes a free one of its die. -/
def State.resumeSaved (s : State) (st : Step) (d : Nat) : State :=
  match (st.positions.zip (range 0 st.positions.length)).find? (fun e => st.awaitsTile e.1 && e.1.die = d), (s.freeTiles d).head? with
  | some (_, j), some t => s.takePosition st j t
  | _, _ => s
/-- The CXS of a die serves one step. -/
def State.pickOn (s : State) (d : Nat) : State :=
  let s := ((s.liveContexts d).filter fun c => !s.soundCtx c).foldl (fun s c => s.report (.badContext c)) s
  if !s.online d || (s.freeTiles d).isEmpty then s
  else
    let s := s.ensureTurn d
    match (s.keeper d).or (s.pickStep d) with
    | none => s
    | some st => if s.needs st d then s.reserve st d else s.resumeSaved st d
def execPick (die : Nat) (s : State) : Out := event (fun s => s.pickOn die) s
/-- The window of class time restarts at a multiple of 2^20 (R171). -/
def State.restartWindow (s : State) (d : Nat) : State :=
  if s.tick / 2 ^ 20 ≤ (s.cxsOf d).winStart / 2 ^ 20 then s
  else s.modCxs d fun c => { c with winStart := s.tick / 2 ^ 20 * 2 ^ 20, used := [] }
def execWindowRestart (die : Nat) (s : State) : Out := event (fun s => s.restartWindow die) s

-- ## Starting a step (R168, R172, R176, R174)

/-- Entries of the batch list that take part. -/
def State.startBits (s : State) (st : Step) : Nat :=
  if !st.batched then 1
  else ((st.members.zip (range 0 st.members.length)).filter fun e => s.admissible st e.1).foldl (fun a e => a + 2 ^ e.2) 0
/-- A step starts: its contexts run, and every position has its tile. -/
def State.startStep (s : State) (id : Nat) : State :=
  match s.stepOf id with
  | none => s
  | some st =>
    let ready := !st.started && st.failed.isNone && s.fnEnabled st.vf && s.eligible st && st.mask.all fun d => st.holds d = st.gang
    if !ready then s
    else
      let tiles := sortBy (fun t => t) st.reserved
      let map := s.startBits st
      let lead := st.lead map
      let s := (st.active map).foldl (fun s c => s.setCtxState c 2 0) s
      let s := s.modStep id fun x => { x with
        started := true, map := map, chief := lead, reserved := [], entry := s.entryOf st lead, positions := tiles.map fun t => Position.new (dieOf t) t }
      let s := (tiles.zip (range 0 tiles.length)).foldl (fun s (t, j) => s.seat st lead map j t) s
      let s := { s with ctxAsync := fdel lead s.ctxAsync }
      let s := match tiles.head? with | some t => s.beginRecording lead t | none => s
      s.trace st.die 0x06 (s.entryOf st lead) 0 st.packet.index lead 0 st.vf
def execStepStart (step : Nat) (s : State) : Out := event (fun s => s.startStep step) s
/-- The CFE loads the step's kernel on a tile before the first hand-off. -/
def State.loadOn (s : State) (t : Nat) : State :=
  match s.stepAt t with
  | none => s
  | some st =>
    if st.failed.isSome || st.positions.any (fun p => p.point.isSome) then s
    else match s.loadKernel st t with
      | .done s => s
      | .wait s => s
      | .failed s => s.modStep st.id fun st => { st with failed := some stLoadfail }
def execKernelLoad (tile : Nat) (s : State) : Out := event (fun s => s.loadOn tile) s
/-- A tile's loaded kernel is the step's. -/
def State.kernelReady (s : State) (st : Step) (t : Nat) : Bool :=
  match s.cfeRead st (st.entry - 256) 16 with
  | (_, .ok bs) => st.kernelIs (s.place t) (numOf (bs.drop 8))
  | _ => false
/-- A gang tile that may take a chain. -/
def State.idlePosition (s : State) (p : Position) : Bool :=
  !p.busy && !p.saved && match p.tile with
    | some t => (s.place t).step.isSome && !(s.place t).victim && (s.place t).switch.isNone && !(s.place t).frozen && (s.place t).hold == .running
    | none => false
/-- The step has an idle gang tile on a die. -/
def State.idleOn (s : State) (st : Step) (d : Nat) : Bool := st.positions.any fun p => p.die = d && s.idlePosition p
/-- A tile of a die to which a position goes on with its chain (R173). -/
def State.goesOn (s : State) (st : Step) (d : Nat) : Option (Nat × Nat × List Nat) :=
  (st.positions.zip (range 0 st.positions.length)).findSome? fun (p, j) =>
    if p.die = d && s.idlePosition p then match p.tile, st.more p with
      | some t, some pt => if s.kernelReady st t then some (t, j, pt) else none
      | _, _ => none
    else none
/-- The walker may hand out a chain of the step on a die now. -/
def State.handable (s : State) (st : Step) (d : Nat) : Bool :=
  st.started && st.failed.isNone && !st.aborted && st.mask.contains d && st.chainLeft d && s.idleOn st d &&
    (st.levels.any (fun l => l.1 = 2) || st.mask.all fun e => d ≤ e || !s.idleOn st e) &&
    (st.positions.any (fun p => p.point.isSome) || st.positions.all fun p => match p.tile with
      | some t => s.kernelReady st t
      | none => true)
/-- The idle gang tile of a die with the lowest number, and its position. -/
def State.idleTile (s : State) (st : Step) (d : Nat) : Option (Nat × Nat) :=
  (sortBy (·.1) ((st.positions.zip (range 0 st.positions.length)).filterMap fun e =>
    if e.1.die = d && s.idlePosition e.1 then e.1.tile.map fun t => (t, e.2) else none)).head?
/-- A point of a step starts at a position's tile, once the images of a first iteration are there (R203, R205). -/
def State.startPoint (s : State) (st : Step) (j t : Nat) (point : List Nat) (taken : State → State) : State :=
  match if (s.place t).firstDone then .done s else s.firstImages st t with
  | .wait s => s
  | .failed s => s.modStep st.id fun x => { x with failed := some stLoadfail }
  | .done s => (taken s).startIteration st j t point
/-- R174: a freed position goes on with its chain, and else the next chain of a die goes to its free gang tile with the
lowest number. -/
def State.handOff (s : State) (d : Nat) : State :=
  match s.steps.findSome? fun st => (s.goesOn st d).map fun e => (st, e) with
  | some (st, t, j, pt) => s.startPoint st j t pt fun s => s
  | none =>
  match s.steps.find? fun st => s.handable st d with
  | none => s
  | some st =>
    match s.idleTile st d with
    | none => s
    | some (t, j) =>
      let (m, n, key) := st.share d
      let c := fget 0 st.cursor key
      let point := pointOfRank st.levels (chainRadix st.levels m n) m n c
      s.startPoint st j t point fun s => s.modStep st.id fun x => { x with cursor := fset 0 x.cursor key (c + 1) }
def execHandOff (die : Nat) (s : State) : Out := event (fun s => s.handOff die) s

-- ## The end of a step (R149, R163, R419)

/-- A tile has nothing under way for its step, and owes nothing (R163, R425). -/
def State.tileRests (s : State) (t : Nat) : Bool :=
  s.enginesRest t && s.quiet t && (s.place t).slogBusy.isNone && !(s.place t).frozen && !s.owes t
/-- Every point has retired, or the step failed before any ran. -/
def State.stepDone (s : State) (st : Step) : Bool :=
  st.started && (st.positions.all fun p => !p.busy && !p.saved && (st.more p).isNone) &&
    (st.aborted || st.failed.isSome || st.mask.all fun d => !st.chainLeft d) &&
    (st.positions.all fun p => match p.tile with
      | some t => s.tileRests t
      | none => true)
/-- The record can be written now: its line is free, its page is not on its way, and no deferred-fault record is due, and the
host holds no line of the counter area. -/
def State.cplReady (s : State) (st : Step) : Bool :=
  (s.counterAsks st.chief).isEmpty && (st.packet.cpl = 0 || (s.recordReady st.asid st.packet.cpl && !s.dfrDue st.vf))
/-- A tile leaves a step: counters, store log and pending causes go to the context. -/
def State.leaveTile (s : State) (t : Nat) : State :=
  let lead := (s.place t).ctx
  let s := s.putAway t
  let a := (s.place t).async
  { s with ctxAsync := if a.isEmpty then s.ctxAsync else fmod [] s.ctxAsync lead (· ++ a) }.modPlace t Place.vacate
/-- A tile leaves its step as the step ends: what its commands would restart from is forgotten. -/
def State.freeOf (s : State) (t : Nat) : State :=
  let lead := (s.place t).ctx
  let s := s.leaveTile t
  { s with progress := s.progress.filter fun e => e.1 / 8 % 65537 ≠ lead }
/-- A victim tile between iterations frees (R173): its position keeps what goes on at another tile. -/
def State.freeVictim (s : State) (st : Step) (j t : Nat) : State :=
  let p := s.place t
  let s := (s.modPos st.id j fun q => { q with tile := none, phases := p.phase, wdog := p.wdogGt }).leaveTile t
  if st.positions.all fun q => q.tile.isNone || q.tile = some t then st.current.foldl (fun s c => s.switchedOut c j none) s else s
/-- Every victim tile of an unfinished step that has nothing left to do frees. -/
def State.freeVictims (s : State) : State :=
  s.steps.foldl (fun s st => if s.stepDone st then s else (st.positions.zip (range 0 st.positions.length)).foldl (fun s (p, j) =>
    match p.tile, s.stepOf st.id with
    | some t, some st =>
      if !p.busy && !p.saved && (s.place t).victim && (s.place t).step == some st.id && s.tileRests t && (s.place t).switch.isNone then s.freeVictim st j t
      else s
    | _, _ => s) s) s
/-- A member's context at the end of its step; `park` is the pc of a deferred PARK (R149). -/
def State.endMember (s : State) (c : Nat) (advance : Bool) (park : Option Nat) : State :=
  let s := if advance then
      (s.setCtxd c 895 832 ((s.ctxd c 895 832 + 1) % 2 ^ 64)).setCtxd c 959 896 ((s.ctxd c 959 896 + 1) % 2 ^ 64)
    else s
  match park with
  | none => s.setCtxState c 1 0
  | some pc => if s.ctxd c 51 51 = 0 then (s.notePark (c / 16384 % 4) c 5 pc 0).parkCtx c 5 0 else (s.setCtxd c 51 51 0).setCtxState c 1 0
/-- The step ends: its record, its members, its tiles. -/
def State.endStep (s : State) (st : Step) : State :=
  let status := match st.failed with
    | some f => f
    | none => if st.aborted then 0x02 else 0x01
  let map := st.map
  let s := (s.modStep st.id fun x => { x with ranges := [] }).endTrial st.id
  let s := (st.positions.filterMap (·.tile)).foldl State.freeOf s
  let s := (st.active map).foldl (fun s c => if s.ctxState c = 2 then s.endMember c (status = 0x01) st.deferPark else s) s
  let s := s.putRecordCpl st.asid st.vf st.packet.cpl (st.packet.f 127 64) map status
  let s := s.schedEvent st 2
  let s := { s with steps := s.steps.filter fun x => x.id ≠ st.id }
  let s := if st.template || st.direct then s
    else s.setLq st.die st.queue { s.lq st.die st.queue with busy := remove (s.lq st.die st.queue).busy st.id }
  s.trace st.die 0x06 st.entry status st.packet.index st.chief 0 st.vf
def execCompletionRecord (step : Nat) (s : State) : Out :=
  event (fun s => match s.stepOf step with
    | some st => if !s.stepDone st then s else if s.cplReady st then s.endStep st else (s.counterAsks st.chief).foldl State.sendOnce ((s.writeDfrs st.vf).vaAsk st.asid st.packet.cpl true)
    | none => s) s
/-- Entries of the second bank reach the context's store-log area: 16 bytes each, the sequence first and the pc at byte 8.
An entry whose page is not resident is dropped (the model's choice for R41, log 9). -/
def State.writeSlog (s : State) (t : Nat) : State :=
  match (s.place t).slogBusy with
  | none => s
  | some (c, m) =>
    let s := m.foldl (fun s (slot, q, pc) =>
      (s.putVa (s.ctxAsid c) (s.ctxd c 439 384 + 16 * slot) (bytesOf 8 q ++ bytesOf 8 pc.toNat)).getD s) s
    s.modPlace t fun p => { p with slogBusy := none }
def execStoreLogWriteDone (tile : Nat) (s : State) : Out := event (fun s => s.writeSlog tile) s

-- ## Pre-emption (R173, R401)

/-- Every tile of a running step is a victim. -/
def State.victimise (s : State) (st : Step) : State :=
  (st.positions.filterMap (·.tile)).foldl (fun s t => s.modPlace t fun p => { p with victim := p.step == some st.id }) s
/-- Tiles that a step runs on of a die. -/
def Step.onDie (st : Step) (d : Nat) : Nat := (st.positions.filter fun p => p.die = d && p.tile.isSome).length
/-- A pending step may pre-empt: its deadline is near, or its class is below its share. -/
def State.mayPreempt (s : State) (st : Step) (d : Nat) : Bool :=
  st.deadline ≤ s.tick + 1000 * s.regBits (dieReg d (0x1040 + 8 * st.cls)) 47 32 || s.belowShare d st.cls
/-- Victims for a step, in their order: greater classes first and greater keys first, then classes outside their budget. -/
def State.victimsFor (s : State) (p : Step) (d : Nat) : List Step :=
  let run := s.steps.filter fun st => st.started && st.vf = p.vf && !s.hostHeld d st.vf && st.onDie d ≠ 0 &&
    st.positions.any fun x => match x.tile with | some t => !(s.place t).victim | none => false
  let above := run.filter fun st => st.cls > p.cls
  let excess := run.filter fun st => st.cls < p.cls && s.belowShare d p.cls && !s.inBudget d st.cls
  let order (l : List Step) : List Step := (sortBy (fun st => st.cls * 2 ^ 128 + st.key) l).reverse
  order above ++ order excess
/-- Take victims until their tiles complete what is lacking. -/
def State.markVictims (s : State) (d : Nat) : Nat → List Step → State
  | 0, _ => s
  | _, [] => s
  | n + 1, st :: r => (s.victimise st).markVictims d (n + 1 - st.onDie d) r
/-- Tiles of a die whose running steps are victims already. -/
def State.victimTiles (s : State) (f d : Nat) : Nat :=
  (s.places.filter fun e => e.1 < 512 && dieOf e.1 = d && e.2.step.isSome && e.2.victim && e.2.owner = f).length
def State.preemptFor (s : State) (d : Nat) : State :=
  match s.pickAmong d (s.steps.filter fun st => !s.hostHeld d st.vf && s.inTurn st.vf d && s.needs st d && s.fnEnabled st.vf && s.mayPreempt st d) with
  | none => s
  | some p =>
    let lack := p.gang - p.holds d - min (s.freeTiles d).length (s.allowance p.vf d) - s.victimTiles p.vf d
    let s := s.markVictims d lack (s.victimsFor p d)
    -- the tiles that come free go to it
    if (s.keeper d).isNone then s.modCxs d fun c => { c with picking := some p.id } else s
def execDeadlineLeadReached (die : Nat) (s : State) : Out := event (fun s => s.preemptFor die) s
/-- The end of a time slice: the next function's turn, or the same one again (R401). -/
def State.endTurn (s : State) (d : Nat) : State :=
  match (s.cxsOf d).sliceFn with
  | none => s
  | some f =>
    if s.tick < (s.cxsOf d).sliceEnd then s
    else
      let others := (s.slicedWork d).filter (· ≠ f)
      match (match others.find? (f < ·) with | some g => some g | none => others.head?) with
      | none => s.giveTurn d f
      | some g =>
        let s := (s.steps.filter fun st => st.started && st.vf = f && !s.hostHeld d f && st.onDie d ≠ 0).foldl State.victimise s
        s.giveTurn d g
def execTimeSliceEnd (die : Nat) (s : State) : Out := event (fun s => s.endTurn die) s

-- ## Host-assisted scheduling (R177)

/-- Ring groups 4 and 5 of a die. -/
def schedGroup (d r : Nat) : Nat := dieReg d (0x2000 + 0x40 * r)
structure SchedCmd where
  w : Nat
def SchedCmd.step (c : SchedCmd) : Nat := bits c.w 127 64
def SchedCmd.op (c : SchedCmd) : Nat := bits c.w 63 62
/-- Reserve on the dies of the mask in ascending order. -/
def State.reserveAll (s : State) (st : Step) : State :=
  st.mask.foldl (fun s d => match s.stepOf st.id with
    | some x => if s.needs x d then s.reserve x d else s
    | none => s) s
/-- A started step has a position without a tile. -/
def Step.away (st : Step) : Bool := st.positions.any st.awaitsTile
/-- Every position of a step that awaits a tile resumes, as far as its dies have free ones and its contexts may run. -/
def State.resumeAll (s : State) (st : Step) : State :=
  st.positions.foldl (fun s p => match s.stepOf st.id with
    | some x => if x.awaitsTile p && s.awaits x p.die then s.resumeSaved x p.die else s
    | none => s) s
/-- START, as far as tiles allow: the pending step reserves, and one that was switched out resumes. -/
def State.schedStart (s : State) (st : Step) : State := if st.started then s.resumeAll st else s.reserveAll st
/-- The command at the head of a die's ring, of kind `op`: its state, and its code unless it waits. -/
def State.schedDo (s : State) (d : Nat) (c : SchedCmd) (op : Nat) : State × Option Nat :=
  match s.stepOf c.step with
  | none => (s, some 5)
  | some st =>
    if c.op = 3 || !s.hostHeld d st.vf then (s, some 4)
    else if op = 0 then
      if st.started && !st.away then (s, some 4)
      else
        let s := s.schedStart st
        (s, match s.stepOf st.id with
          | some x => if if x.started then !x.away else x.mask.all fun d => x.holds d = x.gang then some 1 else none
          | none => none)
    else if op = 1 then (if st.started then (s.victimise st, some 1) else (s, some 4))
    else if st.started then (s, some 4)
    else
      let s := s.putRecordCpl st.asid st.vf st.packet.cpl (st.packet.f 127 64) 0 0x03
      let s := s.schedEvent st 2
      ({ s with steps := s.steps.filter fun x => x.id ≠ st.id }, some 1)
def State.schedCommand (s : State) (d op : Nat) : State :=
  let g := schedGroup d 4
  match s.cmdHead g 16 with
  | none => s
  | some (pa, w) =>
    let c : SchedCmd := ⟨w⟩
    if (if c.op = 3 then 0 else c.op) ≠ op then s
    else match s.schedDo d c op with
      | (s, some n) => s.cmdDone g pa n
      | (s, none) => s
def execStart (die : Nat) (s : State) : Out := event (fun s => s.schedCommand die 0) s
def execPreempt (die : Nat) (s : State) : Out := event (fun s => s.schedCommand die 1) s
def execDrop (die : Nat) (s : State) : Out := event (fun s => s.schedCommand die 2) s
/-- Pending steps of a die that the host schedules are announced, and again when they have become eligible; then the oldest
event goes to the ring. -/
def State.announce (s : State) (d : Nat) : State :=
  (s.steps.filter fun st => s.hostHeld d st.vf && st.die = d && !st.started).foldl (fun s st =>
    let x := { st with posted := true }
    let s := if st.posted then s else s.schedEvent x 0
    let tell := !st.told && s.eligible st
    (if tell then s.schedEvent x 1 else s).modStep st.id fun y => { y with posted := true, told := y.told || tell }) s
def State.writeSchedEvent (s : State) (d : Nat) : State :=
  let s := s.announce d
  match (s.cxsOf d).events with
  | [] => s
  | w :: r =>
    let g := schedGroup d 5
    match s.ringEvent g w with
    | some s => s.modCxs d fun x => { x with events := r }
    | none => s.ringAsk g
def execSchedulingEvent (die : Nat) (s : State) : Out := event (fun s => s.writeSchedEvent die) s

end Sys2Proof.Machine
end

