-- ==== Sys2Proof/Machine/Vector.lean ====
section
/-! DEFINITION. The vector engine: element types, landings, and the commands of chapter 10 (R275 to R299). -/
namespace Sys2Proof.Machine

-- ## Element types (R278)

def typFmt (typ : Nat) : Option Fmt :=
  match typ with
  | 0 => some fp32
  | 1 => some bf16
  | 2 => some fp16
  | 3 => some e4m3
  | 4 => some e5m2
  | 5 => some e3m2
  | 6 => some e2m3
  | 7 => some e2m1
  | _ => none
/-- Elements in a lane. -/
def typK (typ : Nat) : Nat :=
  if typ = 0 || typ = 8 || typ = 0xB then 1 else if typ = 1 || typ = 2 || typ = 9 || typ = 0xC then 2 else if typ = 7 then 8 else 4
/-- Bits of an element, and of its container. -/
def typW (typ : Nat) : Nat := if typ = 5 || typ = 6 then 6 else 32 / typK typ
def typSigned (typ : Nat) : Bool := 8 ≤ typ && typ ≤ 0xA
def isF (typ : Nat) : Bool := typ < 8
/-- Element `j` of a register's bits. -/
def elemOf (typ v j : Nat) : Nat := v / 2 ^ (32 / typK typ * j) % 2 ^ typW typ
/-- Value of an integer element. -/
def intOf (typ x : Nat) : Int := if typSigned typ then signedN (typW typ) x else (x : Int)
def loOf (typ : Nat) : Int := if typSigned typ then -((2 ^ (typW typ - 1) : Nat) : Int) else 0
def hiOf (typ : Nat) : Int := if typSigned typ then ((2 ^ (typW typ - 1) : Nat) : Int) - 1 else ((2 ^ typW typ : Nat) : Int) - 1
/-- Low bits of an integer result. -/
def lowBits (typ : Nat) (x : Int) : Nat := (x % ((2 ^ typW typ : Nat) : Int)).toNat

-- ## Results

/-- A register write under way: the register, its data, the bits it writes. -/
structure VWrite where
  data : Nat
  mask : Nat
  deriving DecidableEq, Repr
/-- Put elements of `typ` into a register: `f` answers an element's bits, or none where it is not written. -/
def buildElems (typ : Nat) (f : Nat → Option Nat) : VWrite :=
  let c := 32 / typK typ
  (range 0 (64 * typK typ)).foldl (fun w j => match f j with
    | some x => ⟨w.data + x % 2 ^ typW typ * 2 ^ (c * j), w.mask + (2 ^ c - 1) * 2 ^ (c * j)⟩
    | none => w) ⟨0, 0⟩
def buildLanes (f : Nat → Option Nat) : VWrite := buildElems 0 f
/-- Lanes with at least one written bit. -/
def lanesOf (ws : List VWrite) : Nat :=
  (range 0 64).foldl (fun a i => if ws.any fun w => w.mask / 2 ^ (32 * i) % 2 ^ 32 ≠ 0 then a + 2 ^ i else a) 0
/-- Every lane that is written is written whole, in every register. -/
def wholeLanes (ws : List VWrite) : Bool :=
  let lanes := lanesOf ws
  ws.all fun w => w.mask = (laneBits lanes).toNat
/-- The landing of register results (R369: KIND 1 when every lane is whole, else 3). -/
def vLanding (h : Hdr) (seq lat base : Nat) (ws : List VWrite) : Landing :=
  { rem := lat, base := base, data := ws.map fun w => BitVec.ofNat 2048 w.data, mask := ws.map fun w => BitVec.ofNat 2048 w.mask
    kind := if wholeLanes ws then 1 else 3, lanes := lanesOf ws, sp := false, addrs := [], ssem := h.ssem, sinc := h.sinc, seq := seq, poison := false, again := false }
/-- The landing of a mask register. -/
def mLanding (h : Hdr) (seq lat md m : Nat) : Landing :=
  { rem := lat, base := md, data := [BitVec.ofNat 2048 (m % 2 ^ 64)], mask := [BitVec.ofNat 2048 (2 ^ 64 - 1)]
    kind := 2, lanes := 0, sp := false, addrs := [], ssem := h.ssem, sinc := h.sinc, seq := seq, poison := false, again := false }
/-- The tile as a command at issue reads it. -/
def Place.vN (p : Place) (i : Nat) : Nat := (p.getV i).toNat
def Place.mN (p : Place) (i : Nat) : Nat := (p.getM i).toNat
/-- Put a landing in the buffer; the VE has issued in this ck. -/
def State.pushLanding (s : State) (l : Landing) : State :=
  s.modHere fun p => { p with landing := p.landing ++ [l] }
/-- The VE has issued in this ck (R275). -/
def State.issued (s : State) : State := s.modHere fun p => { p with veIssued := true }

/-- A vector command that reads registers and puts one result on its way. -/
def vec (h : Hdr) (res : Place → Nat → Nat → Landing) (s : State) : Out :=
  if s.here.veIssued then .next s
  else .next (s.command 0 h (fun _ capv => pure capv) fun a capv => do
    let p ← here
    modify fun s => (s.pushLanding (res p capv a.seq)).issued
    return .lands)

/-- A guarded element result of one register (R279). -/
def guarded (p : Place) (x : VR) (f : Nat → Nat) : VWrite :=
  buildElems x.typ fun j => if bit (p.mN x.msk) (j / typK x.typ) then some (f j) else if x.z = 1 then some 0 else none
/-- A command of the VR format, element by element. -/
def vrCmd (h : Hdr) (x : VR) (lat : Nat) (f : Nat → Nat → Nat → Nat) (s : State) : Out :=
  vec h (fun p capv seq => vLanding h seq lat x.vd [guarded p x fun j =>
    f (elemOf x.typ (p.vN x.va) j) (if h.cap = 1 then capv % 2 ^ typW x.typ else elemOf x.typ (p.vN x.vb) j) (elemOf x.typ (p.vN x.vd) j)]) s

-- ## Arithmetic (R284)

/-- An F result rounded once, an I result wrapped or saturated. -/
def arith (typ sat : Nat) (fv : Val → Val → Val → Val) (iv : Int → Int → Int → Int) (a b c : Nat) : Nat :=
  match typFmt typ with
  | some f => f.round 0 false (fv (f.dec a) (f.dec b) (f.dec c))
  | none =>
    let r := iv (intOf typ a) (intOf typ b) (intOf typ c)
    lowBits typ (if sat = 1 then clampInt (loOf typ) (hiOf typ) r else r)
def execVadd (h : Hdr) (x : VR) (s : State) : Out :=
  vrCmd h x 4 (arith x.typ x.m1 (fun a b _ => a.add false b) fun a b _ => a + b) s
def execVsub (h : Hdr) (x : VR) (s : State) : Out :=
  vrCmd h x 4 (arith x.typ x.m1 (fun a b _ => a.add false b.neg) fun a b _ => a - b) s
def execVmul (h : Hdr) (x : VR) (s : State) : Out :=
  vrCmd h x 6 (arith x.typ 0 (fun a b _ => a.mul b) fun a b _ => a * b) s
def execVfma (h : Hdr) (x : VR) (s : State) : Out :=
  vrCmd h x 6 (arith x.typ 0 (fun a b c => (a.mul b).add false c) fun a b c => a * b + c) s
def execVfms (h : Hdr) (x : VR) (s : State) : Out :=
  vrCmd h x 6 (arith x.typ 0 (fun a b c => c.add false (a.mul b).neg) fun a b c => c - a * b) s
/-- Minimum or maximum of two elements. -/
def vMinMax (typ m1 : Nat) (max : Bool) (a b : Nat) : Nat :=
  match typFmt typ with
  | some f => minMax f max (m1 = 1) a b
  | none => if max then (if intOf typ a < intOf typ b then b else a) else (if intOf typ b < intOf typ a then b else a)
def execVmin (h : Hdr) (x : VR) (s : State) : Out := vrCmd h x 4 (fun a b _ => vMinMax x.typ x.m1 false a b) s
def execVmax (h : Hdr) (x : VR) (s : State) : Out := vrCmd h x 4 (fun a b _ => vMinMax x.typ x.m1 true a b) s
/-- Sign bit of an F element cleared or inverted; integers exact (R284). -/
def execVabs (h : Hdr) (x : VR) (s : State) : Out :=
  vrCmd h x 4 (fun a _ _ => if isF x.typ then a % 2 ^ (typW x.typ - 1)
    else arith x.typ x.m1 (fun a _ _ => a) (fun a _ _ => (a.natAbs : Int)) a 0 0) s
def execVneg (h : Hdr) (x : VR) (s : State) : Out :=
  vrCmd h x 4 (fun a _ _ => if isF x.typ then a ^^^ 2 ^ (typW x.typ - 1)
    else arith x.typ x.m1 (fun a _ _ => a) (fun a _ _ => -a) a 0 0) s

-- ## Functions (R285)

def execVrcp (h : Hdr) (x : VR) (s : State) : Out := vrCmd h x 12 (fun a _ _ => rcpf a) s
def execVrsq (h : Hdr) (x : VR) (s : State) : Out := vrCmd h x 12 (fun a _ _ => rsqrtf a) s
def execVexp2 (h : Hdr) (x : VR) (s : State) : Out := vrCmd h x 12 (fun a _ _ => exp2f a) s
def execVlog2 (h : Hdr) (x : VR) (s : State) : Out := vrCmd h x 12 (fun a _ _ => log2f a) s
def execVtanh (h : Hdr) (x : VR) (s : State) : Out := vrCmd h x 12 (fun a _ _ => tanhf a) s

-- ## Conversions (R286 to R288)

/-- Convert an element between types; `nd` is a stream value under stochastic rounding (R210 to R213). -/
def convertElem (st dt : Nat) (sat : Bool) (nd : Option Nat) (x : Nat) : Nat :=
  match typFmt st, typFmt dt with
  | some f, some g =>
    if st = dt then (if (f.dec x).isNan then f.nan else x)
    else match nd with
      | some n => g.roundSr n sat (f.dec x)
      | none => g.round 0 sat (f.dec x)
  | some f, none => lowBits dt ((f.dec x).toRange 0 (loOf dt) (hiOf dt))
  | none, some g => match nd with
    | some n => g.roundSr n sat (intVal (intOf st x))
    | none => g.round 0 sat (intVal (intOf st x))
  | none, none => lowBits dt (clampInt (loOf dt) (hiOf dt) (intOf st x))

/-- The value at a key of a list of (key, value), if any. -/
def assoc (l : List (Nat × Nat)) (k : Nat) : Option Nat := (l.find? fun e => e.1 == k).map (·.2)
/-- A command whose conversions take stream values in ascending order: `f` answers its writes and the
stream's last state. -/
def vecSr (h : Hdr) (lat : Nat) (f : Place → Nat → List (Nat × VWrite) × Nat) (s : State) : Out :=
  if s.here.veIssued then .next s
  else .next (s.command 0 h (fun _ capv => pure capv) fun a capv => do
    let p ← here
    let (ws, st) := f p capv
    modify fun s =>
      let s := s.modHere fun p => { p with vesr := st }
      let n := ws.length
      -- only the last of two landings of one command carries its signal; both land together
      let s := (ws.zip (range 1 n)).foldl (fun s ((d, w), i) =>
        s.pushLanding (vLanding (if i = n then h else { h with sinc := 0, ssem := 0 }) a.seq lat d [w])) s
      s.issued
    return .lands)

/-- R286: the elements converted, ascending, and the stream after them. -/
def vcvtElems (p : Place) (x : VC) : List (Nat × Nat) × Nat :=
  let st := x.vb / 2
  let ks := typK st
  let kd := typK x.typ
  let kw := min ks kd
  let n := 64 * kw
  (range 0 n).foldl (fun (acc, r) j =>
    let sj := if ks > kd then j + x.part * n else j
    let dj := if kd > ks then j + x.part * n else j
    if bit (p.mN x.msk) (j / kw) then
      let nd := nextRandom r
      let v := convertElem st x.typ (x.x1 = 1) (if x.sr = 1 then some nd else none) (elemOf st (p.vN x.va) sj)
      (acc ++ [(dj, v)], if x.sr = 1 then nd else r)
    else (if x.z = 1 then acc ++ [(dj, 0)] else acc, r)) ([], p.vesr)
def execVcvt (h : Hdr) (x : VC) (s : State) : Out :=
  vecSr h 6 (fun p _ =>
    let (l, r) := vcvtElems p x
    ([(x.vd, buildElems x.typ (assoc l))], r)) s

/-- EMAX and MAXF of R287, the latter as FP32 value. -/
def emaxOf (typ : Nat) : Int := if typ = 3 then 8 else if typ = 4 then 15 else if typ = 5 then 4 else 2
def maxfOf (typ : Nat) : Val :=
  if typ = 3 then intVal 448 else if typ = 4 then intVal 57344 else if typ = 5 then intVal 28 else if typ = 6 then .num false 15 (-1) else intVal 6
/-- |x|. -/
def Val.abs : Val → Val
  | .num _ m e => .num false m e
  | .inf _ => .inf false
  | .nan => .nan
/-- Scale byte of a block and its factor; none for a block with a NaN or an infinity. -/
def blockScale (typ scf : Nat) (xs : List Nat) : Option (Nat × Val) :=
  let vs := xs.map fun a => (dec32 a).abs
  if vs.any fun v => match v with | .num _ _ _ => false | _ => true then none
  else
    let amax := vs.foldl (fun a v => if a.lt v then v else a) zeroV
    if scf = 0 then
      let e : Int := match amax with
        | .num _ m x => if m = 0 then 127 else clampInt 0 254 ((m.log2 : Int) + x - emaxOf typ + 127)
        | _ => 127
      some (e.toNat, .num false 1 (e - 127))
    else
      let sc := if amax.isZero then 0x38 else e4m3.round 0 true (amax.div (maxfOf typ))
      let sc := if sc = 0 then 1 else sc
      some (sc, e4m3.dec sc)
/-- R287: the quantised elements, the scale bytes, and the stream after them. -/
def vqntParts (p : Place) (x : VC) : List (Nat × Nat) × List Nat × Nat :=
  let block := if x.x1 = 1 then 16 else 32
  let f := (typFmt x.typ).getD e4m3
  (range 0 (64 / block)).foldl (fun (els, scs, r) b =>
    let lanes := range (b * block) block
    match blockScale x.typ x.x2 (lanes.map fun i => elemOf 0 (p.vN x.va) i) with
    | none => (els ++ lanes.map fun i => (x.part * 64 + i, 0), scs ++ [if x.x2 = 0 then 0xFF else 0x7F], r)
    | some (sc, fac) =>
      let (els, r) := lanes.foldl (fun (els, r) i =>
        let q := (dec32 (elemOf 0 (p.vN x.va) i)).div fac
        let nd := nextRandom r
        if x.sr = 1 then (els ++ [(x.part * 64 + i, f.roundSr nd true q)], nd) else (els ++ [(x.part * 64 + i, f.round 0 true q)], r)) (els, r)
      (els, scs ++ [sc], r)) ([], [], p.vesr)
def execVqnt (h : Hdr) (x : VC) (s : State) : Out :=
  vecSr h 12 (fun p _ =>
    let (els, scs, r) := vqntParts p x
    let lane := (scs.zip (range 0 4)).foldl (fun a e => a + e.1 * 256 ^ e.2) 0
    -- the elements are written last (R287)
    ([(x.vb, buildLanes fun i => if i = x.part then some lane else none), (x.vd, buildElems x.typ (assoc els))], r)) s
/-- A block scale's value; NaN for the NaN scale (R215). -/
def scaleVal (scf b : Nat) : Val := if scf = 0 then (if b = 0xFF then .nan else .num false 1 ((b : Int) - 127)) else e4m3.dec b
def execVdqnt (h : Hdr) (x : VC) (s : State) : Out :=
  let block := if x.x1 = 1 then 16 else 32
  let f := (typFmt x.typ).getD e4m3
  vec h (fun p _ seq => vLanding h seq 6 x.vd [buildLanes fun j =>
    if bit (p.mN x.msk) j then
      let sc := scaleVal x.x2 (elemOf 0 (p.vN x.vb) x.part / 256 ^ (j / block) % 256)
      some (rnd32 ((f.dec (elemOf x.typ (p.vN x.va) (x.part * 64 + j))).mul sc))
    else if x.z = 1 then some 0 else none]) s

-- ## Logic, shifts, compares (R289, R290)

def execVand (h : Hdr) (x : VR) (s : State) : Out := vrCmd h x 4 (fun a b _ => a &&& b) s
def execVor (h : Hdr) (x : VR) (s : State) : Out := vrCmd h x 4 (fun a b _ => a ||| b) s
def execVxor (h : Hdr) (x : VR) (s : State) : Out := vrCmd h x 4 (fun a b _ => a ^^^ b) s
def execVshl (h : Hdr) (x : VR) (s : State) : Out :=
  vrCmd h x 4 (fun a b _ => if b < typW x.typ then a * 2 ^ b % 2 ^ typW x.typ else 0) s
def execVshr (h : Hdr) (x : VR) (s : State) : Out :=
  vrCmd h x 4 (fun a b _ => lowBits x.typ (intOf x.typ a / ((2 ^ (min b (typW x.typ)) : Nat) : Int))) s
/-- COND of R290 on lanes of type W; unordered answers M1. -/
def vCompare (typ cond m1 a b : Nat) : Bool :=
  match typFmt typ with
  | some f =>
    let u := f.dec a
    let v := f.dec b
    if u.isNan || v.isNan then m1 = 1
    else
      let c := u.cmp v
      if cond = 0 then c = 0 else if cond = 1 then c ≠ 0 else if cond = 2 then c < 0 else c ≤ 0
  | none =>
    let u := intOf typ a
    let v := intOf typ b
    if cond = 0 then u = v else if cond = 1 then u ≠ v else if cond = 2 then u < v else u ≤ v
/-- VD holds MD in its high three bits and COND in its low two (R280). -/
def execVcmp (h : Hdr) (x : VR) (s : State) : Out :=
  vec h (fun p capv seq => mLanding h seq 4 (x.vd / 4) ((range 0 64).foldl (fun m i =>
    let b := if h.cap = 1 then capv % 2 ^ typW x.typ else elemOf x.typ (p.vN x.vb) i
    if bit (p.mN x.msk) i && vCompare x.typ (x.vd % 4) x.m1 (elemOf x.typ (p.vN x.va) i) b then m + 2 ^ i else m) 0)) s
def execVsel (h : Hdr) (x : VR) (s : State) : Out :=
  vec h (fun p capv seq => vLanding h seq 4 x.vd [buildLanes fun i => some (if bit (p.mN x.msk) i then elemOf 0 (p.vN x.va) i
    else if h.cap = 1 then capv % 2 ^ 32 else elemOf 0 (p.vN x.vb) i)]) s

-- ## Reductions and lane moves (R221, R291 to R293)

/-- ROP from bits [1:0] of the word: M1 and Z. -/
def ropOf (x : VR) : Nat := 2 * x.m1 + x.z
def ropIdentity (typ rop : Nat) : Nat :=
  if rop = 0 then 0
  else if typ = 0 then inf32 (rop = 2)
  else lowBits typ (if rop = 1 then hiOf typ else loOf typ)
def ropApply (typ rop a b : Nat) : Nat :=
  if rop = 0 then (if typ = 0 then add32f a b else (a + b) % 2 ^ 32)
  else vMinMax typ 1 (rop = 2) a b
/-- One level of the pairwise tree. -/
def pairUp (f : Nat → Nat → Nat) : List Nat → List Nat
  | a :: b :: r => f a b :: pairUp f r
  | l => l
/-- Six levels of VRED's tree. -/
def treeOf (f : Nat → Nat → Nat) (l : List Nat) : Nat := ((range 0 6).foldl (fun l _ => pairUp f l) l).headD 0
/-- Six levels of VSCAN. -/
def scanOf (f : Nat → Nat → Nat) (l : List Nat) : List Nat :=
  (range 0 6).foldl (fun l d => l.take (2 ^ d) ++ (l.zip (l.drop (2 ^ d))).map fun e => f e.1 e.2) l
/-- Lanes that enter a reduction. -/
def ropLanes (p : Place) (x : VR) : List Nat :=
  (range 0 64).map fun i => if bit (p.mN x.msk) i then elemOf 0 (p.vN x.va) i else ropIdentity x.typ (ropOf x)
def execVred (h : Hdr) (x : VR) (s : State) : Out :=
  vec h (fun p _ seq => vLanding h seq 10 x.vd [buildLanes fun i =>
    if i = 0 then some (treeOf (ropApply x.typ (ropOf x)) (ropLanes p x)) else none]) s
def execVscan (h : Hdr) (x : VR) (s : State) : Out :=
  vec h (fun p _ seq =>
    let l := scanOf (ropApply x.typ (ropOf x)) (ropLanes p x)
    vLanding h seq 10 x.vd [buildLanes (nth? l)]) s
def execVperm (h : Hdr) (x : VR) (s : State) : Out :=
  vec h (fun p _ seq => vLanding h seq 8 x.vd [guarded p { x with typ := 0 } fun i => elemOf 0 (p.vN x.va) (elemOf 0 (p.vN x.vb) i % 64)]) s
/-- LANE stands in bits [29:24], which the header holds, when CAP = 0. -/
def execVbcast (h : Hdr) (x : VR) (s : State) : Out :=
  vec h (fun p capv seq => vLanding h seq 4 x.vd [guarded p { x with typ := 0 } fun _ =>
    if h.cap = 1 then capv % 2 ^ 32 else elemOf 0 (p.vN x.va) h.creg]) s
def execViota (h : Hdr) (x : VR) (s : State) : Out :=
  vec h (fun p capv seq => vLanding h seq 4 x.vd [guarded p x fun j => (capv + j) % 2 ^ typW x.typ]) s
/-- Lanes whose bit is set, in ascending order. -/
def selected (p : Place) (x : VR) : List Nat := (range 0 64).filter (bit (p.mN x.msk))
/-- FP6 elements between containers and the dense row (R209). -/
def denseOf (v : Nat) : Nat := (range 0 256).foldl (fun a j => a + v / 256 ^ j % 64 * 64 ^ j) 0
def execVpack (h : Hdr) (x : VR) (s : State) : Out :=
  vec h (fun p _ seq =>
    let w := if x.typ = 0 then
        let sel := selected p x
        buildLanes fun n => match nth? sel n with
          | some i => some (elemOf 0 (p.vN x.va) i)
          | none => if x.z = 1 then some 0 else none
      else buildLanes fun i => if i < 48 then some (elemOf 0 (denseOf (p.vN x.va)) i) else none
    vLanding h seq 8 x.vd [w]) s
def execVunpk (h : Hdr) (x : VR) (s : State) : Out :=
  vec h (fun p _ seq =>
    let w := if x.typ = 0 then
        let sel := (selected p x).zip (range 0 64)
        buildLanes fun i => match assoc sel i with
          | some n => some (elemOf 0 (p.vN x.va) n)
          | none => if x.z = 1 then some 0 else none
      else buildElems x.typ fun j => some (p.vN x.va / 64 ^ j % 64)
    vLanding h seq 8 x.vd [w]) s

-- ## Captures, masks, tables, triples (R297 to R299)

def execVmovc (h : Hdr) (vd lane pair : Nat) (s : State) : Out :=
  vec h (fun _ capv seq => vLanding h seq 4 vd [buildLanes fun i =>
    if i = lane then some (capv % 2 ^ 32) else if pair = 1 && i = lane + 1 then some (capv / 2 ^ 32 % 2 ^ 32) else none]) s
def execVmsk (h : Hdr) (md ma mb mop : Nat) (s : State) : Out :=
  vec h (fun p capv seq =>
    let a := p.mN ma
    let b := p.mN mb
    mLanding h seq 4 md (if mop = 0 then a &&& b else if mop = 1 then a ||| b else if mop = 2 then a ^^^ b
      else if mop = 3 then a &&& (2 ^ 64 - 1 - b) else if mop = 4 then capv else 2 ^ min capv 64 - 1)) s
/-- Entry `i` of the table of four activations (R220). -/
def tableEntry (f : Fmt) (xs : List Nat) (i : Nat) : Nat :=
  let terms := ((xs.zip (range 0 4)).filter fun e => bit i e.2).map fun e => f.dec e.1
  match terms with
  | [] => 0
  | t => rnd32 (sumTerms t)
def execVtbld (h : Hdr) (sel typ vd va : Nat) (s : State) : Out :=
  let f := (typFmt typ).getD fp32
  vec h (fun p _ seq => vLanding h seq 6 vd [buildLanes fun i =>
    let g := 4 * sel + i / 16
    some (tableEntry f ((range (4 * g) 4).map fun j => elemOf typ (p.vN va) j) (i % 16))]) s
/-- The triple at a register base (R299). -/
def tripleAt (p : Place) (base d : Nat) : Triple :=
  ⟨elemOf 0 (p.vN base) 0, elemOf 0 (p.vN base) 1, (range 0 d).map fun i => elemOf 0 (p.vN (base + 1 + i / 64)) (i % 64)⟩
def execVsmx (h : Hdr) (dlog vd va vb : Nat) (s : State) : Out :=
  let d := 32 * 2 ^ dlog
  vec h (fun p _ seq =>
    let t := mergeTriple (tripleAt p va d) (tripleAt p vb d)
    let first := buildLanes fun i => some (if i = 0 then t.m else if i = 1 then t.l else 0)
    let rest := (range 0 (max 1 (d / 64))).map fun b => buildLanes fun i => some ((nth? t.o (64 * b + i)).getD 0)
    vLanding h seq 30 vd (first :: rest)) s
/-- The no-op issues like every command. -/
def execVnop (h : Hdr) (s : State) : Out :=
  if s.here.veIssued then .next s
  else .next (s.command 0 h (fun _ _ => pure ()) fun _ _ => do
    modify State.issued
    return .now)

-- ## Memory commands (R294 to R296)

/-- Enabled lanes with their addresses. -/
abbrev Lanes := List (Nat × Nat)
def vmLanes (p : Place) (x : VM) (capv : Nat) : Lanes :=
  let a := (BitVec.ofNat 64 capv + 16 * sext 15 x.disp)
  ((range 0 64).filter (bit (p.mN x.msk))).map fun i => (i, (a + BitVec.ofNat 64 (4 * i)).toNat)
def vxLanes (p : Place) (x : VX) (capv : Nat) : Lanes :=
  ((range 0 64).filter (bit (p.mN x.msk))).map fun i =>
    (i, (BitVec.ofNat 64 capv + (sext 32 (elemOf 0 (p.vN x.vi) i) <<< x.sc)).toNat)
/-- The checks of R296 in their order. -/
def laneChecks (a : Acc) (sp : Bool) (l : Lanes) (nd : Need) : M Unit := do
  l.forM fun e => need cAlign (e.2 % 4 = 0)
  if sp then l.forM fun e => need cSpbound (e.2 + 4 ≤ 0x180000)
  else
    l.forM fun e => checkVa e.2
    l.forM fun e => permOk a e.2 4 nd
/-- The lanes' data. -/
def laneRead (a : Acc) (sp : Bool) (l : Lanes) : M (List (Nat × Nat)) :=
  l.mapM fun e => do return (e.1, numOf (← if sp then cmdRd a e.2 4 else cmdRdL1 a e.2 4))
/-- A memory command of the VE that has issued: kind 4 a load, which waits in the landing buffer for its data (R277, R369),
kind 5 a store with the register that it read. -/
def memLanding (h : Hdr) (seq vr kind : Nat) (sp : Bool) (v : VReg) (l : Lanes) : Landing :=
  { rem := 18, base := vr, data := [v], mask := [0], kind := kind
    lanes := l.foldl (fun m e => m + 2 ^ e.1) 0, sp := sp, addrs := (range 0 64).map fun i => (assoc l i).getD 0
    ssem := h.ssem, sinc := h.sinc, seq := seq, poison := false, again := false }
/-- A memory command: its addresses stay with the result of a load until that lands. -/
def Landing.ofMem (l : Landing) : Bool := !l.addrs.isEmpty
/-- The lanes of a memory command that are not done. -/
def Landing.left (l : Landing) : Lanes :=
  let done := (l.mask.headD 0).toNat
  ((range 0 64).filter fun i => bit l.lanes i && !bit done (32 * i)).map fun i => (i, (nth? l.addrs i).getD 0)
/-- Lane `i` is done: a load has its data. -/
def Landing.lane (l : Landing) (i w : Nat) : Landing :=
  let m := laneBits (2 ^ i)
  { l with data := [blend m (l.data.headD 0) (BitVec.ofNat 2048 (w * 2 ^ (32 * i)))], mask := [l.mask.headD 0 ||| m] }
/-- A memory command has still to access the bytes at `va`. -/
def Landing.owes (b : Landing) (sp : Bool) (va : Nat) : Bool := (b.kind = 4 || b.kind = 5) && b.sp == sp && b.left.any fun x => x.2 = va
/-- Two memory commands have still to access common bytes. -/
def Landing.meets (b l : Landing) : Bool := l.left.any fun x => b.owes l.sp x.2
/-- The access of one lane, which comes after those of earlier commands to its bytes (R118, R296). -/
def laneDo (a : Acc) (l : Landing) (before : List Landing) (e : Nat × Nat) : M Nat := do
  waitFor (!before.any fun b => b.owes l.sp e.2)
  if l.kind = 4 then return numOf (← if l.sp then cmdRd a e.2 4 else cmdRdL1 a e.2 4)
  else
    let w := elemOf 0 (l.data.headD 0).toNat e.1
    if l.sp then wrSp a e.2 (bytesOf 4 w) else cmdWrL1 a e.2 (bytesOf 4 w)
    return w
/-- The accesses of the lanes in ascending order, as far as they go. -/
def lanesDo (a : Acc) (before : List Landing) : Lanes → Landing → State → State × Landing × Option Stop
  | [], l, s => (s, l, none)
  | e :: r, l, s =>
    match (laneDo a l before e).run s with
    | .ok w s => lanesDo a before r (l.lane e.1 w) s
    | .error x s => (s, l, some x)
/-- What a load does before its first read: after a park its checks again (R277), and poisoned granules (R105). -/
def loadStart (a : Acc) (l : Landing) : M Unit := do
  if l.again then laneChecks a l.sp l.left .r
  if !l.sp && l.mask.headD 0 == 0 then (l.left.map (·.2 / 8192)).eraseDups.forM fun g => poisonOk a (8192 * g) 1
/-- A load that pends over a park: it makes its checks and its reads again (R277). -/
def Landing.pends (l : Landing) : Landing := { l with data := [0], mask := [0], poison := false, again := true }
/-- A memory command goes on: it is done, or waits, parks the context, or ends with its cause. A store whose lazy line
cannot be filled parks the context and stays (R33). -/
def State.tryMem (s : State) (t : Nat) (before : List Landing) (l : Landing) : State × Option Landing × Option (Nat × Nat) :=
  let a := s.cmdAcc t 0 l.seq
  let (s, l, stop) := match (if l.kind = 4 then loadStart a l else pure ()).run (s.modPlace t fun p => { p with met := none }) with
    | .ok _ s => lanesDo a before l.left { l with again := false } s
    | .error e s => (s, l, some e)
  let l := { l with poison := l.poison || (s.place t).met.isSome }
  let s := s.modPlace t fun p => { p with met := none }
  match stop with
  | some (.trap c _) => ((s.postCmd t 0 l.seq c).count t 2 1, none, none)
  | some (.park r i) => (s, some (if l.kind = 5 then l else l.pends), some (r, i))
  | some _ => (s, some l, none)
  | none =>
    if l.kind = 5 then (s.completed t 0 l.seq l.ssem l.sinc, none, none)
    -- a poisoned word is used as read; the trap is posted, and the landing adds no signal (R52)
    else if l.poison then (s.postCmd t 0 l.seq cPoison, some { l with kind := 1, sp := false, sinc := 0, poison := false }, none)
    else (s, some { l with kind := 1, sp := false }, none)
/-- The VE's memory commands `ls` go on after those of `keep`, in issue order. While the time base stands, a load that has
parked its context goes on only for a store behind it, and a load behind it on common bytes pends too (log 23). -/
def State.memAll (s : State) (t : Nat) (runs : Bool) (keep : List Landing) : List Landing → State × List Landing × Option (Nat × Nat)
  | [] => (s, keep, none)
  | l :: r =>
    if !runs && l.kind = 4 && keep.any fun b => b.again && b.meets l then s.memAll t runs (keep ++ [l.pends]) r
    else if l.kind = 5 || (l.kind = 4 && (runs || !l.again || r.any fun b => b.kind = 5 && b.meets l)) then
      match s.tryMem t keep l with
      | (s, l, some park) => (s, keep ++ l.toList ++ r, some park)
      | (s, l, none) => s.memAll t runs (keep ++ l.toList) r
    else s.memAll t runs (keep ++ [l]) r
/-- The landing buffer after a turn, and the park of a load. -/
def State.buffered (s : State) (t : Nat) (ls : List Landing) (park : Option (Nat × Nat)) : State :=
  let s := s.modPlace t fun p => { p with landing := ls }
  match park with
  | some (r, i) => s.parkFor t r i
  | none => s
/-- What a command does early where it can, and does not wait for (R275). -/
def early (x : M Unit) : M Unit := fun s => match x.run s with
  | .error .stall s => .ok () s
  | r => r
/-- A memory command at issue: at most 8 are outstanding, and nothing else delays it (R275); its checks; its accesses begin. A
store's lazy lines are filled now where they can be, and a fill that meets an absent page parks the context (R33). -/
def vMem (h : Hdr) (sp : Bool) (vr : Nat) (store : Bool) (lanes : Place → Nat → Lanes) (s : State) : Out :=
  let t := s.cur
  if s.here.veIssued || 8 ≤ (s.here.landing.filter (·.ofMem)).length then .next s
  else
    let s' := s.command 0 h (fun a capv => do
      let l := lanes (← here) capv
      laneChecks a sp l (if store then .w else .r)
      if store && sp then l.forM fun e => early (spTouch a e.2 4)
      return l) fun a l => do
        let v := (← here).getV vr
        modify fun s => (s.pushLanding (memLanding h a.seq vr (if store then 5 else 4) sp (if store then v else 0) l)).issued
        return .lands
    if (s'.place t).landing.length = s.here.landing.length then .next s'
    else match (s'.place t).landing.getLast? with
      | none => .next s'
      | some l =>
        let before := (s'.place t).landing.dropLast
        let (s2, l, park) := s'.tryMem t before l
        .next (s2.buffered t (before ++ l.toList) park)
def execVld (h : Hdr) (x : VM) (s : State) : Out := vMem h (x.as = 1) x.vr false (fun p c => vmLanes p x c) s
def execVst (h : Hdr) (x : VM) (s : State) : Out := vMem h (x.as = 1) x.vr true (fun p c => vmLanes p x c) s
def execVldx (h : Hdr) (x : VX) (s : State) : Out := vMem h (x.as = 1) x.vr false (fun p c => vxLanes p x c) s
def execVstx (h : Hdr) (x : VX) (s : State) : Out := vMem h (x.as = 1) x.vr true (fun p c => vxLanes p x c) s

-- ## One ck of the VE: landings (R276, R361)

/-- Write a result's registers. -/
def Place.land (p : Place) (l : Landing) : Place :=
  if l.kind = 2 then p.setM l.base ((l.data.headD 0).truncate 64)
  else ((l.data.zip l.mask).zip (range l.base l.data.length)).foldl (fun p (e : (VReg × VReg) × Nat) =>
    p.setV e.2 (blend e.1.2 (p.getV e.2) e.1.1)) p
/-- Land one result; its command completes, unless another result of it follows. -/
def State.landOne (s : State) (t : Nat) (more : Bool) (l : Landing) : State :=
  let s := s.modPlace t fun p => { p.land l with met := none }
  if more then s else s.completed t 0 l.seq l.ssem l.sinc
/-- A result whose time has come. -/
def Landing.due (l : Landing) : Bool := l.kind < 4 && l.rem = 0
/-- A ck of the VE's time base passes at a tile: remaining times fall, memory commands go on, and what reaches zero with its
data there lands in issue order. -/
def State.veStep (s : State) (t : Nat) : State :=
  let ls := (s.place t).landing.map fun l => { l with rem := l.rem - 1 }
  let (s, ls, park) := ({ s.modPlace t fun p => { p with landing := [], veIssued := false } with cur := t }).memAll t true [] ls
  let s := (ls.zip (range 1 ls.length)).foldl (fun s (e : Landing × Nat) =>
    if e.1.due then s.landOne t ((ls.drop e.2).any fun m => m.seq == e.1.seq) e.1 else s) s
  s.buffered t (ls.filter fun l => !l.due) park
/-- While the time base stands, the memory commands that have begun end; no time passes for a result (R358). -/
def State.veRest (s : State) (t : Nat) : State :=
  let p := s.place t
  if p.memRest then s
  else
    let ls := if p.veIssued then p.landing else p.landing.map fun l => { l with rem := l.rem + 1 }
    let (s, ls, park) := ({ s.modPlace t fun p => { p with landing := [], veIssued := true } with cur := t }).memAll t false [] ls
    s.buffered t ls park
def execVeLanding (tile : Nat) (s : State) : Out :=
  .next (if !isTile tile then s else if (s.place tile).veRuns then s.veStep tile else s.veRest tile)

end Sys2Proof.Machine
end

