-- ==== Sys2Proof/Machine/Matrix.lean ====
section
/-! DEFINITION. The matrix engine: tile headers, operands, the body and the drain, and the commands of
chapter 11 (R216 to R220, R300 to R323). -/
namespace Sys2Proof.Machine

-- ## Accumulators (R301)

def Place.setAcc (p : Place) (n v : Nat) : Place :=
  { p with acc := if p.accEpoch = 0 then fset 0 p.acc n (BitVec.ofNat 32 v) else fput n (BitVec.ofNat 32 v) p.acc }
def Place.zeroAcc (p : Place) : Place := { p with acc := [], accEpoch := 0 }
/-- Entry of acc(i, j) with `nsub` sub-columns. -/
def accIndex (nsub i j : Nat) : Nat := 256 * (j / nsub) + i * nsub + j % nsub

-- ## Tile headers (R216 to R218, R302, R303)

/-- A tile header as its 256 bits. -/
structure Hd where
  w : Nat
  deriving DecidableEq, Repr
def Hd.tscale (h : Hd) : Nat := bits h.w 255 224
def Hd.data (h : Hd) : Nat := bits h.w 223 200
def Hd.scloc (h : Hd) : Nat := bits h.w 199 176
def Hd.pitch (h : Hd) : Nat := bits h.w 175 160
def Hd.scpitch (h : Hd) : Nat := bits h.w 159 144
def Hd.rows (h : Hd) : Nat := bits h.w 143 128
def Hd.cols (h : Hd) : Nat := bits h.w 127 112
def Hd.elem (h : Hd) : Nat := bits h.w 15 12
def Hd.scmode (h : Hd) : Nat := bits h.w 11 10
def Hd.scfmt (h : Hd) : Nat := bits h.w 9 9
def Hd.blk (h : Hd) : Nat := if bit h.w 8 then 16 else 32
def Hd.layout (h : Hd) : Nat := bits h.w 7 6
/-- Floating format of ELEM 0 to 7, and its width. -/
def elemFmt (e : Nat) : Fmt := (typFmt e).getD fp32
def Hd.width (h : Hd) : Nat := (elemFmt h.elem).w
def Hd.scaled (h : Hd) : Bool := h.scmode = 1 || h.scmode = 2
/-- Elements of one line, and lines: rows in row-major layout, columns otherwise. -/
def Hd.lineLen (h : Hd) : Nat := if h.layout = 0 then h.cols else h.rows
def Hd.lines (h : Hd) : Nat := if h.layout = 0 then h.rows else h.cols
/-- R217. -/
def Hd.ok (h : Hd) : Bool :=
  bit h.w 0 && bits h.w 111 16 = 0 && bits h.w 5 1 = 0 && h.elem ≤ 8 && h.layout ≠ 3 && bits h.scloc 23 21 = 0 &&
    1 ≤ h.rows && h.rows ≤ 4096 && 1 ≤ h.cols &&
    (h.layout = 2 || (h.pitch % 16 = 0 && h.width * h.lineLen % 8 = 0 && h.width * h.lineLen ≤ 8 * h.pitch)) &&
    (!h.scaled || (3 ≤ h.elem && h.elem ≤ 7 && h.lineLen % h.blk = 0 && h.lineLen / h.blk ≤ h.scpitch))
/-- Elements and scales of a scratchpad operand lie inside it. -/
def Hd.inside (h : Hd) : Bool :=
  h.data + (h.lines - 1) * h.pitch + h.width * h.lineLen / 8 ≤ 0x180000 &&
    (!h.scaled || h.scloc + (h.lines - 1) * h.scpitch + h.lineLen / h.blk ≤ 0x180000)
/-- Chunk size (R219), and words of a chunk of one B column (R302); planes have `k` of them. -/
def chunkOf (elem : Nat) : Nat := if elem = 1 || elem = 2 then 64 else if elem = 7 then 256 else 128
def wpcOf (elem k : Nat) : Nat := if elem = 8 then k else if elem = 5 || elem = 6 then 6 else 8
def ceilDiv (a b : Nat) : Nat := (a + b - 1) / b
def Hd.chunks (h : Hd) : Nat := ceilDiv h.rows (chunkOf h.elem)
/-- Rows of a B operand under the layout of R302 lie inside the B-store. -/
def Hd.bInside (h : Hd) (nsub k : Nat) : Bool :=
  h.data + ceilDiv h.cols (64 * nsub) * h.chunks * nsub * wpcOf h.elem k * 1024 ≤ 0xC00000 &&
    (!h.scaled || h.scloc + (h.cols - 1) * h.scpitch + h.rows / h.blk ≤ 0x180000)

/-- Roles of R321. -/
def hdA (a b : Hd) : Bool := 1 ≤ a.elem && a.elem ≤ 7 && a.layout = 0 && chunkOf a.elem = chunkOf b.elem
def hdALut (a : Hd) : Bool := a.elem = 0 && a.layout = 0 && a.scmode = 0 && a.cols % 16 = 0
def hdB (b : Hd) : Bool := 1 ≤ b.elem && b.elem ≤ 7 && b.layout = 2 && b.pitch = 0 && b.data % 1024 = 0
def hdBLut (b : Hd) (g : Nat) : Bool :=
  b.elem = 8 && b.layout = 2 && b.scmode = 0 && b.pitch = 0 && b.data % 1024 = 0 && b.scloc % 8 = 0 && 8 * ceilDiv b.rows g ≤ b.scpitch
def hdC (c out : Hd) : Bool := c.elem ≤ 1 && c.layout = 0 && c.scmode = 0 && c.rows = 1 && out.cols ≤ c.cols
def hdOut (o : Hd) : Bool := o.elem ≤ 7 && o.layout ≤ 1 && (o.scmode = 0 || o.scmode = 3)

-- ## Elements

/-- `w` bits from bit `b` of the scratchpad bytes at `o`. -/
def spBitsAt (a : Acc) (o b w : Nat) : M Nat := do
  let x ← cmdRdN a (o + b / 8) ((b % 8 + w + 7) / 8)
  return x / 2 ^ (b % 8) % 2 ^ w
/-- Element (r, c) of a scratchpad operand with its block scale. -/
def Hd.elemVal (h : Hd) (a : Acc) (r c : Nat) : M Val := do
  let line := if h.layout = 0 then r else c
  let i := if h.layout = 0 then c else r
  let x ← spBitsAt a (h.data + line * h.pitch) (h.width * i) h.width
  let v := (elemFmt h.elem).dec x
  if h.scaled then
    let sc ← cmdRdN a (h.scloc + line * h.scpitch + i / h.blk) 1
    return v.mul (scaleVal h.scfmt sc)
  else return v
def Hd.tileVal (h : Hd) : Val := if h.scmode ≥ 2 then dec32 h.tscale else dec32 one32
/-- The bit string of chunk `q` of B column `j` (R302); words that are not delivered read as zero and their
cause is met (R81). -/
def Hd.chunkBits (h : Hd) (a : Acc) (nsub k j q : Nat) : M Nat := do
  let wpc := wpcOf h.elem k
  let nw := 64 * nsub
  let col := j % nw / nsub
  (range 0 wpc).foldlM (fun acc w => do
    let row := h.data / 1024 + (j / nw * h.chunks + q) * nsub * wpc + j % nsub * wpc + w
    let (bs, c) := (← get).bstWord a.place a.vf row col
    match c with
    | some c => meet a.place c
    | none => pure ()
    return acc + numOf bs * 2 ^ (128 * w)) 0
/-- Elements of B column `j` at K indices `k0`, … (`n` of them, in one chunk). -/
def Hd.bVals (h : Hd) (a : Acc) (nsub j k0 n : Nat) : M (List Val) := do
  let ch := chunkOf h.elem
  let w := h.width
  let x ← h.chunkBits a nsub 1 j (k0 / ch)
  (range k0 n).mapM fun k => do
    let v := (elemFmt h.elem).dec (x / 2 ^ (w * (k % ch)) % 2 ^ w)
    if h.scaled then
      let sc ← cmdRdN a (h.scloc + j * h.scpitch + k / h.blk) 1
      return v.mul (scaleVal h.scfmt sc)
    else return v

-- ## The body (R308)

/-- What a run multiplies. -/
inductive Kind where
  | mmul
  /-- with its index list -/
  | mgath (il : List Nat)
  /-- with k planes and group size -/
  | mlut (k g : Nat)
  deriving DecidableEq, Repr
/-- Origins of a point. -/
structure Orig where
  ar : Nat
  ac : Nat
  br : Nat
  bc : Nat
  cr : Nat
  cc : Nat
  deriving DecidableEq, Repr
def Orig.zero : Orig := ⟨0, 0, 0, 0, 0, 0⟩

/-- Chunks of [0, Ke): start and length, ascending, cut at multiples of `ch`. -/
def chunksOf (ke ch : Nat) : List (Nat × Nat) := (range 0 (ceilDiv ke ch)).map fun q => (q * ch, min ch (ke - q * ch))
/-- Chunks of MLUT: 128 indices, cut short at multiples of G of the K index from `k0` (R311). -/
def lutChunks (k0 ke g : Nat) : List (Nat × Nat) :=
  let cut := min 128 g
  let first := k0 / cut
  (range first ((k0 + ke + cut - 1) / cut - first)).map fun q =>
    let lo := max k0 (q * cut)
    (lo - k0, min (k0 + ke) ((q + 1) * cut) - lo)
/-- Terms of one chunk of MMUL or MGATH. -/
def mulTerms (a : Acc) (ha hb : Hd) (nsub ra ac br j k0 n : Nat) : M (List Val) := do
  let bs ← hb.bVals a nsub j (br + k0) n
  let t := ha.tileVal.mul hb.tileVal
  (bs.zip (range (ac + k0) n)).mapM fun e => do return ((← ha.elemVal a ra e.2).mul e.1).mul t
/-- Entry `e` of the table of the group that holds activation `col` (R304). -/
def tableAt (a : Acc) (ha : Hd) (ra g e : Nat) : M Val := ha.elemVal a ra (16 * g + e)
/-- Terms of one chunk of MLUT (R220, R311): `c0` is the A origin in activations, `b0` the B row, `n` weights. -/
def lutTerms (a : Acc) (ha hb : Hd) (nsub k g ra c0 b0 j n : Nat) : M (List Val) := do
  let x ← hb.chunkBits a nsub k j (b0 / 128)
  let par := hb.scloc + j * hb.scpitch + 8 * (b0 / g)
  let sigma := dec32 (← cmdRdN a par 4)
  let beta := dec32 (← cmdRdN a (par + 4) 4)
  let first := b0 / 4
  let last := (b0 + n + 3) / 4
  (range first (last - first)).foldlM (fun acc grp => do
    let inside := (range 0 4).filter fun j => b0 ≤ 4 * grp + j && 4 * grp + j < b0 + n
    let tg := c0 / 4 + (grp - first)
    let planes ← (range 0 k).mapM fun p => do
      let i := inside.foldl (fun i j => if bit x (128 * p + (4 * grp + j) % 128) then i + 2 ^ j else i) 0
      return ((sigma.mul (.num false 1 p)).mul (← tableAt a ha ra tg i))
    let mu := inside.foldl (fun i j => i + 2 ^ j) 0
    return acc ++ planes ++ [beta.mul (← tableAt a ha ra tg mu)]) []
/-- K indices, columns and rows (with the A row of each) of a window (R308, R310, R311). -/
def Kind.ke (kind : Kind) (ha hb : Hd) (tk : Nat) (o : Orig) : Nat :=
  let ka := match kind with
    | .mlut _ _ => ha.cols / 4
    | _ => ha.cols
  min tk (min (ka - o.ac) (hb.rows - o.br))
def Kind.rows (kind : Kind) (ha : Hd) (tm : Nat) (o : Orig) : List (Nat × Nat) :=
  match kind with
  | .mgath il => ((range 0 tm).map fun i => (i, (nth? il i).getD 0xFFFF)).filter fun e => e.2 ≠ 0xFFFF
  | _ => (range 0 (min tm (ha.rows - o.ar))).map fun i => (i, o.ar + i)
/-- R308. -/
def body (a : Acc) (kind : Kind) (ha hb : Hd) (nsub tm tn tk : Nat) (o : Orig) : M Unit :=
  (kind.rows ha tm o).forM fun (i, ra) =>
    (range 0 (min tn (hb.cols - o.bc))).forM fun j => do
      let ke := kind.ke ha hb tk o
      let chunks := match kind with
        | .mlut _ g => lutChunks o.br ke g
        | _ => chunksOf ke (chunkOf hb.elem)
      chunks.forM fun (k0, n) => do
        let terms ← match kind with
          | .mlut k g => lutTerms a ha hb nsub k g ra (o.ac + k0) (o.br + k0) (o.bc + j) n
          | _ => mulTerms a ha hb nsub ra o.ac o.br (o.bc + j) k0 n
        onPlace a.place fun p =>
          let x := accIndex nsub i j
          p.setAcc x (accumulate (p.accAt x) terms)
/-- Scratchpad bytes of `w` bits from bit `b` at `o`, and of the scales of `n` elements from `i` of a line. -/
def bitRun (o b w : Nat) : Nat × Nat := (o + b / 8, if w = 0 then 0 else (b % 8 + w + 7) / 8)
def Hd.scaleRun (h : Hd) (line i n : Nat) : Nat × Nat :=
  (h.scloc + line * h.scpitch + i / h.blk, if h.scaled && n ≠ 0 then (i + n - 1) / h.blk + 1 - i / h.blk else 0)
/-- Scratchpad ranges that a body reads. -/
def bodyReads (kind : Kind) (ha hb : Hd) (tm tn tk : Nat) (o : Orig) : List (Nat × Nat) :=
  let ke := kind.ke ha hb tk o
  let cols := range o.bc (min tn (hb.cols - o.bc))
  if ke = 0 || cols.isEmpty then []
  else
    let (i, n) := match kind with
      | .mlut _ _ => (16 * (o.ac / 4), 16 * ((o.br + ke + 3) / 4 - o.br / 4))
      | _ => (o.ac, ke)
    ((kind.rows ha tm o).flatMap fun (_, ra) => [bitRun (ha.data + ra * ha.pitch) (ha.width * i) (ha.width * n), ha.scaleRun ra i n]) ++
      cols.map fun j => match kind with
        | .mlut _ g => (hb.scloc + j * hb.scpitch + 8 * (o.br / g), 8 * ((o.br + ke - 1) / g + 1 - o.br / g))
        | _ => hb.scaleRun j o.br ke

-- ## The drain (R313)

/-- What a drain does: f of R313. -/
structure DrainF where
  keep : Bool
  sct : Bool
  act : Nat
  bias : Bool
  sat : Bool
  sr : Bool
  scale : Nat
  deriving DecidableEq, Repr
/-- Write elements of one line from index `i0`, in one scratchpad write of the nibbles that they lie in (R49). -/
def Hd.putRun (h : Hd) (a : Acc) (line i0 : Nat) (xs : List Nat) : M Unit := do
  if !xs.isEmpty then
    let w := h.width
    let b0 := 8 * (h.data + line * h.pitch) + w * i0
    let lo := b0 / 4
    let n := (b0 % 4 + w * xs.length + 3) / 4
    let old := ((← get).place a.place).spNum (lo / 2) ((lo + n + 1) / 2 - lo / 2) / 16 ^ (lo % 2) % 16 ^ n
    wrSpNibbles a lo n ((xs.zip (range 0 xs.length)).foldl (fun v e => setBits v (b0 % 4 + w * e.2 + w - 1) (b0 % 4 + w * e.2) e.1) old)
/-- One output element's bits (R313). -/
def drainElem (out : Hd) (f : DrainF) (nd x c : Nat) : Nat :=
  let x := mul32 x f.scale
  let x := if f.bias then add32f x c else x
  let x := activation f.act x
  let g := elemFmt out.elem
  if out.elem = 0 && out.scmode ≠ 3 then (if (dec32 x).isNan then nan32 else x)
  else
    let v := if out.scmode = 3 then (dec32 x).div (dec32 out.tscale) else dec32 x
    if f.sr then g.roundSr nd f.sat v else g.round 0 f.sat v
/-- Rows of a drain: the accumulator row and the output row. -/
def drainRows (out : Hd) (f : DrainF) (rows : Nat) (sl : List Nat) (o : Orig) : List (Nat × Nat) :=
  ((range 0 rows).map fun i => (i, if f.sct then (nth? sl i).getD 0xFFFF else o.cr + i)).filter fun e => e.2 ≠ 0xFFFF && e.2 < out.rows
/-- Scratchpad ranges that a drain writes. -/
def drainWrites (out : Hd) (f : DrainF) (tn rows : Nat) (sl : List Nat) (o : Orig) : List (Nat × Nat) :=
  let n := min tn (out.cols - o.cc)
  let rs := drainRows out f rows sl o
  let at_ (line i n : Nat) : Nat × Nat := bitRun (out.data + line * out.pitch) (out.width * i) (out.width * n)
  if out.layout = 0 then rs.map fun e => at_ e.2 o.cc n
  else if f.sct then rs.flatMap fun e => (range 0 n).map fun j => at_ (o.cc + j) e.2 1
  else (range 0 n).map fun j => at_ (o.cc + j) o.cr rs.length
/-- R313; `sl` is the scatter list and `bias` the decoded bias row as FP32. -/
def drain (a : Acc) (out : Hd) (f : DrainF) (nsub tn rows : Nat) (sl bias : List Nat) (o : Orig) : M Unit := do
  let n := min tn (out.cols - o.cc)
  let lines ← (drainRows out f rows sl o).mapM fun (i, ro) => do
    let p := (← get).place a.place
    let (xs, r) := (range 0 n).foldl (fun (xs, r) j =>
      let nd := nextRandom r
      (xs ++ [drainElem out f nd (p.accAt (accIndex nsub i j)) ((nth? bias (o.cc + j)).getD 0)], if f.sr then nd else r)) ([], p.mesr)
    onPlace a.place fun p => { p with mesr := r }
    return (ro, xs)
  if out.layout = 0 then lines.forM fun (ro, xs) => out.putRun a ro o.cc xs
  else if f.sct then lines.forM fun (ro, xs) => (xs.zip (range 0 n)).forM fun (x, j) => out.putRun a (o.cc + j) ro [x]
  else (range 0 n).forM fun j => out.putRun a (o.cc + j) o.cr (lines.map fun (_, xs) => (nth? xs j).getD 0)
  if !f.keep then onPlace a.place Place.zeroAcc

-- ## Sources of headers and lists (R306)

def Place.cfg (p : Place) (i : Nat) : Nat := (fget 0 p.mcActive i).toNat
/-- Header pointers of a command. -/
def hptr (p : Place) (h : Hdr) (capv k idx : Nat) : Nat := if h.cap = 1 then 32 * bits capv (16 * k + 15) (16 * k) else p.cfg (8 + idx)
/-- A header pointer within scratchpad (R322). -/
def ptrOk (o : Nat) : M Unit := need cSpbound (o ≤ 0x17FFE0)
def readHd (a : Acc) (o : Nat) : M Hd := do return ⟨← cmdRdN a o 32⟩
def readList (a : Acc) (o n : Nat) : M (List Nat) := (range 0 n).mapM fun i => cmdRdN a (o + 2 * i) 2
def listOk (o n : Nat) : M Unit := need cSpbound (o + 2 * n ≤ 0x180000)
/-- Entries name rows, or nothing. -/
def entriesOk (l : List Nat) (rows : Nat) : Bool := l.all fun e => e = 0xFFFF || e < rows
/-- The bias row as FP32 values, read once. -/
def readBias (a : Acc) (c : Hd) : M (List Nat) := (range 0 c.cols).mapM fun j => do
  let x ← spBitsAt a c.data (c.width * j) c.width
  return rnd32 ((elemFmt c.elem).dec x)
def nsubOf (n : Nat) : Nat := 2 ^ n
def gszOf (n : Nat) : Nat := 32 * 2 ^ n

/-- Lines of lazy regions that a command is to touch are filled before its first effect, so that no fill stands between two
of its effects (R33, R307). -/
def lazyFill (a : Acc) (l : Unit → List (Nat × Nat)) : M Unit := do
  if !((← get).place a.place).maps.isEmpty then touchAll a (l ())

-- ## Commands (R309 to R313, R322)

/-- A matrix command: checks, then its effect, in one turn of the engine. -/
def matrix {α} (h : Hdr) (checks : Acc → Nat → Place → M α) (eff : Acc → α → M Unit) (s : State) : Out :=
  .next (s.command 1 h (fun a capv => do checks a capv (← here)) fun a x => do
    eff a x
    return .now)

def execMnop (h : Hdr) (s : State) : Out := noop 1 h s
def execMzero (h : Hdr) (s : State) : Out := matrix h (fun _ _ _ => pure ()) (fun a _ => onPlace a.place Place.zeroAcc) s
def execMmul (h : Hdr) (nsub z : Nat) (s : State) : Out :=
  let ns := nsubOf nsub
  matrix h (fun a capv p => do
    let oa := hptr p h capv 0 0
    let ob := hptr p h capv 1 1
    ptrOk oa
    ptrOk ob
    let ha ← readHd a oa
    let hb ← readHd a ob
    need cHdrfmt (ha.ok && hb.ok && hdA ha hb && hdB hb && ha.cols = hb.rows && ha.rows ≤ 256 / ns && hb.cols ≤ 64 * ns)
    need cSpbound (ha.inside && hb.bInside ns 1)
    lazyFill a fun _ => bodyReads .mmul ha hb ha.rows hb.cols ha.cols .zero
    return (ha, hb)) (fun a (ha, hb) => do
    if z = 1 then onPlace a.place Place.zeroAcc
    body a .mmul ha hb ns ha.rows hb.cols ha.cols .zero) s
def execMgath (h : Hdr) (nsub z nrow : Nat) (s : State) : Out :=
  let ns := nsubOf nsub
  matrix h (fun a capv p => do
    let oa := hptr p h capv 0 0
    let ob := hptr p h capv 1 1
    let il := if h.cap = 1 then 32 * bits capv 47 32 else bits (p.cfg 3) 20 0
    need cAlign (il % 2 = 0)
    ptrOk oa
    ptrOk ob
    listOk il nrow
    let ha ← readHd a oa
    let hb ← readHd a ob
    let l ← readList a il nrow
    need cHdrfmt (ha.ok && hb.ok && hdA ha hb && hdB hb && ha.cols = hb.rows && nrow ≤ 256 / ns && hb.cols ≤ 64 * ns && entriesOk l ha.rows)
    need cSpbound (ha.inside && hb.bInside ns 1)
    lazyFill a fun _ => bodyReads (.mgath l) ha hb nrow hb.cols ha.cols .zero
    return (ha, hb, l)) (fun a (ha, hb, l) => do
    if z = 1 then onPlace a.place Place.zeroAcc
    body a (.mgath l) ha hb ns nrow hb.cols ha.cols .zero) s
def execMlut (h : Hdr) (nsub z kb gsz : Nat) (s : State) : Out :=
  let ns := nsubOf nsub
  let k := kb + 1
  let g := gszOf gsz
  matrix h (fun a capv p => do
    let oa := hptr p h capv 0 0
    let ob := hptr p h capv 1 1
    ptrOk oa
    ptrOk ob
    let ha ← readHd a oa
    let hb ← readHd a ob
    need cHdrfmt (ha.ok && hb.ok && hdALut ha && hdBLut hb g && ha.cols = 4 * hb.rows && ha.rows ≤ 256 / ns && hb.cols ≤ 64 * ns)
    need cSpbound (ha.inside && hb.bInside ns k && hb.scloc + (hb.cols - 1) * hb.scpitch + 8 * ceilDiv hb.rows g ≤ 0x180000)
    lazyFill a fun _ => bodyReads (.mlut k g) ha hb ha.rows hb.cols hb.rows .zero
    return (ha, hb)) (fun a (ha, hb) => do
    if z = 1 then onPlace a.place Place.zeroAcc
    body a (.mlut k g) ha hb ns ha.rows hb.cols hb.rows .zero) s
def execMdrain (h : Hdr) (x : Drain) (s : State) : Out :=
  let ns := nsubOf x.nsub
  let mw := 256 / ns
  let nw := 64 * ns
  matrix h (fun a capv p => do
    let oo := hptr p h capv 0 3
    let oc := hptr p h capv 1 2
    let scale := if h.cap = 1 then bits capv 63 32 else bits (p.cfg 2) 63 32
    let so := bits (p.cfg 3) 41 21
    if x.sct = 1 then need cAlign (so % 2 = 0)
    ptrOk oo
    if x.bias = 1 then ptrOk oc
    if x.sct = 1 then listOk so mw
    let ho ← readHd a oo
    let hc ← if x.bias = 1 then readHd a oc else pure ⟨0⟩
    let sl ← if x.sct = 1 then readList a so mw else pure []
    need cHdrfmt (ho.ok && hdOut ho && (x.bias = 0 || (hc.ok && hdC hc ho)) && entriesOk sl ho.rows)
    need cSpbound (ho.inside && (x.bias = 0 || hc.inside))
    let b ← if x.bias = 1 then readBias a hc else pure []
    let f : DrainF := ⟨x.keep = 1, x.sct = 1, x.act, x.bias = 1, x.sat = 1, x.sr = 1, scale⟩
    lazyFill a fun _ => drainWrites ho f nw (if x.sct = 1 then mw else min ho.rows mw) sl .zero
    return (ho, sl, b, f)) (fun a (ho, sl, b, f) =>
    drain a ho f ns nw (if x.sct = 1 then mw else min ho.rows mw) sl b .zero) s

-- ## MGO (R314 to R320)

/-- The matrix configuration of a run. -/
structure Nest where
  m : FMap Word
  deriving DecidableEq, Repr
def Nest.r (n : Nest) (i : Nat) : Nat := (fget 0 n.m i).toNat
def Nest.nlev (n : Nest) : Nat := bits (n.r 0) 2 0
def Nest.nsub (n : Nest) : Nat := nsubOf (bits (n.r 0) 4 3)
def Nest.bodyK (n : Nest) : Nat := bits (n.r 0) 6 5
def Nest.rlev (n : Nest) : Nat := bits (n.r 0) 9 7
def Nest.zen (n : Nest) : Bool := bit (n.r 0) 10
def Nest.den (n : Nest) : Bool := bit (n.r 0) 11
def Nest.tm (n : Nest) : Nat := bits (n.r 1) 8 0
def Nest.tn (n : Nest) : Nat := bits (n.r 1) 18 9
def Nest.tk (n : Nest) : Nat := bits (n.r 1) 31 19
def Nest.drainF (n : Nest) : DrainF :=
  let d := n.r 2
  ⟨bit d 2, bit d 1, bits d 7 6, bit d 5, bit d 4, bit d 3, bits d 63 32⟩
def Nest.ilist (n : Nest) : Nat := bits (n.r 3) 20 0
def Nest.slist (n : Nest) : Nat := bits (n.r 3) 41 21
def Nest.planes (n : Nest) : Nat := bits (n.r 4) 1 0 + 1
def Nest.gsz (n : Nest) : Nat := bits (n.r 4) 3 2
def Nest.trip (n : Nest) (l : Nat) : Nat := bits (n.r (0x10 + l)) 15 0
def Nest.kind (n : Nest) (l : Nat) : Nat := bits (n.r (0x10 + l)) 63 62
/-- Step of level `l` in field `f`: 5 AR, 4 AC, 3 BR, 2 BC, 1 CR, 0 CC, in elements. -/
def Nest.lstep (n : Nest) (l f : Nat) : Int := 8 * signedN 10 (bits (n.r (0x18 + l)) (10 * f + 9) (10 * f))
def Nest.levels (n : Nest) : List Nat := range 0 n.nlev
/-- Every reserved bit of the registers is zero. -/
def Nest.rsvOk (n : Nest) : Bool :=
  bits (n.r 0) 63 12 = 0 && bits (n.r 1) 63 32 = 0 && bits (n.r 2) 31 8 = 0 && bits (n.r 2) 0 0 = 0 && bits (n.r 3) 63 42 = 0 &&
    bits (n.r 4) 63 4 = 0 && (range 8 4).all (fun i => bits (n.r i) 63 21 = 0) &&
    (range 0x10 6).all (fun i => bits (n.r i) 61 16 = 0) && (range 0x18 6).all fun i => bits (n.r i) 63 60 = 0
/-- Spatial indices of a tile (R319): none when it has no points; a nest without a spatial level runs wholly on every
tile. -/
def Nest.spatial (n : Nest) (gpos gang : Nat) : Option (FMap Nat) :=
  let ts := gpos % gang
  let ds := gpos / gang
  let tl := n.levels.filter fun l => n.kind l = 1
  let (m, rest) := tl.foldr (fun l (acc : FMap Nat × Nat) => (fput l (acc.2 % n.trip l) acc.1, acc.2 / n.trip l)) ([], ts)
  let dl := n.levels.filter fun l => n.kind l = 2
  if tl.isEmpty && dl.isEmpty then some []
  else if rest ≠ 0 || dl.any fun l => n.trip l ≤ ds then none
  else some (dl.foldl (fun m l => fput l ds m) m)
/-- Points of a tile in order, as index lists. -/
def Nest.points (n : Nest) (sp : FMap Nat) : List (List Nat) :=
  n.levels.foldl (fun ps l =>
    let is := if n.kind l = 0 then range 0 (n.trip l) else [fget 0 sp l]
    ps.flatMap fun p => is.map fun i => p ++ [i]) [[]]
/-- An origin of a point. -/
def Nest.origin (n : Nest) (p : List Nat) (f : Nat) : Int := (p.zip n.levels).foldl (fun a e => a + (e.1 : Int) * n.lstep e.2 f) 0
def Nest.orig (n : Nest) (p : List Nat) : Orig :=
  let g (f : Nat) : Nat := (n.origin p f).toNat
  ⟨g 5, g 4, g 3, g 2, g 1, g 0⟩
/-- The least value of an origin over a tile's points. -/
def Nest.minOrigin (n : Nest) (sp : FMap Nat) (f : Nat) : Int :=
  n.levels.foldl (fun a l => a + (if n.kind l = 0 then min 0 (((n.trip l : Int) - 1) * n.lstep l f) else ((fget 0 sp l : Nat) : Int) * n.lstep l f)) 0
/-- R320, without the headers. -/
def Nest.formOk (n : Nest) : Bool :=
  1 ≤ n.nlev && n.nlev ≤ 6 && n.levels.all (fun l => n.trip l ≠ 0 && n.kind l ≠ 3) && (n.levels.filter fun l => n.kind l = 2).length ≤ 1 &&
    n.levels.all (fun l => l < n.rlev || n.kind l = 0) && n.bodyK ≠ 3 && (n.bodyK ≠ 2 || n.gsz ≠ 3) && n.rsvOk &&
    1 ≤ n.tm && n.tm ≤ 256 / n.nsub && 1 ≤ n.tn && n.tn ≤ 64 * n.nsub && 1 ≤ n.tk && n.tk ≤ 4096
/-- Steps keep K origins on chunks and B columns on windows. -/
def Nest.stepsOk (n : Nest) (ch : Nat) : Bool :=
  n.tk % ch = 0 && n.levels.all fun l =>
    n.lstep l 4 % (ch : Int) = 0 && n.lstep l 3 % (ch : Int) = 0 && n.lstep l 2 % ((64 * n.nsub : Nat) : Int) = 0 && (n.bodyK ≠ 1 || n.lstep l 5 = 0)
/-- A point starts or ends a sweep. -/
def Nest.sweepStart (n : Nest) (p : List Nat) : Bool := (p.drop n.rlev).all (· == 0)
def Nest.sweepEnd (n : Nest) (p : List Nat) : Bool := ((p.zip n.levels).drop n.rlev).all fun e => e.1 + 1 = n.trip e.2

/-- The checked inputs of an MGO. -/
structure Run where
  nest : Nest
  points : List (List Nat)
  kind : Kind
  ha : Hd
  hb : Hd
  out : Hd
  sl : List Nat
  bias : List Nat
  deriving DecidableEq, Repr
/-- Scratchpad ranges that a run touches. -/
def Run.touches (r : Run) : List (Nat × Nat) :=
  let n := r.nest
  r.points.flatMap fun p =>
    let o := n.orig p
    bodyReads r.kind r.ha r.hb n.tm n.tn n.tk o ++
      if n.den && n.sweepEnd p then drainWrites r.out n.drainF n.tn n.tm r.sl o else []
/-- The checks of an MGO, in R322's order. -/
def mgoChecks (n : Nest) (a : Acc) (gpos gang : Nat) : M Run := do
  let f := n.drainF
  let gath := n.bodyK = 1
  let scat := n.den && f.sct
  let bias := n.den && f.bias
  need cAlign ((!gath || n.ilist % 2 = 0) && (!scat || n.slist % 2 = 0))
  ptrOk (n.r 8)
  ptrOk (n.r 9)
  if bias then ptrOk (n.r 10)
  if n.den then ptrOk (n.r 11)
  if gath then listOk n.ilist n.tm
  if scat then listOk n.slist n.tm
  need cHdrfmt n.formOk
  let ha ← readHd a (n.r 8)
  let hb ← readHd a (n.r 9)
  let hc ← if bias then readHd a (n.r 10) else pure ⟨0⟩
  let ho ← if n.den then readHd a (n.r 11) else pure ⟨0⟩
  let g := gszOf n.gsz
  let lut := n.bodyK = 2
  need cHdrfmt (ha.ok && hb.ok && (if lut then hdALut ha && hdBLut hb g else hdA ha hb && hdB hb) &&
    (!n.den || (ho.ok && hdOut ho)) && (!bias || (hc.ok && hdC hc ho)))
  need cHdrfmt (n.stepsOk (if lut then 128 else chunkOf hb.elem))
  let sp := n.spatial gpos gang
  match sp with
  | some sp => need cHdrfmt ((range 0 6).all fun fld => 0 ≤ n.minOrigin sp fld)
  | none => pure ()
  let il ← if gath then readList a n.ilist n.tm else pure []
  let sl ← if scat then readList a n.slist n.tm else pure []
  need cHdrfmt (entriesOk il ha.rows && entriesOk sl ho.rows)
  need cSpbound (ha.inside && hb.bInside n.nsub n.planes &&
    (!lut || hb.scloc + (hb.cols - 1) * hb.scpitch + 8 * ceilDiv hb.rows g ≤ 0x180000) && (!n.den || ho.inside) && (!bias || hc.inside))
  let b ← if bias then readBias a hc else pure []
  let r : Run := ⟨n, (sp.map n.points).getD [], if gath then .mgath il else if lut then .mlut n.planes g else .mmul, ha, hb, ho, sl, b⟩
  lazyFill a fun _ => r.touches
  return r
/-- R318. -/
def runNest (a : Acc) (r : Run) : M Unit :=
  let n := r.nest
  r.points.forM fun p => do
    let o := n.orig p
    if n.zen && n.sweepStart p then onPlace a.place Place.zeroAcc
    body a r.kind r.ha r.hb n.nsub n.tm n.tn n.tk o
    if n.den && n.sweepEnd p then drain a r.out n.drainF n.nsub n.tn n.tm r.sl r.bias o
/-- An MGO that starts empties the pending copy; it becomes the active one when the checks pass (R317, R322). -/
def execMgo (h : Hdr) (s : State) : Out :=
  let gang := match s.stepAt s.cur with
    | some st => max st.gang 1
    | none => 1
  let r := s.command 1 h (fun a _ => do
    let p ← here
    mgoChecks ⟨p.mcPending⟩ a p.gpos gang) fun a r => do
      onPlace a.place fun p => { p with mcActive := p.mcPending }
      runNest a r
      return .now
  .next (if (r.ring s.cur 1).head = (s.ring s.cur 1).head then r else r.modPlace s.cur fun p => { p with mcPending := [], mcOcc := false })

end Sys2Proof.Machine
end

