-- ==== Sys2Proof/Machine/Regs.lean ====
section
/-! DEFINITION. Matrix configuration, time, promises and indexed registers (R256 to R259). -/
namespace Sys2Proof.Machine

def execMcfg (a idx : Nat) (s : State) : Out :=
  ctl .tile 0 [a] [] (do
    let v ← rg a
    onHere fun t => { t with mcShadow := fset 0 t.mcShadow idx v }
    next) s
/-- The fields of a matrix configuration register (R315, R316): its RSV bits, which MCFG writes for the check of R320, read
zero (R7, log 83). -/
def mcfgFields (idx : Nat) : Word :=
  if idx = 0 then 0xFFF else if idx = 1 then 0xFFFFFFFF else if idx = 2 then 0xFFFFFFFF000000FE
  else if idx = 3 then 0x3FFFFFFFFFF else if idx = 4 then 0xF else if idx < 0x10 then 0x1FFFFF
  else if idx < 0x18 then 0xC00000000000FFFF else 0xFFFFFFFFFFFFFFF
def execMcfgrd (d idx opt : Nat) (s : State) : Out :=
  ctl .tile 0 [d] [] (do
    let t ← here
    wg d (fget 0 (if opt = 0 then t.mcShadow else t.mcActive) idx &&& mcfgFields idx)
    next) s
def execMhset (a idx : Nat) (s : State) : Out :=
  ctl .tile 0 [a] [] (do
    let v ← rg a
    need cAlign (v.toNat % 32 = 0)
    need cSpbound (v.toNat < 0x17FFE1)
    onHere fun t => { t with mcShadow := fset 0 t.mcShadow (8 + idx) v }
    next) s

-- ## Time and promises (R257, R258)

def execTick (d : Nat) (s : State) : Out :=
  ctl .any 0 [d] [] (do
    let v ← loggedValue 1 0 (BitVec.ofNat 64 (← get).tick)
    wg d v
    next) s
def execSleepu (a : Nat) (s : State) : Out :=
  ctl .any 0 [a] [] (do
    waitFor ((← rg a).toNat ≤ (← get).tick)
    next) s

/-- Where the copy with sequence `n` stands. -/
inductive Copy where
  | undispatched
  | unstarted
  | started (f : InFlight)
  | completed
  deriving DecidableEq, Repr
def State.copyOf (s : State) (t n : Nat) : Copy :=
  let e := s.engq t 2
  let d := (e.next + 2 ^ 32 - n % 2 ^ 32) % 2 ^ 32
  if d = 0 || d > 2 ^ 31 then .undispatched
  else
    let unstarted := if e.cur.isSome then (s.ring t 2).filled - 1 else (s.ring t 2).filled
    if d ≤ unstarted then .unstarted
    else match e.cur with
      | some c => if c.seq = n % 2 ^ 32 then .started c else .completed
      | none => .completed
/-- The promised tick (R337). -/
def Copy.promise : Copy → Nat
  | .undispatched => 2 ^ 64 - 1
  | .unstarted => 2 ^ 64 - 2
  | .started f => f.promised
  | .completed => 0
def execPrmget (d a : Nat) (s : State) : Out :=
  ctl .tile 0 [d, a] [] (do
    let s ← get
    wg d (BitVec.ofNat 64 (s.copyOf s.cur (s.g a).toNat).promise)
    next) s
/-- PRMWAIT would raise PROMISE: the promised tick has passed, and it was not raised for this copy before. -/
def State.breaks (s : State) (t n : Nat) : Bool :=
  let c := s.copyOf t n
  c ≠ .undispatched && c ≠ .completed && decide (c.promise < s.tick) && !fget false (s.engq t 2).reported n
def execPrmwait (a : Nat) (s : State) : Out :=
  let n := (s.g a).toNat % 2 ^ 32
  if (s.preCheck .tile 0 [a] []).isNone && s.breaks s.cur n then
    ctl .tile 0 [a] [] (throw (.trap cPromise n)) (s.setEngq s.cur 2 { s.engq s.cur 2 with reported := fput n true (s.engq s.cur 2).reported })
  else
    ctl .tile 0 [a] [] (do
      waitFor (s.copyOf s.cur n = .undispatched || s.copyOf s.cur n = .completed)
      onHere fun t => t.acquires ccAgent (t.released 2)
      next) s

-- ## Indexed registers (R259)

/-- The register an index names, below the bound `b`. -/
def indexed (a imm b : Nat) : M Nat := do
  let x := ((← rg a) + imm32 imm)
  if x.toInt < 0 || (b : Int) ≤ x.toInt then throw (.trap cRegbound (x.toNat % 2 ^ 32))
  return x.toNat
def execMovxr (d a imm : Nat) (s : State) : Out :=
  ctl .any 0 [d, a] [] (do
    let x ← indexed a imm (← here).regbnd
    wg d (← rg x)
    next) s
def execMovxw (d a imm : Nat) (s : State) : Out :=
  ctl .any 0 [d, a] [] (do
    let x ← indexed a imm (← here).regbnd
    wg x (← rg d)
    next) s
def execFmovxr (d a imm : Nat) (s : State) : Out :=
  ctl .any 0 [a] [d] (do
    let x ← indexed a imm ((← here).regbnd / 2)
    wf d (← rf x)
    next) s
def execFmovxw (d a imm : Nat) (s : State) : Out :=
  ctl .any 0 [a] [d] (do
    let x ← indexed a imm ((← here).regbnd / 2)
    wf x (← rf d)
    next) s

end Sys2Proof.Machine
end

