-- ==== Sys2Proof/Machine/Stack.lean ====
section
/-! DEFINITION. The stack engine: attention, append, scores, copies and probes of KV objects by the Root units
(R95 to R103, R346 to R356). -/
namespace Sys2Proof.Machine

/-- An SE descriptor as its 512 bits (R347). -/
structure Sd where
  w : Nat
def Sd.handle (d : Sd) : Nat := bits d.w 511 480
def Sd.handle2 (d : Sd) : Nat := bits d.w 479 448
def Sd.p0 (d : Sd) : Nat := bits d.w 447 400
def Sd.n (d : Sd) : Nat := bits d.w 399 368
def Sd.qoff (d : Sd) : Nat := bits d.w 367 347
def Sd.ooff (d : Sd) : Nat := bits d.w 346 326
def Sd.cntoff (d : Sd) : Nat := bits d.w 325 305
def Sd.maxu (d : Sd) : Nat := bits d.w 304 289
def Sd.layer (d : Sd) : Nat := bits d.w 288 281
def Sd.kvhead (d : Sd) : Nat := bits d.w 280 274
def Sd.nq (d : Sd) : Nat := bits d.w 273 269
def Sd.memb (d : Sd) : Nat := bits d.w 268 260
def Sd.lim (d : Sd) : Nat := bits d.w 259 259
/-- Fields by their high bits, which a command uses; every other field and every reserved bit is zero. -/
def Sd.uses (d : Sd) (l : List Nat) : Bool :=
  let fields : List (Nat × Nat) := [(511, 480), (479, 448), (447, 400), (399, 368), (367, 347), (346, 326), (325, 305), (304, 289), (288, 281),
    (280, 274), (273, 269), (268, 260), (259, 259)]
  bits d.w 258 4 = 0 && fields.all fun (hi, lo) => l.contains hi || bits d.w hi lo = 0
def readSd (a : Acc) (h : Hdr) (doff capv : Nat) : M Sd := do return ⟨← readDesc a h doff capv 64 4⟩

-- ## Positions (R100, R102, R350)

/-- Where a position of a layer lies. -/
structure Loc where
  slot : Nat
  gen : Option Nat
  page : Nat
  gw : Nat
  deriving DecidableEq, Repr
def Kvd.locate (k : Kvd) (p layer : Nat) : Loc :=
  if p < k.sink then ⟨p, none, p / k.spp, 0⟩
  else
    let slot := (p - k.sink) % k.ring
    ⟨slot, some ((p - k.sink) / k.ring), k.sinkPages + slot / k.spp, k.gtab + 4 * (layer * k.ring + slot)⟩
/-- Byte of a record within its page. -/
def Kvd.recOff (k : Kvd) (l : Loc) : Nat := k.rb * (l.slot % k.spp)
/-- Positions that attention over `n` reads. -/
def Kvd.readRange (k : Kvd) (n : Nat) : List Nat :=
  range 0 (min k.sink n) ++ (let lo := max k.sink (n - k.ring); range lo (n - lo))
/-- Read units: first position, positions, page. A unit ends at a page's end and where the slots wrap. -/
structure RUnit where
  pos : Nat
  np : Nat
  page : Nat
  deriving DecidableEq, Repr
def Kvd.units (k : Kvd) (n : Nat) : List RUnit :=
  ((k.readRange n).foldl (fun (acc : List RUnit) p =>
    let l := k.locate p 0
    match acc with
    | u :: r => if u.page = l.page && u.pos + u.np = p && (l.gen.isNone || l.slot ≠ 0) then { u with np := u.np + 1 } :: r else ⟨p, 1, l.page⟩ :: acc
    | [] => [⟨p, 1, l.page⟩]) []).reverse

-- ## Memory as the Root units reach it (R129)

def rootRead (a : Acc) (va n : Nat) : M (List Byte) := readHome a false va n
/-- A write that a command's Root units make, in its order. -/
inductive RootOp where
  /-- bytes in the command's address space -/
  | put (va : Nat) (bs : List Byte)
  /-- NPOS of a descriptor of the table's address space -/
  | npos (va n : Nat)
  /-- NPOS no lower than it is -/
  | raise (va n : Nat)
  /-- stale records added to KVD.STALE with one atomic add (R102) -/
  | stale (va n : Nat)
  deriving DecidableEq, Repr
/-- The table's address space, in which descriptors are counted and advanced. -/
def kvtAcc (a : Acc) : M Acc := do return { a with asid := (← get).kvtAsid a.vf }
def rootWrite (a : Acc) : RootOp → M Unit
  | .put va bs => writeHome a va bs
  | .npos va n => do writeHome (← kvtAcc a) (va + 44) (bytesOf 6 n)
  | .raise va n => do
    let b ← kvtAcc a
    let old := numOf (← rootRead b (va + 44) 6)
    writeHome b (va + 44) (bytesOf 6 (max old n))
  | .stale va n => do
    let b ← kvtAcc a
    let old := numOf (← rootRead b (va + 32) 4)
    writeHome b (va + 32) (bytesOf 4 ((old + n) % 2 ^ 32))
/-- A list of writes as a command keeps it. -/
def RootOp.code : RootOp → List Nat
  | .put va bs => [0, va, bs.length, numOf bs]
  | .npos va n => [1, va, n, 0]
  | .raise va n => [2, va, n, 0]
  | .stale va n => [3, va, n, 0]
def rootOps : List Nat → List RootOp
  | k :: va :: n :: w :: r =>
    (if k = 0 then .put va (bytesOf n w) else if k = 1 then .npos va n else if k = 2 then .raise va n else .stale va n) :: rootOps r
  | _ => []
/-- Pieces of a write, none of which crosses a line. -/
def RootOp.parts : RootOp → List RootOp
  | .put va bs => (spanLines va bs.length).map fun (l, off, m) => .put (l + off) ((bs.drop (l + off - va)).take m)
  | o => [o]
/-- The writes in their order, each merged before the next begins (R129). -/
def rootWrites (a : Acc) (plan : List Nat) : M Unit :=
  pieces a ((rootOps plan).flatMap fun o => o.parts.map fun o => do
    waitFor (!(← get).holdsOf a.ctx 5 a.seq)
    rootWrite a o)
/-- Stale records of an object to be added. -/
def staleOp (k : Kvd) (n : Nat) : List RootOp := if n = 0 then [] else [.stale k.va n]
/-- Block-table entries of a list of pages of a layer, read once each. -/
def readBtes (a : Acc) (k : Kvd) (layer : Nat) (pages : List Nat) : M (FMap (Option Nat)) :=
  pages.foldlM (fun m p => do
    if (fget? m p).isSome then return m
    permOk a (k.bte layer p) 8 .r
    return fput p (pageOf (← readBte a (k.bte layer p))) m) []
/-- What the PGD says of the granules of a page: an event parks, else whether the page is split off (R348, R351). -/
def splitOff (a : Acc) (va : Nat) : M Bool := do
  let s ← get
  let gs := (range 0 8).filterMap fun i => (s.granAt a.asid (va + 8192 * i)).map fun e => (va + 8192 * i, e.2)
  match gs.find? fun e => e.2.st = 1 || e.2.st = 2 with
  | some e => throw (.park 1 e.1)
  | none => match gs.find? fun e => e.2.tier = 3 with
    | some e => throw (.park 4 e.1)
    | none => return gs.any fun e => e.2.sip || e.2.tier = 2
/-- What a command touches of positions whose pages are there: records and generation words. -/
def recordParts (k : Kvd) (layer : Nat) (ps : List Nat) (pages : FMap (Option Nat)) : List (Nat × Nat) :=
  ps.flatMap fun p =>
    let l := k.locate p layer
    match fget none pages l.page with
    | some va => (if l.gen.isSome then [(l.gw, 4)] else []) ++ [(va + k.recOff l, k.rb)]
    | none => []
/-- Permission for the records of positions, and no poisoned granule under those that are read (R105). -/
def recordsPerm (a : Acc) (k : Kvd) (layer : Nat) (ps : List Nat) (pages : FMap (Option Nat)) (nd : Need) : M Unit :=
  (recordParts k layer ps pages).forM fun (va, n) => permOk a va n nd
def recordsOk (a : Acc) (k : Kvd) (layer : Nat) (ps : List Nat) (pages : FMap (Option Nat)) : M Unit :=
  (recordParts k layer ps pages).forM fun (va, n) => poisonOk a va n
/-- A read of the object by a Root unit: a T3 granule is an event (R348). -/
def objectRead (a : Acc) (va n : Nat) : M (List Byte) := do
  t3Park a va n
  rootRead a va n
/-- A record of a position, or none where it is rejected as stale (R102, R103). -/
def readRecord (a : Acc) (k : Kvd) (layer p : Nat) (page : Option Nat) : M (Option Nat) := do
  match page with
  | none => return none
  | some va =>
    let l := k.locate p layer
    match l.gen with
    | none => return some (numOf (← objectRead a (va + k.recOff l) k.rb))
    | some gen =>
      let g1 := numOf (← objectRead a l.gw 4)
      let r := numOf (← objectRead a (va + k.recOff l) k.rb)
      let g2 := numOf (← objectRead a l.gw 4)
      return if g1 = gen && g2 = gen then some r else none
/-- The writes of a record under append() of R103, or the plain one of a sink position. -/
def recordOps (k : Kvd) (layer p va : Nat) (bs : List Byte) : List RootOp :=
  let l := k.locate p layer
  match l.gen with
  | none => [.put (va + k.recOff l) bs]
  | some gen => [.put l.gw (bytesOf 4 0xFFFFFFFF), .put (va + k.recOff l) bs, .put l.gw (bytesOf 4 gen)]

-- ## Scores (R349)

def Kvd.kscale (k : Kvd) : Nat := k.f 351 320
def Kvd.vscale (k : Kvd) : Nat := k.f 319 288
def Kvd.elemF (k : Kvd) : Fmt := if k.fmt = 0 then bf16 else if k.fmt = 1 then e4m3 else e5m2
/-- Element `i` of a record as FP32. -/
def Kvd.elemAt (k : Kvd) (r i : Nat) : Nat := rnd32 (k.elemF.dec (r / 2 ^ (k.elemF.w * i) % 2 ^ k.elemF.w))
/-- Key and value elements of a head. -/
def Kvd.keyOf (k : Kvd) (r head : Nat) : List Nat := (range (head * k.dim) k.dim).map (k.elemAt r)
def Kvd.valOf (k : Kvd) (r head : Nat) : List Nat := (range (k.heads * k.dim + head * k.dim) k.dim).map (k.elemAt r)
/-- The score x. -/
def score (k : Kvd) (q : List Nat) (r head : Nat) : Nat :=
  let p := (q.zip (k.keyOf r head)).map fun e => mul32 e.1 e.2
  let at' (i : Nat) : Nat := (nth? p i).getD 0
  let t := (range 0 64).map fun l =>
    (range 1 (k.dim / 64 - 1)).foldl (fun x b => add32f x (at' (64 * b + l))) (if l < k.dim then at' l else 0)
  mul32 (treeOf add32f t) (rcpf k.kscale)
def recordTriple (k : Kvd) (q : List Nat) (r head : Nat) : Triple :=
  let rv := rcpf k.vscale
  ⟨score k q r head, one32, (k.valOf r head).map fun v => mul32 v rv⟩
def emptyTriple (d : Nat) : Triple := ⟨inf32 true, 0, List.replicate d 0⟩

-- ## Commands

/-- A command of the SE whose MEMB names a member ends at once, `after` having been written, when the member has left or its
object meets an event; without a member the context parks (R348). Its checks come in the order of R326: `fields`, what `form`
reads of its objects, `bounds`, `perms`. `eff` reads, computes and writes the scratchpad, at one time, and answers the writes
of the Root units and whether the member has left; these writes follow. -/
def se {κ α} (h : Hdr) (doff : Nat) (fields : Sd → Bool) (form : Acc → Sd → M (Option κ)) (bounds : Sd → Option κ → M Unit)
    (perms : Acc → Sd → κ → M α) (after : Acc → Sd → M Unit) (eff : Acc → Sd → Memb → α → M (List RootOp × Bool)) (s : State) : Out :=
  match (s.engq s.cur 5).cur with
  | some f => .next (s.runCmd 5 h f rootWrites)
  | none =>
    let word := s.headWord s.cur 5
    let s' := s.command 5 h (fun a capv => do
      let d ← readSd a h doff capv
      need cHdrfmt (fields d)
      let (m, x) ← memberChecks a d.memb (form a d) (bounds d) (perms a d)
      return (capv, d, m, x)) fun a (capv, d, m, x) => do
        let (ops, gone) ← match x with
          | none => pure ([], true)
          | some x => whole (eff a d m x)
        if gone then after a d
        return .started ⟨a.seq, word, BitVec.ofNat 64 capv, 0, false, ops.flatMap RootOp.code, none⟩
    match (s'.engq s.cur 5).cur with
    | some f => .next (s'.runCmd 5 h f rootWrites)
    | none => .next s'
/-- An effect that reads all it needs of the object first: an event of the member's object ends it. -/
def forObject {β} (a : Acc) (m : Memb) (read : M β) (body : β → M (List RootOp)) : M (List RootOp × Bool) := do
  match ← forMember a m read with
  | some x => return (← body x, false)
  | none => return ([], true)
def execSnop (h : Hdr) (s : State) : Out := noop 5 h s

/-- Queries: NQ vectors of D values at QOFF. -/
def readQueries (a : Acc) (d : Sd) (dim : Nat) : M (List (List Nat)) :=
  (range 0 d.nq).mapM fun j => do return elements 4 (← cmdRd a (d.qoff + 4 * dim * j) (4 * dim))
/-- Positions that query `j` attends over. -/
def Sd.npos (d : Sd) (k : Kvd) (j : Nat) : Nat := if d.lim = 1 then k.npos - (d.nq - 1 - j) else k.npos
/-- SATTN's count words for a member that has left. -/
def goneCounts (a : Acc) (d : Sd) : M Unit := wrSp a d.cntoff (List.replicate (8 * d.nq) 0xFF)
/-- R351. -/
def execSattn (h : Hdr) (doff : Nat) (s : State) : Out :=
  se h doff (fun d => d.uses [511, 367, 346, 325, 304, 288, 280, 273, 268, 259] && 1 ≤ d.nq && d.nq ≤ 16 && d.maxu ≠ 0) (fun a d => do
    let kv ← readKvd a d.handle
    need cHdrfmt (kv.all fun k => d.layer < k.layers && d.kvhead < k.heads && (range 0 d.nq).all fun j => (k.units (d.npos k j)).length ≤ d.maxu)
    return kv) (fun d kv => do
    spOk d.cntoff (8 * d.nq)
    match kv with
    | some k =>
      spOk d.qoff (4 * k.dim * d.nq)
      (range 0 d.nq).forM fun j => spOk (d.ooff + j * d.maxu * (32 + 4 * k.dim)) ((k.units (d.npos k j)).length * (32 + 4 * k.dim))
    | none => pure ()
    need cAlign (d.qoff % 4 = 0 && d.ooff % 4 = 0 && d.cntoff % 8 = 0)) (fun a d k => do
    let units := (range 0 d.nq).flatMap fun j => k.units (d.npos k j)
    let pages ← readBtes a k d.layer (units.map (·.page))
    let split ← pages.mapM fun e => do
      match e.2 with
      | some va => return (e.1, ← splitOff a va)
      | none => return (e.1, false)
    let served := (units.filter fun u => !fget false split u.page).flatMap fun u => range u.pos u.np
    recordsPerm a k d.layer served pages .r
    recordsOk a k d.layer served pages
    return (k, pages, split)) goneCounts (fun a d m (k, pages, split) => do
    let qs ← readQueries a d k.dim
    -- of each query, its units with the records of those that the Root units serve
    forObject a m ((range 0 d.nq).mapM fun j => (k.units (d.npos k j)).mapM fun u => do
      if fget false split u.page then return (u, none)
      return (u, some (← (range u.pos u.np).mapM fun p => do return (p, ← readRecord a k d.layer p (fget none pages u.page))))) fun all => do
      (qs.zip (all.zip (range 0 d.nq))).forM fun (q, us, j) => do
        (us.zip (range 0 us.length)).forM fun ((u, recs), i) =>
          let t := (recs.getD []).foldl (fun t e => match e.2 with
            | some r => mergeTriple t (recordTriple k q r d.kvhead)
            | none => t) (emptyTriple k.dim)
          wrSp a (d.ooff + (j * d.maxu + i) * (32 + 4 * k.dim))
            (bytesOf 4 t.m ++ bytesOf 4 t.l ++ bytesOf 8 u.pos ++ bytesOf 4 u.np ++ bytesOf 4 (b2n recs.isNone) ++ bytesOf 8 0 ++ t.o.flatMap (bytesOf 4))
        wrSp a (d.cntoff + 8 * j) (bytesOf 4 us.length ++ bytesOf 4 (us.filter fun u => u.2.isNone).length)
      let stale := all.flatMap fun us => us.flatMap fun u => (u.2.getD []).filterMap fun e => if e.2.isNone then some e.1 else none
      return staleOp k (stale.foldl addTo []).length) s

/-- A stored element of a key or value (R353). -/
def Kvd.stored (k : Kvd) (x scale : Nat) : List Byte := bytesOf k.zbytes (k.elemF.round 0 true (dec32 (mul32 x scale)))
/-- R353. -/
def execSkvapp (h : Hdr) (doff : Nat) (s : State) : Out :=
  se h doff (fun d => d.uses [511, 399, 367, 288, 268] && 1 ≤ d.n && d.n ≤ 64) (fun a d => do
    let kv ← readKvd a d.handle
    need cHdrfmt (kv.all fun k => d.layer < k.layers)
    return kv) (fun d kv => do
    match kv with
    | some k => spOk d.qoff (8 * k.heads * k.dim * d.n)
    | none => pure ()
    need cAlign (d.qoff % 4 = 0)) (fun a d k => do
    need cPerm (k.npos + d.n ≤ k.sink + k.ring * (2 ^ 32 - 1))
    let ps := range k.npos d.n
    let pages ← readBtes a k d.layer (ps.map fun p => (k.locate p d.layer).page)
    need cPerm (pages.all fun e => e.2.isSome)
    recordsPerm a k d.layer ps pages .w
    return (k, pages)) (fun _ _ => pure ()) (fun a d _ (k, pages) => do
    let hd := k.heads * k.dim
    let ops ← (range 0 d.n).mapM fun i => do
      let p := k.npos + i
      let xs := elements 4 (← cmdRd a (d.qoff + 8 * hd * i) (8 * hd))
      let bs := ((xs.take hd).flatMap fun x => k.stored x k.kscale) ++ ((xs.drop hd).flatMap fun x => k.stored x k.vscale)
      return match fget none pages (k.locate p d.layer).page with
      | some va => recordOps k d.layer p va bs
      | none => []
    return (ops.flatten ++ (if d.layer + 1 = k.layers then [.npos k.va (k.npos + d.n)] else []), false)) s

/-- R354. -/
def execSscore (h : Hdr) (doff : Nat) (s : State) : Out :=
  se h doff (fun d => d.uses [511, 447, 399, 367, 346, 288, 280, 273, 268] && 1 ≤ d.nq && d.nq ≤ 16 && 1 ≤ d.n && d.n ≤ 16384) (fun a d => do
    let kv ← readKvd a d.handle
    need cHdrfmt (kv.all fun k => d.layer < k.layers && d.kvhead < k.heads)
    return kv) (fun d kv => do
    spOk d.ooff (4 * d.n * d.nq)
    match kv with
    | some k => spOk d.qoff (4 * k.dim * d.nq)
    | none => pure ()
    need cAlign (d.qoff % 4 = 0 && d.ooff % 4 = 0)) (fun a d k => do
    let ps := (range d.p0 d.n).filter (k.readRange k.npos).contains
    let pages ← readBtes a k d.layer (ps.map fun p => (k.locate p d.layer).page)
    recordsPerm a k d.layer ps pages .r
    recordsOk a k d.layer ps pages
    return (k, ps, pages)) (fun _ _ => pure ()) (fun a d m (k, ps, pages) => do
    let qs ← readQueries a d k.dim
    forObject a m (ps.mapM fun p => do return (p, ← readRecord a k d.layer p (fget none pages (k.locate p d.layer).page))) fun recs => do
      (qs.zip (range 0 d.nq)).forM fun (q, j) => (range 0 d.n).forM fun t => do
        let x := match recs.find? fun e => e.1 = d.p0 + t with
          | some (_, some r) => score k q r d.kvhead
          | _ => inf32 true
        wrSp a (d.ooff + 4 * (j * d.n + t)) (bytesOf 4 x)
      return staleOp k (recs.filter fun e => e.2.isNone).length) s

/-- The two objects agree (R355). -/
def Kvd.agrees (k l : Kvd) : Bool :=
  k.layers = l.layers && k.heads = l.heads && k.dim = l.dim && k.sink = l.sink && k.ring = l.ring && k.fmt = l.fmt && k.kscale = l.kscale &&
    k.vscale = l.vscale
/-- R355. -/
def execScpy (h : Hdr) (doff : Nat) (s : State) : Out :=
  se h doff (fun d => d.uses [511, 479, 447, 399, 268] && 1 ≤ d.n && d.n ≤ 65536) (fun a d => do
    let kv ← readKvd a d.handle
    let kv2 ← readKvd a d.handle2
    match kv, kv2 with
    | some k, some l => do
      need cHdrfmt (k.agrees l && d.p0 + d.n ≤ k.npos)
      return some (k, l)
    | _, _ => return none) (fun _ _ => pure ()) (fun a d (k, l) => do
    let ps := range d.p0 d.n
    let layers ← (range 0 k.layers).mapM fun y => do
      let names := ps.map fun p => (k.locate p y).page
      let src ← readBtes a k y names
      let dst ← readBtes a l y names
      need cPerm (dst.all fun e => e.2.isSome)
      recordsPerm a k y ps src .r
      recordsPerm a l y ps dst .w
      return (y, src, dst)
    layers.forM fun (y, src, _) => recordsOk a k y ps src
    return (k, l, layers)) (fun _ _ => pure ()) (fun a d m (k, l, layers) => do
    -- an event ends the copy at its record: the writes before it stand (R348)
    let all := layers.flatMap fun (y, src, dst) => (range d.p0 d.n).map fun p => (y, p, fget none src (k.locate p y).page, fget none dst (k.locate p y).page)
    let (ops, stale, gone) ← all.foldlM (fun (ops, n, gone) (y, p, sva, dva) => do
      if gone then return (ops, n, gone)
      let loc := k.locate p y
      match ← forMember a m (readRecord a k y p sva) with
      | none => return (ops, n, true)
      | some r => return match r, dva with
        | some r, some va => (ops ++ recordOps l y p va (bytesOf k.rb r), n, false)
        | none, _ => (ops ++ (if loc.gen.isSome then [RootOp.put (l.locate p y).gw (bytesOf 4 0xFFFFFFFF)] else []), n + 1, false)
        | _, none => (ops, n, false)) (([] : List RootOp), 0, false)
    return if gone then (ops, true) else (ops ++ [.raise l.va (d.p0 + d.n)] ++ staleOp k stale, false)) s

/-- A page's byte from its granules (R356). -/
def probeByte (gs : List Pgd) : Nat :=
  32 + 64 * b2n (gs.length = 8 && gs.all (·.pin)) + 16 * b2n (gs.any fun p => p.st = 3) + 8 * b2n (gs.any fun p => p.st = 1 || p.st = 2) +
    4 * b2n (gs.any (·.sip)) + gs.foldl (fun t p => max t p.tier) 0 % 4
/-- Reads of a command that neither parks nor traps on page state (R356): where another's would, it waits (log 88). -/
def patient {α} (m : M α) : M α := do
  let s ← get
  match m.run s with
  | .ok x s' =>
    set s'
    return x
  | .error (.trap c d) s' =>
    set (s.keepAsks s')
    throw (if c = cPoison then .stall else .trap c d)
  | .error _ s' =>
    set (s.keepAsks s')
    throw .stall
/-- R356. -/
def execSprobe (h : Hdr) (doff : Nat) (s : State) : Out :=
  .next (s.command 5 h (fun a capv => do
    let d ← readSd a h doff capv
    need cHdrfmt (d.uses [511, 447, 399, 346, 288, 268] && 1 ≤ d.n && d.n ≤ 65536)
    let kv ← patient (readKvd a d.handle)
    need cHdrfmt (kv.all fun k => d.layer < k.layers && d.p0 + d.n ≤ k.ppl)
    spOk d.ooff d.n
    need cAlign (d.ooff % 4 = 0)
    let k ← needKvd kv
    permOk a (k.bte d.layer d.p0) (8 * d.n) .r
    return (d, k)) fun a (d, k) => do
      let probed ← patient ((range 0 d.n).mapM fun t => do
        let page := pageOf (← readBte a (k.bte d.layer (d.p0 + t)))
        let s ← get
        return BitVec.ofNat 8 (match page with
          | some va => probeByte ((range 0 8).filterMap fun i => (s.granAt a.asid (va + 8192 * i)).map (·.2))
          | none => 0))
      wrSp a d.ooff probed
      return .now)

end Sys2Proof.Machine
end

