-- ==== Sys2Proof/Machine/Time.lean ====
section
/-! DEFINITION. What the passing of time brings by itself: evaluations of contexts, sweeps, windows of class time, and
settings that take effect within a bound (R58, R68, R91, R171). -/
namespace Sys2Proof.Machine

/-- Every context that is not Free. -/
def State.contexts (s : State) : List Nat := (range 0 4).flatMap s.liveContexts
/-- What happens at a tick that is a multiple of 2^16: every context is evaluated (R91); at one of 2^20 the windows of
class time restart (R171), and 2^18 later every sweep is over (R68). -/
def State.atBoundary (s : State) : State :=
  if s.tick % 2 ^ 16 ≠ 0 then s
  else
    let s := s.contexts.foldl State.evaluate s
    let s := if s.tick % 2 ^ 20 = 0 then (range 0 4).foldl State.restartWindow s else s
    if s.tick % 2 ^ 20 = 2 ^ 18 then (range 0 4).foldl State.rctSweep s else s
/-- Changes of SCRIMWAYS whose bound is near take effect (R58). -/
def State.dueWays (s : State) : State :=
  s.scrimDue.foldl (fun s e => if e.2 ≤ s.tick + 2 ^ 16 then s.changeWays e.1 else s) s
/-- Ticks until an armed STOPTICK (R418). -/
def State.stopTime (s : State) : Option Nat :=
  if bit (s.regN 0xA008) 0 && s.tick < s.regN 0xA000 then some (s.regN 0xA000 - s.tick) else none
/-- Ready contexts that have come to wait longer than their class's BOUND since the tick `was` are counted (R171, R420). -/
def State.countLate (s : State) (was : Nat) : State :=
  (s.contexts.filter fun c => s.ctxState c = 1).foldl (fun s c =>
    let due := s.ctxd c 1087 1024 + 1000 * s.regBits (dieReg (c / 16384 % 4) (0x1040 + 8 * s.ctxd c 56 55)) 63 48
    if was ≤ due && due < s.tick then s.event (c / 16384 % 4) 0x0C (s.ctxVf c) 1 else s) s
/-- Time passes: `n` gt, but no further than the next tick at which something happens: a multiple of 2^16, a sector's
write-back that comes due (R336), an armed STOPTICK (R418). -/
def State.elapse (s : State) (n : Nat) : State :=
  let s := s.stampDirty
  let m := [s.dirtyTime, s.stopTime].foldl (fun n e => min n (e.getD n)) (min n (2 ^ 16 - s.tick % 2 ^ 16))
  (range 0 4).foldl State.putTraces ((s.passTime m).countLate s.tick).atBoundary.dueWays.dueSectors

end Sys2Proof.Machine
end

