-- ==== Sys2Proof/Machine/TileEvents.lean ====
section
/-! DEFINITION. Events at one tile: stalls that end by time, the watchdog, boundaries at which a cause is taken,
abandoned copies, the zeroing of B-store rows, phases, causal pauses (R80, R150, R158, R252, R257, R258, R327, R357,
R364, R371, R413, R424). -/
namespace Sys2Proof.Machine

/-- The word that a core fetches at an address, as memory and caches hold it; it changes nothing. -/
def State.wordAt (s : State) (p : Nat) (pc : Nat) : Option Nat :=
  let t := s.place p
  if isSteward p && t.cc.priv ≥ 1 then some (s.memNum pc 8) else s.peek t.asid pc 8
/-- The instruction at which a core stalls. -/
def State.stalledAt (s : State) (p : Nat) : Option Instr :=
  if (s.place p).stallSince.isNone then none
  else match s.wordAt p (s.place p).core.pc.toNat with
    | some w => match decodeWord w with
      | .ok i => some i
      | .error _ => none
    | none => none
/-- Run a stalled instruction again, at its place. -/
def again (p : Nat) (run : State → Out) (s : State) : Out := run { s with cur := p }

/-- R257. -/
def execSleepuTickReached (tile : Nat) (s : State) : Out :=
  match s.stalledAt tile with
  | some (.sleepu a) => if ((s.place tile).core.getG a).toNat ≤ s.tick then again tile (execSleepu a) s else .next s
  | _ => .next s
/-- R252. -/
def execTbwaitTimeout (tile : Nat) (s : State) : Out :=
  match s.stalledAt tile, (s.place tile).tb with
  | some (.tbwait a b), some (_, d, false) => if d ≠ 0 && d ≤ s.tick then again tile (execTbwait a b) s else .next s
  | _, _ => .next s
/-- R258. -/
def execPromise (tile : Nat) (s : State) : Out :=
  match s.stalledAt tile with
  | some (.prmwait a) =>
    if s.breaks tile (((s.place tile).core.getG a).toNat % 2 ^ 32) then again tile (execPrmwait a) s else .next s
  | _ => .next s

/-- The budget of the context's step on a tile is used up (R371). -/
def State.expired (s : State) (t : Nat) : Bool :=
  let p := s.place t
  let b := s.ctxd p.ctx 1023 992
  p.step.isSome && p.hold != .escalated && b ≠ 0 && 1000 * b ≤ p.wdogGt
/-- The watchdog fires and starts its count again: outside a save it posts WATCHDOG, during a save it ends the save. -/
def State.watchdogFires (s : State) (t : Nat) : State :=
  if !s.expired t then s
  else
    let s' := s.modPlace t fun p => { p with wdogGt := 0 }
    if (s.place t).switch.isSome then s'.escalate t else s'.post t ⟨cWatchdog, s.ctxd (s.place t).ctx 1023 992, none⟩
def execWatchdog (tile : Nat) (s : State) : Out := event (fun s => s.watchdogFires tile) s

/-- The iteration of a tile is running. -/
def State.iterating (s : State) (t : Nat) : Bool :=
  match s.stepAt t with
  | some st => ((nth? st.positions (s.place t).gpos).map (·.busy)).getD false
  | none => false
/-- Take a pending asynchronous cause at the boundary where the CC of a tile stands: a stall is ended by WATCHDOG
only (R150, R364). -/
def State.boundary (s : State) (t : Nat) : Option State :=
  let p := s.place t
  if !s.iterating t || p.switch.isSome || p.amoWait.isSome || p.hold == .escalated || p.hold == .halted then none
  else if p.stallSince.isSome && !p.async.any (fun a => a.code == cWatchdog) then none
  else s.takeAsync t
/-- A frozen tile whose SC waits for its handler's address tries again; else a pending cause is taken. -/
def State.trapEntry (s : State) (t : Nat) : State :=
  if (s.place t).entering.isSome then s.enterHandler t else (s.boundary t).getD s
def execTrapEntry (tile : Nat) (s : State) : Out := event (fun s => s.trapEntry tile) s

/-- A copy, fill or B-store command of the XE. -/
def abandonable (word : Nat) : Bool :=
  match decodeWord word with
  | .ok (.xcpy _ _) | .ok (.xfill _ _) | .ok (.xbst _ _) | .ok (.xbtab _ _) => true
  | _ => false
/-- A started XE command that the trap freeze outlasts is unstarted again (R327). -/
def State.abandon (s : State) (t : Nat) : State :=
  match (s.engq t 2).cur with
  | some f =>
    if !((s.place t).enginesFrozen && abandonable f.word) then s
    -- what KILL left without its signal is not started again (R156)
    else if f.killed then s.freeSlot t 2 else s.restartCmd t 2 (hdrOf f.word) none
  | none => s
def execXeAbandon (tile : Nat) (s : State) : Out := event (fun s => s.abandon tile) s

/-- Rows `lo` to `hi - 1` that name a killed slot are zeroed. -/
def Place.zeroRows (p : Place) (slot lo hi : Nat) : Place :=
  let rows := (p.tags.filter fun e => lo ≤ e.1 && e.1 < hi && e.2.slot = slot).map (·.1)
  { p with
    tags := fclear p.tags rows.contains
    bst := fclear p.bst fun o => rows.contains (o / 1024)
    bstBad := fclear p.bstBad fun w => rows.contains (w / 64)
    tagBad := fclear p.tagBad rows.contains }
/-- The visit after a KEYKILL goes on by `n` rows (R80). -/
def Place.visitRows (p : Place) (slot n : Nat) : Place :=
  match fget? p.keys slot with
  | some k => match k.zeroing with
    | some r =>
      let e := min (r + n) 12288
      let p := p.zeroRows slot r e
      { p with keys := if e = 12288 then fdel slot p.keys else fput slot { k with zeroing := some e } p.keys }
    | none => p
  | none => p
def execKeySlotZeroing (tile slot rows : Nat) (s : State) : Out :=
  event (fun s => s.modPlace tile fun p => p.visitRows slot rows) s

/-- A tile receives the phase value of its neighbour at gang position `j` (R158). -/
def State.receivePhase (s : State) (t j k : Nat) : State :=
  match s.stepAt t with
  | some st =>
    if k < 4 && j < st.positions.length then
      let v := fget 0 (s.phasesOf st) (4 * j + k)
      s.modPlace t fun p => { p with nbPhase := fset 0 p.nbPhase (4 * j + k) v }
    else s
  | none => s
def execPhaseUpdate (tile nb k : Nat) (s : State) : Out := event (fun s => s.receivePhase tile nb k) s
/-- A tile that owes pauses for one gt (R424). -/
def execCausalPause (tile : Nat) (s : State) : Out := event (fun s => if s.owes tile then s.elapse 1 else s) s
/-- A parity error of a tile's register files, queues or landing buffer (R413). -/
def execParityError (tile : Nat) (s : State) : Out :=
  event (fun s => if isTile tile && (s.place tile).step.isSome then s.escalate tile else s) s

end Sys2Proof.Machine
end

