-- ==== Sys2Proof/Machine/Xfer.lean ====
section
/-! DEFINITION. Branches, jumps, calls, the jump table and exception frames (R238 to R242). -/
namespace Sys2Proof.Machine

/-- A branch: to the checked target when `c` holds, else on. -/
def branchIf (c : Bool) (n off : Nat) : M (Option Word) := do
  if c then goto (branchTarget (← rpc) n off) else next

def execB (a b cond off : Nat) (s : State) : Out :=
  ctl .any 0 [a, b] [] (do branchIf (condHolds cond (← rg a) (← rg b)) 37 off) s
def execBz (a cond off : Nat) (s : State) : Out :=
  ctl .any 0 [a] [] (do branchIf (condHolds cond (← rg a) 0) 37 off) s
def execJ (off : Nat) (s : State) : Out := ctl .any 0 [] [] (do goto (branchTarget (← rpc) 47 off)) s
/-- The checks of the target come before the link register is written (R238, R239). -/
def linkTo (d : Nat) (t : Word) : M (Option Word) := do
  checkTarget t
  wg d ((← rpc) + 8)
  return some t
def execJal (d off : Nat) (s : State) : Out := ctl .any 0 [d] [] (do linkTo d (branchTarget (← rpc) 47 off)) s
def execJalr (d a imm : Nat) (s : State) : Out := ctl .any 0 [d, a] [] (do linkTo d ((← rg a) + imm32 imm)) s
def execRet (a : Nat) (s : State) : Out := ctl .any 0 [a] [] (do goto (← rg a)) s

/-- A plain load of class 15 at tile scope (R240). -/
def plain15 : CM := ⟨0, 0, 15, 0, 2, 0, 0, 0, 0, 0, 0, 0⟩
/-- R240; `n` is the FN field. -/
def execJtab (a imm n : Nat) (s : State) : Out :=
  ctl .any 0 [a] [] (do
    let pc ← rpc
    let t := pc + imm32 imm
    let i := (← rg a).toNat
    let k := if i < n + 1 then i else n + 1
    need cAlign (t.toNat % 4 = 0)
    let ea := (t + BitVec.ofNat 64 (4 * k)).toNat
    formed plain15 ea 4 4
    let e ← loadBytes plain15 ea 4
    goto (pc + 8 * sext 32 (numOf e))) s

-- ## Exception frames (R241, R242)

/-- FV of `sys.exc`. -/
def excFv (w : Word) : Bool := bit w.toNat 32
def excOff (w : Word) : Nat := w.toNat % 2 ^ 21
/-- The fields of a frame: HANDLER, SP, PREV, DREG. -/
def frameBits (handler sp prev : Word) (dreg : Nat) : Nat :=
  handler.toNat + sp.toNat * 2 ^ 64 + prev.toNat * 2 ^ 128 + dreg * 2 ^ 192
def frameWord (f i : Nat) : Word := BitVec.ofNat 64 (f / 2 ^ (64 * i))
/-- The scratchpad accesses of a frame are of class 15 (R242). -/
def cm15 : CM := ⟨0, 0, 15, 1, 3, 0, 0, 0, 0, 0, 0, 0⟩
/-- The innermost frame: UNCAUGHT without one. -/
def readFrame : M Nat := do
  let t ← here
  need cUncaught (excFv t.exc)
  checkSp (← get).cur (excOff t.exc) 32
  orderRead 15
  return numOf (← ccRdSp (excOff t.exc) 32)

def execEcatch (d off : Nat) (s : State) : Out :=
  ctl .any 0 [d] [] (do
    let sp ← rg 2
    need cAlign (sp.toNat % 8 = 0)
    let s ← get
    need cSpbound (32 ≤ sp.toInt && sp.toInt ≤ spSize s.cur)
    let f := sp - 32
    storeBytes cm15 true f.toNat (full 32) (bytesOf 32 (frameBits ((← rpc) + 8 * sext 47 off) sp s.here.exc d))
    wg 2 f
    onHere fun t => { t with exc := BitVec.ofNat 64 (2 ^ 32 + f.toNat) }
    next) s
def execEdrop (s : State) : Out :=
  ctl .any 0 [] [] (do
    let f ← readFrame
    wg 2 (frameWord f 1)
    onHere fun t => { t with exc := excFields (frameWord f 2) }
    next) s
def execThrow (a : Nat) (s : State) : Out :=
  ctl .any 0 [a] [] (do
    let v ← rg a
    let f ← readFrame
    checkTarget (frameWord f 0)
    let dreg := bits f 197 192
    if dreg ≥ (← here).regbnd then throw (.trap cRegbound dreg)
    wg 2 (frameWord f 1)
    onHere fun t => { t with exc := excFields (frameWord f 2) }
    wg dreg v
    return some (frameWord f 0)) s

end Sys2Proof.Machine
end

