-- ==== Sys2Proof/Machine/Dispatch.lean ====
section
/-! DEFINITION. One arm per instruction and event: each is one call of its meaning. -/
namespace Sys2Proof.Machine

def exec (i : Instr) (s : State) : Host.Outcome State Fault Refusal :=
  match i with
  | .nop => Sys2Proof.Machine.execNop s
  | .add d a b => Sys2Proof.Machine.execAdd d a b s
  | .sub d a b => Sys2Proof.Machine.execSub d a b s
  | .and d a b => Sys2Proof.Machine.execAnd d a b s
  | .or d a b => Sys2Proof.Machine.execOr d a b s
  | .xor d a b => Sys2Proof.Machine.execXor d a b s
  | .andn d a b => Sys2Proof.Machine.execAndn d a b s
  | .sll d a b => Sys2Proof.Machine.execSll d a b s
  | .srl d a b => Sys2Proof.Machine.execSrl d a b s
  | .sra d a b => Sys2Proof.Machine.execSra d a b s
  | .mul d a b => Sys2Proof.Machine.execMul d a b s
  | .mulh d a b => Sys2Proof.Machine.execMulh d a b s
  | .mulhu d a b => Sys2Proof.Machine.execMulhu d a b s
  | .div d a b => Sys2Proof.Machine.execDiv d a b s
  | .divu d a b => Sys2Proof.Machine.execDivu d a b s
  | .rem d a b => Sys2Proof.Machine.execRem d a b s
  | .remu d a b => Sys2Proof.Machine.execRemu d a b s
  | .min d a b => Sys2Proof.Machine.execMin d a b s
  | .max d a b => Sys2Proof.Machine.execMax d a b s
  | .minu d a b => Sys2Proof.Machine.execMinu d a b s
  | .maxu d a b => Sys2Proof.Machine.execMaxu d a b s
  | .clz d a => Sys2Proof.Machine.execClz d a s
  | .ctz d a => Sys2Proof.Machine.execCtz d a s
  | .popc d a => Sys2Proof.Machine.execPopc d a s
  | .bswap d a => Sys2Proof.Machine.execBswap d a s
  | .seq d a b => Sys2Proof.Machine.execSeq d a b s
  | .slt d a b => Sys2Proof.Machine.execSlt d a b s
  | .sltu d a b => Sys2Proof.Machine.execSltu d a b s
  | .sel d a b c => Sys2Proof.Machine.execSel d a b c s
  | .bfx d a b => Sys2Proof.Machine.execBfx d a b s
  | .bfxu d a b => Sys2Proof.Machine.execBfxu d a b s
  | .bfi d a b c => Sys2Proof.Machine.execBfi d a b c s
  | .addi d a imm => Sys2Proof.Machine.execAddi d a imm s
  | .andi d a imm => Sys2Proof.Machine.execAndi d a imm s
  | .ori d a imm => Sys2Proof.Machine.execOri d a imm s
  | .xori d a imm => Sys2Proof.Machine.execXori d a imm s
  | .slli d a imm => Sys2Proof.Machine.execSlli d a imm s
  | .srli d a imm => Sys2Proof.Machine.execSrli d a imm s
  | .srai d a imm => Sys2Proof.Machine.execSrai d a imm s
  | .slti d a imm => Sys2Proof.Machine.execSlti d a imm s
  | .sltui d a imm => Sys2Proof.Machine.execSltui d a imm s
  | .seqi d a imm => Sys2Proof.Machine.execSeqi d a imm s
  | .movi d imm => Sys2Proof.Machine.execMovi d imm s
  | .movhi d a imm => Sys2Proof.Machine.execMovhi d a imm s
  | .lea d a imm sh => Sys2Proof.Machine.execLea d a imm sh s
  | .addpc d imm => Sys2Proof.Machine.execAddpc d imm s
  | .fadd d a b fn => Sys2Proof.Machine.execFadd d a b fn s
  | .fsub d a b fn => Sys2Proof.Machine.execFsub d a b fn s
  | .fmul d a b fn => Sys2Proof.Machine.execFmul d a b fn s
  | .fdiv d a b fn => Sys2Proof.Machine.execFdiv d a b fn s
  | .fsqrt d a fn => Sys2Proof.Machine.execFsqrt d a fn s
  | .ffma d a b c fn => Sys2Proof.Machine.execFfma d a b c fn s
  | .fmin d a b fn => Sys2Proof.Machine.execFmin d a b fn s
  | .fmax d a b fn => Sys2Proof.Machine.execFmax d a b fn s
  | .fcmp d a b fn => Sys2Proof.Machine.execFcmp d a b fn s
  | .fclass d a fn => Sys2Proof.Machine.execFclass d a fn s
  | .fcvt d a code fn => Sys2Proof.Machine.execFcvt d a code fn s
  | .fmvg d a fn => Sys2Proof.Machine.execFmvg d a fn s
  | .fmvf d a fn => Sys2Proof.Machine.execFmvf d a fn s
  | .fsgn d a b fn => Sys2Proof.Machine.execFsgn d a b fn s
  | .frnd d a fn => Sys2Proof.Machine.execFrnd d a fn s
  | .b a b cond off => Sys2Proof.Machine.execB a b cond off s
  | .bz a cond off => Sys2Proof.Machine.execBz a cond off s
  | .j off => Sys2Proof.Machine.execJ off s
  | .jal d off => Sys2Proof.Machine.execJal d off s
  | .jalr d a imm => Sys2Proof.Machine.execJalr d a imm s
  | .ret a => Sys2Proof.Machine.execRet a s
  | .jtab a imm n => Sys2Proof.Machine.execJtab a imm n s
  | .ecatch d off => Sys2Proof.Machine.execEcatch d off s
  | .edrop => Sys2Proof.Machine.execEdrop s
  | .throw a => Sys2Proof.Machine.execThrow a s
  | .ld d m => Sys2Proof.Machine.execLd d m s
  | .st d m => Sys2Proof.Machine.execSt d m s
  | .stn d m => Sys2Proof.Machine.execStn d m s
  | .ldp d m => Sys2Proof.Machine.execLdp d m s
  | .stp d m => Sys2Proof.Machine.execStp d m s
  | .pref m => Sys2Proof.Machine.execPref m s
  | .clean m => Sys2Proof.Machine.execClean m s
  | .czero m => Sys2Proof.Machine.execCzero m s
  | .cdrop m => Sys2Proof.Machine.execCdrop m s
  | .amo d aop m => Sys2Proof.Machine.execAmo d aop m s
  | .acas d m => Sys2Proof.Machine.execAcas d m s
  | .fence mask scope => Sys2Proof.Machine.execFence mask scope s
  | .semwait a c => Sys2Proof.Machine.execSemwait a c s
  | .semsig a c => Sys2Proof.Machine.execSemsig a c s
  | .semset a c => Sys2Proof.Machine.execSemset a c s
  | .semrd d idx => Sys2Proof.Machine.execSemrd d idx s
  | .semrsig a b c scp => Sys2Proof.Machine.execSemrsig a b c scp s
  | .rcfg a b idx => Sys2Proof.Machine.execRcfg a b idx s
  | .rclm d a c => Sys2Proof.Machine.execRclm d a c s
  | .rpub a c => Sys2Proof.Machine.execRpub a c s
  | .rwait d a c => Sys2Proof.Machine.execRwait d a c s
  | .rrel a c => Sys2Proof.Machine.execRrel a c s
  | .rstat d idx opt => Sys2Proof.Machine.execRstat d idx opt s
  | .tbset a b => Sys2Proof.Machine.execTbset a b s
  | .tbwait a b => Sys2Proof.Machine.execTbwait a b s
  | .barj idx => Sys2Proof.Machine.execBarj idx s
  | .bara idx => Sys2Proof.Machine.execBara idx s
  | .barw idx => Sys2Proof.Machine.execBarw idx s
  | .barx idx => Sys2Proof.Machine.execBarx idx s
  | .phase k => Sys2Proof.Machine.execPhase k s
  | .qseq d idx opt => Sys2Proof.Machine.execQseq d idx opt s
  | .qdrain mask => Sys2Proof.Machine.execQdrain mask s
  | .mcfg a idx => Sys2Proof.Machine.execMcfg a idx s
  | .mcfgrd d idx opt => Sys2Proof.Machine.execMcfgrd d idx opt s
  | .mhset a idx => Sys2Proof.Machine.execMhset a idx s
  | .tick d => Sys2Proof.Machine.execTick d s
  | .sleepu a => Sys2Proof.Machine.execSleepu a s
  | .prmget d a => Sys2Proof.Machine.execPrmget d a s
  | .prmwait a => Sys2Proof.Machine.execPrmwait a s
  | .movxr d a imm => Sys2Proof.Machine.execMovxr d a imm s
  | .movxw d a imm => Sys2Proof.Machine.execMovxw d a imm s
  | .fmovxr d a imm => Sys2Proof.Machine.execFmovxr d a imm s
  | .fmovxw d a imm => Sys2Proof.Machine.execFmovxw d a imm s
  | .ctxsw d a opt => Sys2Proof.Machine.execCtxsw d a opt s
  | .yield d => Sys2Proof.Machine.execYield d s
  | .node a b imm => Sys2Proof.Machine.execNode a b imm s
  | .park opt => Sys2Proof.Machine.execPark opt s
  | .wake a => Sys2Proof.Machine.execWake a s
  | .ctxrd d a w => Sys2Proof.Machine.execCtxrd d a w s
  | .ctxwr a b w => Sys2Proof.Machine.execCtxwr a b w s
  | .launch d a b => Sys2Proof.Machine.execLaunch d a b s
  | .iter d sel => Sys2Proof.Machine.execIter d sel s
  | .bucket d sel => Sys2Proof.Machine.execBucket d sel s
  | .exit => Sys2Proof.Machine.execExit s
  | .kill => Sys2Proof.Machine.execKill s
  | .trap a code => Sys2Proof.Machine.execTrap a code s
  | .syscall imm => Sys2Proof.Machine.execSyscall imm s
  | .eretResume => Sys2Proof.Machine.execEretResume s
  | .eretStep => Sys2Proof.Machine.execEretStep s
  | .eretQstep => Sys2Proof.Machine.execEretQstep s
  | .eretParkPromise => Sys2Proof.Machine.execEretParkPromise s
  | .eretParkExplicit => Sys2Proof.Machine.execEretParkExplicit s
  | .eretReady => Sys2Proof.Machine.execEretReady s
  | .eretKill => Sys2Proof.Machine.execEretKill s
  | .eretEscalate => Sys2Proof.Machine.execEretEscalate s
  | .sysrd d num => Sys2Proof.Machine.execSysrd d num s
  | .syswr a num => Sys2Proof.Machine.execSyswr a num s
  | .halt => Sys2Proof.Machine.execHalt s
  | .bkpt imm => Sys2Proof.Machine.execBkpt imm s
  | .idle => Sys2Proof.Machine.execIdle s
  | .shoot d a b opt => Sys2Proof.Machine.execShoot d a b opt s
  | .replset a deg pin => Sys2Proof.Machine.execReplset a deg pin s
  | .keyload d a b slot => Sys2Proof.Machine.execKeyload d a b slot s
  | .keykill a slot => Sys2Proof.Machine.execKeykill a slot s
  | .zerosp a b => Sys2Proof.Machine.execZerosp a b s
  | .mark k => Sys2Proof.Machine.execMark k s
  | .causal a b k delay => Sys2Proof.Machine.execCausal a b k delay s
  | .cntrd d a => Sys2Proof.Machine.execCntrd d a s
  | .qreset a opt => Sys2Proof.Machine.execQreset a opt s
  | .dispatch word => Sys2Proof.Machine.execDispatch word s
  | .vnop h => Sys2Proof.Machine.execVnop h s
  | .vadd h x => Sys2Proof.Machine.execVadd h x s
  | .vsub h x => Sys2Proof.Machine.execVsub h x s
  | .vmul h x => Sys2Proof.Machine.execVmul h x s
  | .vfma h x => Sys2Proof.Machine.execVfma h x s
  | .vfms h x => Sys2Proof.Machine.execVfms h x s
  | .vmin h x => Sys2Proof.Machine.execVmin h x s
  | .vmax h x => Sys2Proof.Machine.execVmax h x s
  | .vabs h x => Sys2Proof.Machine.execVabs h x s
  | .vneg h x => Sys2Proof.Machine.execVneg h x s
  | .vrcp h x => Sys2Proof.Machine.execVrcp h x s
  | .vrsq h x => Sys2Proof.Machine.execVrsq h x s
  | .vexp2 h x => Sys2Proof.Machine.execVexp2 h x s
  | .vlog2 h x => Sys2Proof.Machine.execVlog2 h x s
  | .vtanh h x => Sys2Proof.Machine.execVtanh h x s
  | .vcvt h x => Sys2Proof.Machine.execVcvt h x s
  | .vand h x => Sys2Proof.Machine.execVand h x s
  | .vor h x => Sys2Proof.Machine.execVor h x s
  | .vxor h x => Sys2Proof.Machine.execVxor h x s
  | .vshl h x => Sys2Proof.Machine.execVshl h x s
  | .vshr h x => Sys2Proof.Machine.execVshr h x s
  | .vcmp h x => Sys2Proof.Machine.execVcmp h x s
  | .vsel h x => Sys2Proof.Machine.execVsel h x s
  | .vred h x => Sys2Proof.Machine.execVred h x s
  | .vscan h x => Sys2Proof.Machine.execVscan h x s
  | .vperm h x => Sys2Proof.Machine.execVperm h x s
  | .vbcast h x => Sys2Proof.Machine.execVbcast h x s
  | .viota h x => Sys2Proof.Machine.execViota h x s
  | .vpack h x => Sys2Proof.Machine.execVpack h x s
  | .vunpk h x => Sys2Proof.Machine.execVunpk h x s
  | .vqnt h x => Sys2Proof.Machine.execVqnt h x s
  | .vdqnt h x => Sys2Proof.Machine.execVdqnt h x s
  | .vld h x => Sys2Proof.Machine.execVld h x s
  | .vst h x => Sys2Proof.Machine.execVst h x s
  | .vldx h x => Sys2Proof.Machine.execVldx h x s
  | .vstx h x => Sys2Proof.Machine.execVstx h x s
  | .vmovc h vd lane pair => Sys2Proof.Machine.execVmovc h vd lane pair s
  | .vmsk h md ma mb mop => Sys2Proof.Machine.execVmsk h md ma mb mop s
  | .vtbld h sel typ vd va => Sys2Proof.Machine.execVtbld h sel typ vd va s
  | .vsmx h dlog vd va vb => Sys2Proof.Machine.execVsmx h dlog vd va vb s
  | .veLanding tile => Sys2Proof.Machine.execVeLanding tile s
  | .mnop h => Sys2Proof.Machine.execMnop h s
  | .mgo h => Sys2Proof.Machine.execMgo h s
  | .mmul h nsub z => Sys2Proof.Machine.execMmul h nsub z s
  | .mgath h nsub z nrow => Sys2Proof.Machine.execMgath h nsub z nrow s
  | .mlut h nsub z kb gsz => Sys2Proof.Machine.execMlut h nsub z kb gsz s
  | .mzero h => Sys2Proof.Machine.execMzero h s
  | .mdrain h x => Sys2Proof.Machine.execMdrain h x s
  | .xnop h => Sys2Proof.Machine.execXnop h s
  | .xcpy h doff => Sys2Proof.Machine.execXcpy h doff s
  | .xbtab h doff => Sys2Proof.Machine.execXbtab h doff s
  | .xsgl h doff => Sys2Proof.Machine.execXsgl h doff s
  | .xfill h doff => Sys2Proof.Machine.execXfill h doff s
  | .xbst h doff => Sys2Proof.Machine.execXbst h doff s
  | .xmap h doff => Sys2Proof.Machine.execXmap h doff s
  | .xmapUnmap h doff => Sys2Proof.Machine.execXmapUnmap h doff s
  | .xmapLazyWriteBack tile sector => Sys2Proof.Machine.execXmapLazyWriteBack tile sector s
  | .gnop h => Sys2Proof.Machine.execGnop h s
  | .ggath h doff => Sys2Proof.Machine.execGgath h doff s
  | .gscat h doff => Sys2Proof.Machine.execGscat h doff s
  | .gscadd h doff => Sys2Proof.Machine.execGscadd h doff s
  | .gcmpct h doff => Sys2Proof.Machine.execGcmpct h doff s
  | .glive h doff => Sys2Proof.Machine.execGlive h doff s
  | .lnop h => Sys2Proof.Machine.execLnop h s
  | .lput h doff => Sys2Proof.Machine.execLput h doff s
  | .lget h doff => Sys2Proof.Machine.execLget h doff s
  | .lenq h doff => Sys2Proof.Machine.execLenq h doff s
  | .lsig h doff => Sys2Proof.Machine.execLsig h doff s
  | .lred h doff => Sys2Proof.Machine.execLred h doff s
  | .snop h => Sys2Proof.Machine.execSnop h s
  | .sattn h doff => Sys2Proof.Machine.execSattn h doff s
  | .skvapp h doff => Sys2Proof.Machine.execSkvapp h doff s
  | .sscore h doff => Sys2Proof.Machine.execSscore h doff s
  | .scpy h doff => Sys2Proof.Machine.execScpy h doff s
  | .sprobe h doff => Sys2Proof.Machine.execSprobe h doff s
  | .map mtu => Sys2Proof.Machine.execMap mtu s
  | .unmap mtu => Sys2Proof.Machine.execUnmap mtu s
  | .destroy mtu => Sys2Proof.Machine.execDestroy mtu s
  | .protect mtu => Sys2Proof.Machine.execProtect mtu s
  | .pmcFill tile va => Sys2Proof.Machine.execPmcFill tile va s
  | .walk mtu asid va => Sys2Proof.Machine.execWalk mtu asid va s
  | .mtuFill k => Sys2Proof.Machine.execMtuFill k s
  | .mtuWriteBack k => Sys2Proof.Machine.execMtuWriteBack k s
  | .performHeldWrites k => Sys2Proof.Machine.execPerformHeldWrites k s
  | .deferredFaultRecord vf => Sys2Proof.Machine.execDeferredFaultRecord vf s
  | .homeRead tile k => Sys2Proof.Machine.execHomeRead tile k s
  | .homeOwnership tile k => Sys2Proof.Machine.execHomeOwnership tile k s
  | .skim die k => Sys2Proof.Machine.execSkim die k s
  | .skimAcknowledgement die k => Sys2Proof.Machine.execSkimAcknowledgement die k s
  | .skimsDone k => Sys2Proof.Machine.execSkimsDone k s
  | .dropNotice die k => Sys2Proof.Machine.execDropNotice die k s
  | .ownerWriteBack k => Sys2Proof.Machine.execOwnerWriteBack k s
  | .ownershipGrant tile k => Sys2Proof.Machine.execOwnershipGrant tile k s
  | .rctSweep die => Sys2Proof.Machine.execRctSweep die s
  | .scrimwaysChange die => Sys2Proof.Machine.execScrimwaysChange die s
  | .snpData pa => Sys2Proof.Machine.execSnpData pa s
  | .snpInv pa => Sys2Proof.Machine.execSnpInv pa s
  | .snpCur pa => Sys2Proof.Machine.execSnpCur pa s
  | .memRdSnpData pa => Sys2Proof.Machine.execMemRdSnpData pa s
  | .memRdSnpInv pa => Sys2Proof.Machine.execMemRdSnpInv pa s
  | .memWr pa d => Sys2Proof.Machine.execMemWr pa d s
  | .inboundWrite pa data => Sys2Proof.Machine.execInboundWrite pa data s
  | .dmaDescriptor writes done => Sys2Proof.Machine.execDmaDescriptor writes done s
  | .rseEvaluate ctx => Sys2Proof.Machine.execRseEvaluate ctx s
  | .move die => Sys2Proof.Machine.execMove die s
  | .deadlineMiss die => Sys2Proof.Machine.execDeadlineMiss die s
  | .poisonGranule pa => Sys2Proof.Machine.execPoisonGranule pa s
  | .refetchCleanCopy die k => Sys2Proof.Machine.execRefetchCleanCopy die k s
  | .promote die => Sys2Proof.Machine.execPromote die s
  | .demote die => Sys2Proof.Machine.execDemote die s
  | .pin die => Sys2Proof.Machine.execPin die s
  | .unpin die => Sys2Proof.Machine.execUnpin die s
  | .refetch die => Sys2Proof.Machine.execRefetch die s
  | .residencyEvent die => Sys2Proof.Machine.execResidencyEvent die s
  | .lqprod f die q n => Sys2Proof.Machine.execLqprod f die q n s
  | .launchPacket die q => Sys2Proof.Machine.execLaunchPacket die q s
  | .ffence die q => Sys2Proof.Machine.execFfence die q s
  | .skip die q => Sys2Proof.Machine.execSkip die q s
  | .prologue die q => Sys2Proof.Machine.execPrologue die q s
  | .prologueTimeout die => Sys2Proof.Machine.execPrologueTimeout die s
  | .formBatch die group cls => Sys2Proof.Machine.execFormBatch die group cls s
  | .pick die => Sys2Proof.Machine.execPick die s
  | .windowRestart die => Sys2Proof.Machine.execWindowRestart die s
  | .stepStart step => Sys2Proof.Machine.execStepStart step s
  | .kernelLoad tile => Sys2Proof.Machine.execKernelLoad tile s
  | .handOff die => Sys2Proof.Machine.execHandOff die s
  | .completionRecord step => Sys2Proof.Machine.execCompletionRecord step s
  | .timeSliceEnd die => Sys2Proof.Machine.execTimeSliceEnd die s
  | .start die => Sys2Proof.Machine.execStart die s
  | .preempt die => Sys2Proof.Machine.execPreempt die s
  | .drop die => Sys2Proof.Machine.execDrop die s
  | .schedulingEvent die => Sys2Proof.Machine.execSchedulingEvent die s
  | .phaseUpdate tile nb k => Sys2Proof.Machine.execPhaseUpdate tile nb k s
  | .tbwaitTimeout tile => Sys2Proof.Machine.execTbwaitTimeout tile s
  | .promise tile => Sys2Proof.Machine.execPromise tile s
  | .watchdog tile => Sys2Proof.Machine.execWatchdog tile s
  | .trapEntry tile => Sys2Proof.Machine.execTrapEntry tile s
  | .xeAbandon tile => Sys2Proof.Machine.execXeAbandon tile s
  | .peerTransferArrival m => Sys2Proof.Machine.execPeerTransferArrival m s
  | .signalArrival m => Sys2Proof.Machine.execSignalArrival m s
  | .lenqArrival m => Sys2Proof.Machine.execLenqArrival m s
  | .keySlotZeroing tile slot rows => Sys2Proof.Machine.execKeySlotZeroing tile slot rows s
  | .qcommit value who => Sys2Proof.Machine.execQcommit value who s
  | .vfen hi value who => Sys2Proof.Machine.execVfen hi value who s
  | .status => Sys2Proof.Machine.execStatus s
  | .recover => Sys2Proof.Machine.execRecover s
  | .reset => Sys2Proof.Machine.execReset s
  | .create die handle => Sys2Proof.Machine.execCreate die handle s
  | .free die handle => Sys2Proof.Machine.execFree die handle s
  | .swapout die handle => Sys2Proof.Machine.execSwapout die handle s
  | .swapin die handle => Sys2Proof.Machine.execSwapin die handle s
  | .retrysave die handle => Sys2Proof.Machine.execRetrysave die handle s
  | .restart place pc => Sys2Proof.Machine.execRestart place pc s
  | .coreWake place => Sys2Proof.Machine.execCoreWake place s
  | .dieGating value retain => Sys2Proof.Machine.execDieGating value retain s
  | .tickadj v => Sys2Proof.Machine.execTickadj v s
  | .stop => Sys2Proof.Machine.execStop s
  | .rctQuery die => Sys2Proof.Machine.execRctQuery die s
  | .pgdQuery die => Sys2Proof.Machine.execPgdQuery die s
  | .rhtQuery die => Sys2Proof.Machine.execRhtQuery die s
  | .horizon f k => Sys2Proof.Machine.execHorizon f k s
  | .replayInput f k => Sys2Proof.Machine.execReplayInput f k s
  | .causalPause tile => Sys2Proof.Machine.execCausalPause tile s
  | .functionLevelReset f => Sys2Proof.Machine.execFunctionLevelReset f s
  | .powerGood => Sys2Proof.Machine.execPowerGood s
  | .dieOnline die passed => Sys2Proof.Machine.execDieOnline die passed s
  | .thermalThrottle island => Sys2Proof.Machine.execThermalThrottle island s
  | .linkRetry link => Sys2Proof.Machine.execLinkRetry link s
  | .parityError tile => Sys2Proof.Machine.execParityError tile s
  | .registerWrite off size value who => Sys2Proof.Machine.execRegisterWrite off size value who s
  | .sleepuTickReached tile => Sys2Proof.Machine.execSleepuTickReached tile s
  | .hostAnswer k a => Sys2Proof.Machine.execHostAnswer k a s
  | .srIovVfEnable on => Sys2Proof.Machine.execSrIovVfEnable on s
  | .conventionalReset => Sys2Proof.Machine.execConventionalReset s
  | .pluginBudgetExpiry core => Sys2Proof.Machine.execPluginBudgetExpiry core s
  | .deadlineLeadReached die => Sys2Proof.Machine.execDeadlineLeadReached die s
  | .frameZeroingEnd pa => Sys2Proof.Machine.execFrameZeroingEnd pa s
  | .storeLogWriteDone tile => Sys2Proof.Machine.execStoreLogWriteDone tile s

end Sys2Proof.Machine
end

