-- ==== Sys2Proof/Machine/Parked.lean ====
section
/-! DEFINITION. The condition under which a parked context becomes Ready again, which the CXS watches (R149, R151). -/
namespace Sys2Proof.Machine

/-- PAGE_ABSENT: the page at an address is no longer migrating or absent. -/
def State.pageThere (s : State) (asid va : Nat) : Bool :=
  match s.walkPage asid va with
  | .leaf e _ => ptePst e ≠ 1 && ptePst e ≠ 2
  | _ => true
/-- POISON_REFETCH: the refetch has ended, or there is no clean copy any more. -/
def State.refetched (s : State) (asid va : Nat) : Bool :=
  match s.granAt asid va with
  | some (a, p) => !(p.st = 3 && p.clean) && !s.rses.any fun e => match e.2.window with
    | some w => w.refetch && w.gran = granCode a va
    | none => false
  | none => true
/-- The step of a parked context. -/
def State.stepWith (s : State) (c : Nat) : Option Step := s.steps.find? fun st => st.started && st.current.contains c
/-- The context for which the tiles of a parked context's step acted: the lead of a batched step. -/
def State.actedFor (s : State) (c : Nat) : Nat := ((s.stepWith c).map (·.chief)).getD c
/-- LATE_FENCE: of a read, its line has no held write; of a release, none of the held lines that it covers is left; of a
fence, no sector that it covers is held; else stores of the function have room. A member that an event of its own parked
waits for what it met itself; the others wait for what their lead met. -/
def State.fenceClear (s : State) (c : Nat) : Bool :=
  let w := if (fget? s.lateLine c).isSome then c else s.actedFor c
  match fget? s.lateLine w, fget? s.lateHeld w, fget? s.fenceMask w with
  | some k, _, _ => !s.held.any fun h => lineCode h.key == k
  | none, some hs, _ => !s.held.any fun h => hs.contains h.code
  | none, none, some m => !s.held.any fun h => h.prov.any fun e => e.2.ctx == w && (e.2.mask &&& m) ≠ 0
  | none, none, none => !s.holdWait.contains (s.ctxVf c)
/-- BARRIER: the generation that the context awaited at a barrier, at the position that was switched out in BARW, is
complete. -/
def State.barrierDone (s : State) (c n : Nat) : Bool :=
  let j := fget 0 s.parkPos c
  match (s.stepWith c).bind fun st => (nth? st.positions j).map fun p => (st, p) with
  | none => true
  | some (st, p) =>
    let b := s.bar (if n < 64 then 64 * p.die + n else 256 + n)
    match if b.step = st.id then fget? b.last j else none with
    | some g => g < b.gen
    | none => true
/-- PROMISE: the copy with a sequence had completed when the context was saved, as the cut vector of the position that parked
says (R359); the image is that of the step's lead. -/
def State.copyDone (s : State) (c n : Nat) : Bool :=
  let w := s.actedFor c
  match s.peek (s.ctxAsid w) (s.ctxd w 375 320 + fullSize * fget 0 s.parkPos c + 0x58) 8 with
  | some w =>
    let d := (bits w 31 0 + 2 ^ 32 - n % 2 ^ 32) % 2 ^ 32
    d ≠ 0 && d ≤ 2 ^ 31
  | none => false
/-- The condition of a parked context has cleared; EXPLICIT waits for WAKE. -/
def State.cleared (s : State) (c : Nat) : Bool :=
  let info := s.ctxd c 1151 1088
  let r := s.ctxReason c
  if r = 1 then s.pageThere (s.ctxAsid c) info
  else if r = 2 then s.fenceClear c
  else if r = 3 then s.refetched (s.ctxAsid c) info
  else if r = 4 then s.objectInT1 c info
  else if r = 6 then s.barrierDone c info
  else if r = 7 then s.copyDone c info
  else false
/-- Every context whose condition has cleared leaves its park. -/
def State.recheck (s : State) : State :=
  s.waiters.foldl (fun s c => if s.cleared c then s.unparkCtx c else s) s

end Sys2Proof.Machine
end

