-- ==== Sys2Proof/Machine/Fetch.lean ====
section
/-! DEFINITION. What an agent does when it has its turn: a core fetches, decodes and executes a word or takes a pending
cause, an engine serves its queue (R138, R139, R150, R178, R198, R275, R357, R358, R364 to R366, R373, R417, R426). -/
namespace Sys2Proof.Machine

-- ## Fetching (R178, R426)

/-- The word at the pc: a fetch needs X. It binds when the word executes (log 7). -/
def fetchWord : M Nat := do
  let s ← get
  let pc := s.pc.toNat
  need cAlign (pc % 8 = 0)
  if !s.physical then checkVa pc
  return numOf (← (← wayTo pc 8 .x).read 8)

-- ## Breakpoints (R417)

/-- BPADDR and BPCTL of breakpoint `n` of a tile. -/
def bpReg (t n : Nat) : Nat := tileReg t (0x400 + 16 * n)
/-- Store sequences that an instruction takes: those from the context's next one up to its next one after it. -/
def State.takesSeq (s : State) (i : Instr) (q : Nat) : Bool :=
  let c := s.here.ctx
  match exec i s with
  | .next s' => (q + 2 ^ 32 - fget 0 s.storeSeq c) % 2 ^ 32 < (fget 0 s'.storeSeq c + 2 ^ 32 - fget 0 s.storeSeq c) % 2 ^ 32
  | _ => false
/-- A breakpoint matches the instruction that is about to issue. -/
def State.bpMatches (s : State) (n : Nat) (i : Instr) : Bool :=
  let p := s.here
  let ctl := s.regN (bpReg s.cur n + 8)
  let a := s.regN (bpReg s.cur n)
  bit ctl 0 && bits ctl 3 2 ≠ 3 && (!bit ctl 47 || bits ctl 63 48 = p.ctx) && (!bit ctl 30 || bits ctl 46 31 = p.asid) &&
    (if bit ctl 1 then s.takesSeq i (a % 2 ^ 32) else bits a 55 3 = p.cc.pc.toNat / 8)
/-- What the matches do: each is traced, ACT 2 arms the stop; the first BREAK. -/
def State.breakpoints (s : State) (i : Instr) : State × Option Nat :=
  let hits := (range 0 4).filter fun n => s.bpMatches n i
  let act (n : Nat) : Nat := bits (s.regN (bpReg s.cur n + 8)) 3 2
  let s' := hits.foldl (fun s n =>
    let s := s.traceTile s.cur 0x07 s.here.cc.pc.toNat n (s.regN (bpReg s.cur n) % 2 ^ 32)
    if act n = 2 then (s.setReg 0xA000 (BitVec.ofNat 64 (s.tick + 4))).setRegBits 0xA008 0 0 1 else s) s
  (if hits.isEmpty then s' else s'.modHere fun p => { p with bpSkip := true }, hits.find? fun n => act n = 1)

-- ## Executing

/-- The action of an ERET on a tile (R366). -/
def eretAct (epc : Nat) : Instr :=
  match epc % 8 with
  | 0 => .eretResume
  | 1 => .eretStep
  | 2 => .eretQstep
  | 3 => .eretParkPromise
  | 4 => .eretParkExplicit
  | 5 => .eretReady
  | 6 => .eretKill
  | _ => .eretEscalate
/-- The instruction that a legal word stands for on the acting core: an engine word is dispatched (R138). -/
def State.issues (s : State) (w : Nat) (i : Instr) : Instr :=
  if wordClass w ≠ 0 then .dispatch w
  else match i with
    | .eretResume => if isTile s.cur then eretAct s.here.epc.toNat else .eretResume
    | i => i
/-- A victim that stalls in BARW leaves there (R151, R173). -/
def State.leavesAtBarrier (s : State) (i : Instr) : Option Nat :=
  match i with
  | .barw n => if s.onCc && s.here.victim && s.here.stallSince.isSome then some n else none
  | _ => none
/-- Issue a decoded word. -/
def State.issue (s : State) (w : Nat) (i : Instr) : Out :=
  let i := s.issues w i
  match s.leavesAtBarrier i with
  | some n => .next (s.parkTile s.cur 6 n s.pc)
  | none =>
    if s.onCc && !s.here.bpSkip then
      match s.breakpoints i with
      | (s, some n) => .next (s.raise cBreak (0x10000 + n))
      | (s, none) => exec i s
    else exec i s
/-- Decode a fetched word; one that no rule makes legal raises ILLEGAL (R198). -/
def State.decoded (s : State) (w : Nat) : Out :=
  match decodeWord w with
  | .ok i => s.issue w i
  | .error _ => .next (s.raise cIllegal 0)
/-- The acting core fetches and executes one word. -/
def State.runWord (s : State) : Out :=
  match fetchWord.run s with
  | .ok w s => s.decoded w
  | .error e s' => .next (s.endWith s' e)

-- ## The turn of a core

/-- The end of an engine step: every named queue has had it, and nothing is under way; STEP is taken (R373). -/
def State.endQstep (s : State) (t todo done : Nat) : State :=
  let p := s.place t
  if todo = 0 && s.enginesRest t && p.landing.isEmpty then
    (s.modPlace t fun p => { p with qstep := none }).takeTrap t cStep done none (eretPc p.epc)
  else s
/-- An IDLE ends when a cause is pending (R270). -/
def State.endIdle (s : State) (t : Nat) : State :=
  if (s.place t).hold == .idle && !(s.place t).async.isEmpty then s.modPlace t fun p => { p with hold := .running } else s
/-- The SC of a frozen tile. -/
def State.scTurn (s : State) (t : Nat) : Out :=
  let p := s.place t
  if p.entering.isSome then .next (s.enterHandler t)
  else match p.qstep with
    | some (todo, done) => .next (s.endQstep t todo done)
    | none => if p.hold == .idle then .next s else s.runWord
/-- The CC of a tile whose iteration runs. -/
def State.ccTurn (s : State) (t : Nat) : Out :=
  match s.boundary t with
  | some s => .next s
  | none => if (s.place t).hold == .idle then .next s else s.runWord
/-- An atomic that awaits the skims of its grant returns its result when they are done (R56); a switch that began
meanwhile saves the context behind it. -/
def State.amoTurn (s : State) (k : LineKey) (d : Nat) (v : Word) : State :=
  if (s.l1 s.cur k).mark then s
  else
    let s := (s.setG d v).modHere fun p => { p with amoWait := none }
    match s.here.switch with
    | some w => ((s.retired s.pc).setPc (s.pc + 8)).modHere fun p => { p with switch := some { w with resume := s.pc + 8 } }
    | none => s.retire (s.pc + 8)
/-- A core's turn. -/
def State.coreTurn (s : State) (t : Nat) : Out :=
  let s := ({ s with cur := t }).endIdle t
  let p := s.place t
  if p.hold == .halted || p.hold == .escalated then .next s
  else if isTile t then
    match p.amoWait with
    | some (k, d, v) => .next (s.amoTurn k d v)
    | none =>
    if p.switch.isSome then .next (s.finishSwitch t)
    else if p.step.isNone then .next s
    else if s.inputDue t then .next (s.takeInput t)
    else if p.frozen then s.scTurn t
    else if !s.iterating t || s.owes t || s.recFull t then .next s
    else s.ccTurn t
  else if isCfe t then match fget? s.prologues (t - 512) with
    | some pr => if pr.ended.isSome then .next (s.retryPrologue (t - 512)) else s.runWord
    | none => .next s
  else if p.hold == .idle then .next s
  else s.runWord

-- ## The turn of an engine

/-- The word that queue `q` works on: the started command's, else the head's. -/
def State.queueWord (s : State) (t q : Nat) : Option Nat :=
  match (s.engq t q).cur with
  | some f => some f.word
  | none => if (s.ring t q).filled = 0 || s.owes t || s.recFull t then none else some (s.headWord t q)
/-- The command of a queue: a word that is none of it never starts (R182). -/
def State.queueCommand (s : State) (t q : Nat) : Option Instr :=
  match s.queueWord t q with
  | none => none
  | some w =>
    if engineQueue w ≠ some q then none
    else match decodeWord w with
      | .ok i => some i
      | .error _ => none
/-- Serve the command of a queue. -/
def State.serve (s : State) (t q : Nat) : Out :=
  match s.queueCommand t q with
  | none => .next s
  | some i => exec i { s with cur := t }
/-- The VE has issued in this ck, or cannot: its time goes on by one ck (R275, R276). -/
def State.veAdvance (s s' : State) (t : Nat) : State :=
  if !(s'.place t).veRuns then s'.veRest t
  else if (s'.place t).veIssued || (s.ring t 0).head ≠ (s'.ring t 0).head || (s'.place t).landing.isEmpty then s'
  else s'.veStep t
/-- An engine's turn. -/
def State.engineTurn (s : State) (t q : Nat) : Out :=
  if q = 0 && (s.place t).veIssued then execVeLanding t s
  else match s.serve t q with
    | .next s' => .next (if q = 0 then s.veAdvance s' t else s')
    | o => o

end Sys2Proof.Machine
end

