-- ==== Sys2Proof/Machine/Turn.lean ====
section
/-! DEFINITION. Which agent acts next (log 1), a stopped package (R418), and how one instruction is placed where the next
step runs it. -/
namespace Sys2Proof.Machine

/-- What the link and config space do by themselves. -/
def isConfig : Instr → Bool
  | .srIovVfEnable _ | .linkRetry _ => true
  | _ => false
/-- What still acts on a stopped package: the link, config space, the mailbox RESET and a power cycle (R418). -/
def actsStopped : Instr → Bool
  | .reset | .powerGood => true
  | .registerWrite off _ value _ => off = 0x9000 && value = 3
  | i => isConfig i
/-- What acts after stage A and in minimal safe function: the link, config space and its resets, the mailbox, thermal limits
and a power cycle (R406, R408). -/
def actsEarly : Instr → Bool
  | .reset | .status | .recover | .powerGood | .conventionalReset | .thermalThrottle _ => true
  | .registerWrite off _ _ _ => 0x8000 ≤ off && off < 0x9010
  | i => isConfig i
/-- An entry of the agenda after stage A and in minimal safe function: stage B may complete, and time passes. -/
def Agenda.early : Agenda → Bool
  | .event i => actsEarly i
  | .outside o => o = .stageB
  | .advance _ => true
  | _ => false
/-- An entry of the agenda happens. -/
def State.perform (s : State) : Agenda → Out
  | .core p => if p < 520 then s.coreTurn p else .fault (.noSuchAgent p)
  | .engine t q => if t < 512 ∧ q < 6 then s.engineTurn t q else .fault (.noSuchAgent (8 * t + q))
  | .event i => exec i s
  | .advance n => .next (s.elapse n)
  | .outside o => .next (s.outside o)
  | .fetchAhead d q n => .next (s.readAhead d q n)
/-- An entry of the agenda, as far as the start-up has come. -/
def State.act (s : State) (a : Agenda) : Out := if s.early && !a.early then .next s else s.perform a
/-- An entry of the agenda on a stopped package: only the tick goes on. -/
def State.actStopped (s : State) : Agenda → Out
  | .event i => if actsStopped i then exec i s else .next s
  | .advance n => .next { s with tick := (s.tick + n) % 2 ^ 64 }
  | _ => .next s
/-- Without an agenda the places in focus take turns, each its core and its six engines, and then one gt passes. -/
def State.rotate (s : State) : Agenda × State :=
  let n := 7 * s.focus.length
  if n ≤ s.turn then (.advance 1, { s with turn := 0 })
  else
    let p := (nth? s.focus (s.turn / 7)).getD 0
    (if s.turn % 7 = 0 || !isTile p then .core p else .engine p (s.turn % 7 - 1), { s with turn := s.turn + 1 })
/-- The next entry, and the state without it. -/
def State.nextEntry (s : State) : Agenda × State :=
  match s.agenda with
  | a :: r => (a, { s with agenda := r })
  | [] => s.rotate
/-- After every act the units that were asked for something go on with it: poisoned granules (R104), queue resets (R274),
published pushes (R344), gating (R83), victims' tiles (R173), loads (R176), completion records (R163), and the CXSs look at the parked contexts (R151). -/
def settled : Out → Out
  | .next s => .next s.servePoison.endQresets.endPushes.goOnGating.freeVictims.goOnLoads.writeCpls.recheck
  | o => o

-- ## Placing one instruction

/-- Where its page lies, its frame, and the context that runs it. -/
def placedVa : Nat := 0x200000
def placedPa : Nat := 0x200000
def placedCtx : Nat := 1
/-- The five tables that map the page R, W, X, A for address space 0 (R12, R13). -/
def State.withTables (s : State) : State :=
  let put (s : State) (a v : Nat) : State := s.memWrite a (bytesOf 8 v)
  let s := put s s.asdBase 0x2001
  let s := put s 0x2000 0x4001
  let s := put s 0x4000 0x6001
  let s := put s 0x6000 0x8001
  let s := put s 0x8000 0xA001
  put s 0xA800 (15 * 2 ^ 52 + placedPa + 3)
/-- The region and the page as a MAP would leave them (R22, R87), on MTU 0. -/
def State.withRegion (s : State) : State :=
  { s with
    regions := fput (regionCode (some 0) placedVa)
      { asid := some 0, no := 1, home := 0, path := 0, placed := true, perm := ⟨true, true, true, true, false, false, false, 0⟩, count := 1, degree := 0
        pin := false, share := 0, skimp := 0, rhits := 0, skims := 0, dchg := 0, sevict := 0 } s.regions
    pgd := fput (granCode (some 0) placedVa) (newPgd (some 0) placedVa placedPa 0 false) s.pgd }.modMtu 0 fun m =>
      { m with rmap := fput (placedPa / 8192) (placedVa / 8192, false, 0) m.rmap }
/-- Tile 0 runs one iteration of a step of one context there. -/
def State.withTile (s : State) : State :=
  let st : Step := {
    id := 0, packet := ⟨0, 0⟩, vf := 0, asid := 0, cls := 0, deadline := 0, die := 0, queue := 0, members := [placedCtx], batched := false
    entry := placedVa, bucket := none, levels := [], gang := 1, mask := [0], reserved := [], started := true, direct := true, template := false
    posted := false, aborted := false, deferPark := none, failed := none, cursor := []
    positions := [{ Position.new 0 0 with point := some [], busy := true }], causalD := 0, trialBase := 0, told := false, map := 1, chief := placedCtx }
  ({ s with steps := st :: s.steps }.setByte (s.ctxdPa placedCtx + 7) 0x40).modPlace 0 fun p => { p with
    step := some 0, ctx := placedCtx, firstDone := true, hold := .running, frozen := false, rings := (range 0 6).map fun k => (k, defaultQueue k)
    cc := { p.cc with pc := BitVec.ofNat 64 placedVa } }
/-- A control word at the pc of tile 0, whose core is next. -/
def State.atPc (s : State) (w : Nat) : State := { s.memWrite placedPa (bytesOf 8 w) with agenda := [.core 0] }
/-- An engine word in the head slot of its queue on tile 0, whose engine is next. -/
def State.inQueue (s : State) (q w : Nat) : State :=
  let r := s.ring 0 q
  { ((s.modPlace 0 fun p => p.putSp (r.slot r.head) (bytesOf 16 w)).setRing 0 q { r with tail := r.head + 1 }).setEngq 0 q { EngQ.reset with next := 1 } with
    agenda := [.engine 0 q] }
/-- The word lies where the next step takes it. -/
def State.placed (s : State) (w : Nat) : State :=
  let s := s.withTables.withRegion.withTile
  if 1 ≤ wordClass w && wordClass w ≤ 6 then s.inQueue (wordClass w - 1) w else s.atPc w

end Sys2Proof.Machine
end

