-- ==== Sys2Proof/Machine/Step.lean ====
section
/-! DEFINITION. The step of the machine: one agent acts, as the agenda says or else in rotation (log 1). -/
namespace Sys2Proof.Machine

/-- ONE STEP. -/
def step (s : State) : Host.Outcome State Fault Refusal :=
  let (a, s) := s.stopAt.nextEntry
  if s.stopped then s.actStopped a else settled (s.act a)

/-- The state in which the next step fetches and runs the instruction whose bits are `w`. -/
def State.withFetchWord (s : State) (nbits w : Nat) : State := s.placed (w % 2 ^ nbits)

end Sys2Proof.Machine
end

