-- ==== Sys2Proof/Safety.lean ====
section
/-! DEFINITION. What counts as a safe run, and the words in which claims say what an instruction did: that it
retired and what it left alone. -/
namespace Sys2Proof.Machine

/-- Memory of a state is in canonical form. -/
def State.memOk (s : State) : Bool := memWf s.mem
/-- The run of `k` steps from a state neither faults nor is refused. -/
def Safe : Nat → State → Prop
  | 0, _ => True
  | k + 1, s => ∃ s', step s = .next s' ∧ Safe k s'

/-- Every register field of a word lies below the bound of its core (R140): `gs` general, `fs` floating. -/
def State.inBound (s : State) (gs fs : List Nat) : Prop :=
  (∀ i ∈ gs, i < s.here.regbnd) ∧ ∀ i ∈ fs, i < s.here.regbnd / 2
/-- No STEP is armed on the CC that executes (R366): an armed one is taken after the instruction. -/
def State.unarmed (s : State) : Prop := s.onCc = true → s.here.stepArm = false
/-- The acting core may use instructions of privilege `n`. -/
def State.atLeast (s : State) (n : Nat) : Prop := n ≤ s.here.core.priv

/-- `t` is `s` after the acting core's instruction retired at `npc`. All of `s` stays but these: the pc, the
counters of the loaded context (R419), the steps' causal delay where a range is armed (R424), and the
marks that a finished instruction takes off its place (NODE's masks, a stall, a passed breakpoint). -/
structure Retires (s t : State) (npc : Word) : Prop where
  rest : t = { s with places := t.places, steps := t.steps }
  steps : s.rangesOf s.cur = [] ∨ isTile s.cur = false ∨ s.here.frozen = true → t.steps = s.steps
  others : ∀ p, p ≠ s.cur → t.place p = s.place p
  here : t.here = { s.here with
    cc := t.here.cc, sc := t.here.sc, cnt := t.here.cnt, node := t.here.node, stallSince := none, begun := none, tb := none, bpSkip := t.here.bpSkip }
  core : t.here.core = { s.here.core with pc := npc }
  other : if s.here.frozen then t.here.cc = s.here.cc else t.here.sc = s.here.sc

/-- From `s` the instruction completes: its effect makes `s1` of `s`, and it retires there at `npc`. -/
def Completes (i : Instr) (s s1 : State) (npc : Word) : Prop := ∃ t, exec i s = .next t ∧ Retires s1 t npc

/-- `g[d]` is `v` after the instruction and every other general register, every floating register and every
byte of memory is as before (a write of `g0` is discarded, R190); nothing else changes but what retiring changes. -/
def WritesG (i : Instr) (s : State) (d : Nat) (v : Word) : Prop :=
  ∃ t, exec i s = .next t ∧ Retires (s.setG d v) t (s.pc + 8) ∧
    (∀ r, t.g r = if r = d ∧ r ≠ 0 then v else s.g r) ∧ (∀ r, t.f r = s.f r) ∧ (∀ a, t.memByte a = s.memByte a) ∧ t.pc = s.pc + 8
/-- The same of `f[d]`. -/
def WritesF (i : Instr) (s : State) (d : Nat) (v : Word) : Prop :=
  ∃ t, exec i s = .next t ∧ Retires (s.setF d v) t (s.pc + 8) ∧
    (∀ r, t.f r = if r = d then v else s.f r) ∧ (∀ r, t.g r = s.g r) ∧ (∀ a, t.memByte a = s.memByte a) ∧ t.pc = s.pc + 8

-- ## Accesses

/-- A check or a wait that has nothing to say: it passes and changes nothing. -/
def Passes (x : M Unit) (s : State) : Prop := x.run s = .ok ⟨⟩ s
/-- The acting core as an agent of memory. -/
def State.acc (s : State) : Acc := ⟨s.cur, s.here.asid, s.here.vf, if isTile s.cur then s.here.ctx else 65536, none, 0⟩
/-- A store of a CC or SC takes the next store sequence of its context and is noted in the store log (R41). -/
def State.sequenced (s : State) : State :=
  if isTile s.cur then
    ({ s with storeSeq := fset 0 s.storeSeq s.here.ctx ((fget 0 s.storeSeq s.here.ctx + 1) % 2 ^ 32) }).modHere fun t =>
      { t with slog := fput (fget 0 s.storeSeq s.here.ctx % 4096) (fget 0 s.storeSeq s.here.ctx, s.pc) t.slog }
  else s
/-- A store of whole bytes to the acting place's scratchpad. -/
def State.spStored (s : State) (o : Nat) (bs : List Byte) : State :=
  (s.modHere fun t => (((t.putSp o bs).unpoison o bs.length).markDirty o bs.length).watch).sequenced

end Sys2Proof.Machine
end

