-- ==== Sys2Proof/Certificates/Slice0/Obligations.lean ====
section
/-! DEFINITION. The statements for the provers, and the tables of the spec that they are written from. -/
namespace Sys2Proof.Claims
open Sys2Proof.Machine

-- ## Integer instructions

/-- R232, the rows of addition, logic, products, extrema and selection: destination, register fields, value. -/
def arithRule (g : Nat → Word) : Instr → Option (Nat × List Nat × Word)
  | .add d a b => some (d, [d, a, b], g a + g b)
  | .sub d a b => some (d, [d, a, b], g a - g b)
  | .and d a b => some (d, [d, a, b], g a &&& g b)
  | .or d a b => some (d, [d, a, b], g a ||| g b)
  | .xor d a b => some (d, [d, a, b], g a ^^^ g b)
  | .andn d a b => some (d, [d, a, b], g a &&& ~~~g b)
  | .mul d a b => some (d, [d, a, b], (g a).setWidth 128 * (g b).setWidth 128 |>.setWidth 64)
  | .mulh d a b => some (d, [d, a, b], ((g a).signExtend 128 * (g b).signExtend 128).extractLsb' 64 64)
  | .mulhu d a b => some (d, [d, a, b], ((g a).zeroExtend 128 * (g b).zeroExtend 128).extractLsb' 64 64)
  | .div d a b => some (d, [d, a, b], if g b = 0 then 0xFFFFFFFFFFFFFFFF else (g a).sdiv (g b))
  | .divu d a b => some (d, [d, a, b], if g b = 0 then 0xFFFFFFFFFFFFFFFF else g a / g b)
  | .rem d a b => some (d, [d, a, b], if g b = 0 then g a else (g a).srem (g b))
  | .remu d a b => some (d, [d, a, b], if g b = 0 then g a else g a % g b)
  | .min d a b => some (d, [d, a, b], if (g a).toInt ≤ (g b).toInt then g a else g b)
  | .max d a b => some (d, [d, a, b], if (g b).toInt ≤ (g a).toInt then g a else g b)
  | .minu d a b => some (d, [d, a, b], if (g a).toNat ≤ (g b).toNat then g a else g b)
  | .maxu d a b => some (d, [d, a, b], if (g b).toNat ≤ (g a).toNat then g a else g b)
  | .seq d a b => some (d, [d, a, b], if g a = g b then 1 else 0)
  | .slt d a b => some (d, [d, a, b], if (g a).toInt < (g b).toInt then 1 else 0)
  | .sltu d a b => some (d, [d, a, b], if (g a).toNat < (g b).toNat then 1 else 0)
  | .sel d a b c => some (d, [d, a, b, c], if g c = 0 then g b else g a)
  | _ => none

/-- `n` ones. -/
def lowOnes (n : Nat) : Word := BitVec.allOnes 64 >>> (64 - n)
/-- R233: POS and LEN of a field. -/
def posOf (b : Word) : Nat := (b &&& 0x3F).toNat
def lenOf (b : Word) : Nat := min ((b >>> 8) &&& 0x7F).toNat (64 - posOf b)
/-- R232 and R233, the rows of shifts, counts, byte order and bit fields. -/
def bitRule (g : Nat → Word) : Instr → Option (Nat × List Nat × Word)
  | .sll d a b => some (d, [d, a, b], g a <<< (g b &&& 0x3F))
  | .srl d a b => some (d, [d, a, b], g a >>> (g b &&& 0x3F))
  | .sra d a b => some (d, [d, a, b], (g a).sshiftRight (g b &&& 0x3F).toNat)
  | .clz d a => some (d, [d, a], (g a).clz)
  | .ctz d a => some (d, [d, a], (g a).ctz)
  | .popc d a => some (d, [d, a], (g a).cpop)
  | .bswap d a => some (d, [d, a],
      (g a).extractLsb' 0 8 ++ (g a).extractLsb' 8 8 ++ (g a).extractLsb' 16 8 ++ (g a).extractLsb' 24 8 ++
        (g a).extractLsb' 32 8 ++ (g a).extractLsb' 40 8 ++ (g a).extractLsb' 48 8 ++ (g a).extractLsb' 56 8)
  | .bfxu d a b => some (d, [d, a, b], (g a >>> posOf (g b)) &&& lowOnes (lenOf (g b)))
  | .bfx d a b => some (d, [d, a, b],
      ((g a >>> posOf (g b)) <<< (64 - lenOf (g b))).sshiftRight (64 - lenOf (g b)))
  | .bfi d a b c => some (d, [d, a, b, c],
      (g c &&& ~~~(lowOnes (lenOf (g b)) <<< posOf (g b))) ||| ((g a &&& lowOnes (lenOf (g b))) <<< posOf (g b)))
  | _ => none

/-- A 32-bit immediate, sign-extended (R184). -/
def simm (imm : Nat) : Word := (BitVec.ofNat 32 imm).signExtend 64
/-- R234, the immediate instructions. -/
def immRule (g : Nat → Word) (pc : Word) : Instr → Option (Nat × List Nat × Word)
  | .addi d a imm => some (d, [d, a], g a + simm imm)
  | .andi d a imm => some (d, [d, a], g a &&& simm imm)
  | .ori d a imm => some (d, [d, a], g a ||| simm imm)
  | .xori d a imm => some (d, [d, a], g a ^^^ simm imm)
  | .slli d a imm => some (d, [d, a], g a <<< (imm % 64))
  | .srli d a imm => some (d, [d, a], g a >>> (imm % 64))
  | .srai d a imm => some (d, [d, a], (g a).sshiftRight (imm % 64))
  | .slti d a imm => some (d, [d, a], if (g a).toInt < (simm imm).toInt then 1 else 0)
  | .sltui d a imm => some (d, [d, a], if (g a).toNat < (simm imm).toNat then 1 else 0)
  | .seqi d a imm => some (d, [d, a], if g a = simm imm then 1 else 0)
  | .movi d imm => some (d, [d], simm imm)
  | .movhi d a imm => some (d, [d, a], BitVec.ofNat 32 imm ++ (g a).extractLsb' 0 32)
  | .lea d a imm sh => some (d, [d, a], g a + (simm imm <<< sh))
  | .addpc d imm => some (d, [d], pc + simm imm)
  | _ => none

-- ## Floating instructions

/-- An operand of a floating instruction: 64 bits, or the low 32 with PR = 0 (R191). -/
def fbits (n : FN) (w : Word) : Nat := w.toNat % 2 ^ (fnFmt n).w
def fvalue (n : FN) (w : Word) : Val := (fnFmt n).dec (fbits n w)
/-- R235's minimum and maximum: `first` says that A is the one to take of two values that are not NaN. -/
def pickOf (n : FN) (a b : Word) (first : Bool) : Nat :=
  if (fvalue n a).isNan && (fvalue n b).isNan then (fnFmt n).nan
  else if (fvalue n a).isNan then (if n.fx = 1 then (fnFmt n).nan else fbits n b)
  else if (fvalue n b).isNan then (if n.fx = 1 then (fnFmt n).nan else fbits n a)
  else if first then fbits n a else fbits n b
/-- R208 and R235, the rows that round once: destination, fields, and the encoding of the exact result rounded
by RM in the format of PR. -/
def roundRule (f : Nat → Word) : Instr → Option (Nat × List Nat × Nat)
  | .fadd d a b n => some (d, [d, a, b], (fnFmt n).round n.rm false (Val.add (n.rm == 3) (fvalue n (f a)) (fvalue n (f b))))
  | .fsub d a b n => some (d, [d, a, b], (fnFmt n).round n.rm false (Val.add (n.rm == 3) (fvalue n (f a)) (fvalue n (f b)).neg))
  | .fmul d a b n => some (d, [d, a, b], (fnFmt n).round n.rm false ((fvalue n (f a)).mul (fvalue n (f b))))
  | .fdiv d a b n => some (d, [d, a, b], (fnFmt n).round n.rm false ((fvalue n (f a)).div (fvalue n (f b))))
  | .fsqrt d a n => some (d, [d, a], (fnFmt n).round n.rm false (fvalue n (f a)).sqrt)
  | .ffma d a b c n => some (d, [d, a, b, c], (fnFmt n).round n.rm false
      (Val.add (n.rm == 3) (if n.fx = 1 then ((fvalue n (f a)).mul (fvalue n (f b))).neg else (fvalue n (f a)).mul (fvalue n (f b)))
        (fvalue n (f c))))
  | .frnd d a n => some (d, [d, a], (fnFmt n).round n.rm false ((fvalue n (f a)).integral n.rm))
  | .fmin d a b n => some (d, [d, a, b], pickOf n (f a) (f b) (!(fvalue n (f b)).below (fvalue n (f a))))
  | .fmax d a b n => some (d, [d, a, b], pickOf n (f a) (f b) (!(fvalue n (f a)).below (fvalue n (f b))))
  | _ => none
/-- Sign, exponent and mantissa fields of an operand. -/
def signOf (n : FN) (w : Word) : Bool := (fbits n w).testBit ((fnFmt n).w - 1)
def expOf (n : FN) (w : Word) : Nat := fbits n w / 2 ^ (fnFmt n).mb % 2 ^ (fnFmt n).eb
def mantOf (n : FN) (w : Word) : Nat := fbits n w % 2 ^ (fnFmt n).mb
/-- The bit that FCLASS sets (R237), from the fields of the encoding. -/
def classOf (n : FN) (w : Word) : Nat :=
  if expOf n w = 2 ^ (fnFmt n).eb - 1 then (if mantOf n w ≠ 0 then 8 else if signOf n w then 0 else 7)
  else if expOf n w = 0 then
    (if mantOf n w = 0 then (if signOf n w then 3 else 4) else if signOf n w then 2 else 5)
  else if signOf n w then 1 else 6
/-- R235 to R237, the rows that write a general register. -/
def floatToG (f : Nat → Word) : Instr → Option (Nat × List Nat × Word)
  | .fcmp d a b n => some (d, [a, b],
      if (fvalue n (f a)).isNan || (fvalue n (f b)).isNan then 8
      else if (fvalue n (f a)).lt (fvalue n (f b)) then 1
      else if (fvalue n (f b)).lt (fvalue n (f a)) then 4 else 2)
  | .fclass d a n => some (d, [a], BitVec.ofNat 64 (2 ^ classOf n (f a)))
  | .fmvg d a n => some (d, [a], if n.pr = 1 then f a else f a &&& 0xFFFFFFFF)
  | .fcvt d a 2 n => some (d, [a], BitVec.ofInt 64 ((fvalue n (f a)).toRange n.rm (-2 ^ 63) (2 ^ 63 - 1)))
  | .fcvt d a 3 n => some (d, [a], BitVec.ofInt 64 ((fvalue n (f a)).toRange n.rm 0 (2 ^ 64 - 1)))
  | _ => none
/-- The rows that read a general register and write a floating one. -/
def floatFromG (g : Nat → Word) : Instr → Option (Nat × List Nat × Word)
  | .fmvf d a n => some (d, [a], if n.pr = 1 then g a else g a &&& 0xFFFFFFFF)
  | .fcvt d a 4 n => some (d, [a], BitVec.ofNat 64 ((fnFmt n).round n.rm false (intVal (g a).toInt)))
  | .fcvt d a 5 n => some (d, [a], BitVec.ofNat 64 ((fnFmt n).round n.rm false (intVal (g a).toNat)))
  | _ => none
/-- The rows that copy a sign or convert between formats. -/
def floatRow (f : Nat → Word) : Instr → Option (Nat × List Nat × Nat)
  | .fsgn d a b n => some (d, [d, a, b],
      fbits n (f a) % 2 ^ ((fnFmt n).w - 1) + if (signOf n (f b) != (n.fx == 1)) then 2 ^ ((fnFmt n).w - 1) else 0)
  | .fcvt d a 0 n => some (d, [d, a], fp64.round n.rm false (fp32.dec ((f a).toNat % 2 ^ 32)))
  | .fcvt d a 1 n => some (d, [d, a], fp32.round n.rm (n.fx == 1) (fp64.dec (f a).toNat))
  | .fcvt d a 6 n => some (d, [d, a], fp32.round n.rm false (fp16.dec ((f a).toNat % 2 ^ 16)))
  | .fcvt d a 7 n => some (d, [d, a], fp16.round n.rm (n.fx == 1) (fp32.dec ((f a).toNat % 2 ^ 32)))
  | .fcvt d a 8 n => some (d, [d, a], fp32.round n.rm false (bf16.dec ((f a).toNat % 2 ^ 16)))
  | .fcvt d a 9 n => some (d, [d, a], bf16.round n.rm (n.fx == 1) (fp32.dec ((f a).toNat % 2 ^ 32)))
  | _ => none

-- ## Control transfer

/-- R188: whether B branches, for the conditions that are not reserved. -/
def branches (cond : Nat) (a b : Word) : Option Bool :=
  match cond with
  | 0 => some (decide (a = b))
  | 1 => some (decide (a ≠ b))
  | 2 => some (decide (a.toInt < b.toInt))
  | 3 => some (decide (b.toInt ≤ a.toInt))
  | 4 => some (decide (a.toNat < b.toNat))
  | 5 => some (decide (b.toNat ≤ a.toNat))
  | _ => none
/-- `pc` + 8 × sext(offset) for an offset of 37 or 47 bits. -/
def target37 (pc : Word) (off : Nat) : Word := pc + 8 * (BitVec.ofNat 37 off).signExtend 64
def target47 (pc : Word) (off : Nat) : Word := pc + 8 * (BitVec.ofNat 47 off).signExtend 64
/-- R178: an address that code may continue at. -/
def mayContinue (t : Word) : Prop := t.toNat % 8 = 0 ∧ t.toNat < 2 ^ 56
/-- R238 and R239: where a transfer goes, its register fields, and the register that it links. -/
def transferRule (s : State) : Instr → Option (Word × List Nat × Option Nat)
  | .b a b cond off => if branches cond (s.g a) (s.g b) = some true then some (target37 s.pc off, [a, b], none) else none
  | .bz a cond off => if branches cond (s.g a) 0 = some true then some (target37 s.pc off, [a], none) else none
  | .j off => some (target47 s.pc off, [], none)
  | .jal d off => some (target47 s.pc off, [d], some d)
  | .jalr d a imm => some (s.g a + simm imm, [d, a], some d)
  | .ret a => some (s.g a, [a], none)
  | _ => none
/-- A branch whose condition is false, with its register fields. -/
def notTaken (s : State) : Instr → Option (List Nat)
  | .b a b cond _ => if branches cond (s.g a) (s.g b) = some false then some [a, b] else none
  | .bz a cond _ => if branches cond (s.g a) 0 = some false then some [a] else none
  | _ => none
/-- The link register is written, if there is one. -/
def linked (s : State) : Option Nat → State
  | some d => s.setG d (s.pc + 8)
  | none => s

/-- The bytes of an exception frame (R241). -/
def frameBytes (handler sp prev : Word) (dreg : Nat) : List Byte :=
  bytesOf 8 handler.toNat ++ bytesOf 8 sp.toNat ++ bytesOf 8 prev.toNat ++ bytesOf 8 dreg
/-- A doubleword of the acting place's scratchpad. -/
def spWord (s : State) (o : Nat) : Word := BitVec.ofNat 64 (numOf (s.here.spBytes o 8))

-- ## Memory

/-- What a load of `n` bytes writes to its register (R244). -/
def loaded (sx n : Nat) (bs : List Byte) : Word :=
  if sx = 1 then (BitVec.ofNat (8 * n) (numOf bs)).signExtend 64 else BitVec.ofNat 64 (numOf bs)
/-- A steward core addresses `n` bytes of populated memory physically at `pa`, with the rights `xs` in one region of its PMP
(1 R, 2 W), and no frame there is mapped (so that no cache holds it). -/
def Physical (s : State) (pa n : Nat) (xs : List Nat) : Prop :=
  s.physical = true ∧ s.pmpAllows pa n xs = true ∧ inDev pa = false ∧ s.populated pa = true ∧ s.reverse pa = none
/-- A tile may access `va` through its PMC with `p.grants`, the page being ordinary memory. -/
def Permitted (s : State) (va : Nat) (nd : Need) : Prop :=
  isTile s.cur = true ∧ va < 2 ^ 56 ∧
    ∃ p, fget? s.here.pmc (regionCode (some s.here.asid) va) = some p ∧ p.grants nd = true ∧ p.vf = s.here.vf ∧ p.dev = false
/-- The line of `va` in the acting tile's space, and the tile's copy of it. -/
def lineKey (s : State) (va : Nat) : LineKey := s.keyOf s.here.asid va
def copyOf (s : State) (va : Nat) : L1Line := s.l1 s.cur (lineKey s va)
/-- The tile's L1 holds `n` bytes at `va`, in valid sectors of a line without waiting stores (R53, R54). -/
def Holds (s : State) (va n : Nat) : Prop :=
  (copyOf s va).pend = [] ∧ (copyOf s va).st ≠ .i ∧
    ∀ i, va % 128 ≤ i → i < va % 128 + n → (copyOf s va).valid.testBit (i / 32) = true
/-- Bytes stored to physical memory; a changed root of an address-space descriptor that stays valid waits for a
shoot-down (R15). -/
def physStored (s : State) (pa : Nat) (bs : List Byte) : State := (s.memWrite pa bs).keepRoots s pa bs.length
/-- Writing `bs` at `pa` takes V from no address-space descriptor, which would end that space (R74, R409). -/
def KeepsSpaces (s : State) (pa : Nat) (bs : List Byte) : Prop :=
  ∀ a, (s.asd a).testBit 0 = true → ((s.memWrite pa bs).asd a).testBit 0 = true
/-- The region's first access is noted, with the hint of the instruction (R24). -/
def touched (s : State) (m : CM) (va : Nat) : State :=
  (s.touch (lineKey s va) (if m.hv = 1 then some m.hint else none)).touch (lineKey s va) none
/-- The value that AMO's operation gives, on `w`-bit operands (R246). -/
def amoRule (aop : Nat) {w : Nat} (old op : BitVec w) : Option (BitVec w) :=
  match aop with
  | 0 => some (old + op)
  | 1 => some (old &&& op)
  | 2 => some (old ||| op)
  | 3 => some (old ^^^ op)
  | 4 => some (if op.toInt < old.toInt then op else old)
  | 5 => some (if old.toInt < op.toInt then op else old)
  | 6 => some (if op.toNat < old.toNat then op else old)
  | 7 => some (if old.toNat < op.toNat then op else old)
  | 8 => some op
  | _ => none

-- ## Ordering and synchronisation

/-- The core belongs to a tile or is a CFE (R427). -/
def notSteward (s : State) : Prop := isSteward s.cur = false
/-- Nothing of the acting context's stores is outstanding: no store waits in the L1, no line awaits skims, and none of
its sectors is held. -/
def Drained (s : State) : Prop :=
  (∀ l ∈ s.here.l1, l.2.pend = [] ∧ l.2.mark = false) ∧ ∀ h ∈ s.held, ∀ e ∈ h.prov, e.2.ctx ≠ s.here.ctx
/-- The core stalls in its instruction: only the tick at which the stall began is noted. -/
def Stalls (i : Instr) (s : State) : Prop :=
  exec i s = .next (s.modHere fun t => { t with stallSince := some (t.stallSince.getD s.tick) })
/-- The count of a CS word (R231): IMM, or the low 16 bits of a register. -/
def countOf (s : State) (reg : Nat) (c : Cnt) : Nat := if c.rg = 1 then (s.g reg &&& 0xFFFF).toNat else c.imm
/-- The ring that RCFG sets from its two registers (R192, R250). -/
def ringFrom (lo hi : Word) : Ring :=
  { head := 0, tail := 0, claimed := 0, slog := ((hi >>> 12) &&& 0xF).toNat, sszm := ((hi >>> 4) &&& 0xFF).toNat,
    scope := ((hi >>> 2) &&& 3).toNat, v := hi.getLsbD 1, base := (lo &&& 0x1FFFFF).toNat }
/-- A ring is inside scratchpad. -/
def ringInside (r : Ring) : Prop := r.base + 2 ^ r.slog * 16 * (r.sszm + 1) ≤ 0x180000
/-- The state of ring `q` of the acting tile, and a state in which it is `r`. -/
def ringOf (s : State) (q : Nat) : Ring := s.ring s.cur q
def withRing (s : State) (q : Nat) (r : Ring) : State := s.setRing s.cur q r
/-- The next `m` slots from the tail take in `n` that RCLM claimed, and all that pushes have reserved among them and just
behind (R250, R344). -/
def publishes (r : Ring) (slots : List Nat) (n m : Nat) : Prop :=
  (((List.range m).map fun i => (r.tail + i) % 65536).filter fun p => !slots.contains p).length = n ∧ (r.tail + m) % 65536 ∉ slots
/-- A user ring that takes the count `n` (R251). -/
def usable (s : State) (q n : Nat) : Prop := (ringOf s q).v = true ∧ 8 ≤ q ∧ n ≤ 2 ^ (ringOf s q).slog
/-- Published slots of a ring, modulo 2^16. -/
def published (s : State) (q : Nat) : Nat := ((ringOf s q).tail + 65536 - (ringOf s q).head) % 65536
/-- The acting tile's gang position is a member of barrier `n`, bound to its step (R157). -/
def isMember (s : State) (n : Nat) : Prop :=
  ∃ id, s.here.step = some id ∧ (s.bar (barKey s.cur n)).step = id ∧ (s.bar (barKey s.cur n)).m.contains s.here.gpos = true
/-- R157: a generation completes when every member has arrived, and a barrier without members is free. -/
def completed (b : Barrier) : Barrier :=
  if b.m = [] then ⟨0, [], [], 0, []⟩ else if b.a.length = b.m.length then { b with a := [], gen := b.gen + 1 } else b
/-- The acting tile's TBWAIT has issued with the word at `o` and a timeout of `limit` ticks, 0 for none: the word is watched from
then on, but for one whose region's lazy fill has not begun or that is poisoned (R128, R252). -/
def watching (s : State) (o limit : Nat) : State :=
  s.modHere fun t => if t.tb.isSome then t else
    let u := { t with tb := some (o, if limit = 0 then 0 else s.tick + limit, false) }
    if u.filledAt o && !u.spBad o 8 then u.watch else u
/-- The acting instruction retires and its tile goes on elsewhere: no stall, wait or breakpoint of it is left. -/
def left (s : State) : State :=
  (if s.onCc then s.retired s.pc else s).modHere fun t => { t with stallSince := none, begun := none, tb := none, bpSkip := false }
/-- Counted neighbours of the acting tile (R158). -/
def neighboursOf (s : State) : List Nat := match s.stepAt s.cur with
  | some st => st.neighbours s.cur
  | none => []
/-- The three values of QSEQ (R254), from the next sequence and the unstarted and uncompleted commands. -/
def firstUnstarted (s : State) (q : Nat) : Nat :=
  let e := s.engq s.cur q
  let waiting := if e.cur.isSome then published s q - 1 else published s q
  (e.next + 2 ^ 32 - waiting % 2 ^ 32) % 2 ^ 32

-- ## Registers, contexts and privilege

/-- No recording or replay slot names the acting context, so nothing that it reads is logged, and no earlier input
waits for room in a log (R421 to R423). -/
def Unrecorded (s : State) : Prop := s.recSlotsOf s.here.ctx = [] ∧ s.here.recWait = false
/-- Where the copy with `q2` sequence `x` stands (R258): its promised tick, and whether it has not yet completed. -/
def promised (s : State) (x : Nat) : Nat :=
  let e := s.engq s.cur 2
  let d := (e.next + 2 ^ 32 - x % 2 ^ 32) % 2 ^ 32
  if d = 0 ∨ 2 ^ 31 < d then 2 ^ 64 - 1
  else if d ≤ (if e.cur.isSome then published s 2 - 1 else published s 2) then 2 ^ 64 - 2
  else match e.cur with
    | some c => if c.seq = x % 2 ^ 32 then c.promised else 0
    | none => 0
def undispatched (s : State) (x : Nat) : Prop :=
  let d := ((s.engq s.cur 2).next + 2 ^ 32 - x % 2 ^ 32) % 2 ^ 32
  d = 0 ∨ 2 ^ 31 < d
/-- The copy has been dispatched and has not completed. -/
def copyRuns (s : State) (x : Nat) : Prop :=
  let e := s.engq s.cur 2
  let d := (e.next + 2 ^ 32 - x % 2 ^ 32) % 2 ^ 32
  ¬ undispatched s x ∧ (d ≤ (if e.cur.isSome then published s 2 - 1 else published s 2) ∨ ∃ c, e.cur = some c ∧ c.seq = x % 2 ^ 32)
/-- The number that an index names (R259), and whether it lies below the bound. -/
def indexOf (s : State) (a imm : Nat) : Word := s.g a + simm imm
def indexIn (x : Word) (b : Nat) : Prop := 0 ≤ x.toInt ∧ x.toInt < b
/-- The core is a CC or a steward core (R267). -/
def ccOrSteward (s : State) : Prop := s.onCc = true ∨ isSteward s.cur = true
/-- R263: words of a context that a core may write. -/
def mayWriteWord (s : State) (c w : Nat) : Prop :=
  (2 ≤ s.here.core.priv ∧ (w ≠ 0 ∨ s.ctxState c = 0)) ∨ (s.here.core.priv < 2 ∧ (w = 1 ∨ w = 2) ∧ s.ctxVf c = s.here.vf)
/-- The mixed-radix value of a point (R265). -/
def mixedRadix : List (Nat × Nat) → List Nat → Nat → Nat
  | (_, trip) :: ls, x :: xs, n => mixedRadix ls xs (n * trip + x)
  | _, _, n => n
/-- The trace of a die is off (R415). -/
def traceOff (s : State) (d : Nat) : Prop := (s.regN (dieReg d 0x1320)).testBit 24 = false
/-- The privilege below which an instruction raises PRIV (R194, R268 to R274). -/
def privilegeOf : Instr → Option Nat
  | .trap _ _ | .eretResume | .eretStep | .eretQstep | .eretParkPromise | .eretParkExplicit | .eretReady | .eretKill | .eretEscalate
  | .idle | .replset _ _ _ | .zerosp _ _ | .causal _ _ _ _ | .qreset _ _ => some 1
  | .shoot _ _ _ _ | .keyload _ _ _ _ => some 2
  | .keykill 0 _ => some 2
  | .halt => some 3
  | .sysrd _ n => if n = 0x10 ∨ n = 0x11 ∨ (0x18 ≤ n ∧ n ≤ 0x1E) ∨ n = 0x31 then some 1 else none
  | .syswr _ n => if n = 5 ∨ n = 6 then none else some 1
  | _ => none
/-- The cores on which a privileged instruction is legal: ERET where a handler runs, CAUSAL off the steward cores. -/
def legalHere (s : State) : Instr → Prop
  | .eretResume | .eretStep | .eretQstep | .eretParkPromise | .eretParkExplicit | .eretReady | .eretKill | .eretEscalate =>
    s.onSc = true ∨ isSteward s.cur = true
  | .causal _ _ _ _ => isSteward s.cur = false
  | _ => True
/-- A control word of opcode `op` (R179) whose `n` bits from `lo` are not all zero is no instruction. -/
def MustBeZero (op lo n : Nat) : Prop := ∀ w, w / 2 ^ 53 = op → w / 2 ^ lo % 2 ^ n ≠ 0 → decodeWord w = .error (.control op)

-- ## Exceptions and system registers

/-- R362: the fields of `sys.cause` of a precise cause. -/
def CauseIs (w : Word) (code detail : Nat) : Prop :=
  w.extractLsb' 0 8 = BitVec.ofNat 8 code ∧ w.extractLsb' 8 24 = 0 ∧ w.extractLsb' 32 32 = BitVec.ofNat 32 detail
/-- The tile's L1 holds the handler table's entry for a cause, and its value is `h` (R364, R365). -/
def HandlerIs (s : State) (code h : Nat) : Prop :=
  let va := s.here.tvec + 8 * code
  va % 8 = 0 ∧ Permitted s va .r ∧ va % 128 + 8 ≤ 128 ∧ Holds s va 8 ∧
    numOf (lineBytes (copyOf s va).data (va % 128) 8) = h
/-- The SC of the tile of `s` has begun at `h` in `t` with copies of the registers (R357, R365). -/
def HandlerBegun (s t : State) (code detail h : Nat) (epc : Word) : Prop :=
  t.here.frozen = true ∧ CauseIs t.here.cause code detail ∧ t.here.epc = epc ∧ t.here.sc.pc = BitVec.ofNat 64 h ∧ t.here.sc.priv = 1 ∧
    (∀ r, t.here.sc.getG r = s.here.cc.getG r) ∧ (∀ r, t.here.sc.getF r = s.here.cc.getF r) ∧ t.here.entering = none
/-- The registers have gone back to the CC below the bound, and the rest of the CC's registers stayed (R366). -/
def CopiedBack (s t : State) : Prop :=
  (∀ r, t.here.cc.getG r = if r < s.here.regbnd then s.here.sc.getG r else s.here.cc.getG r) ∧
    ∀ r, t.here.cc.getF r = if r < s.here.regbnd / 2 then s.here.sc.getF r else s.here.cc.getF r
def erets : List Instr := [.eretResume, .eretStep, .eretQstep, .eretParkPromise, .eretParkExplicit, .eretReady, .eretKill, .eretEscalate]
/-- Those of its actions that go on at `sys.epc`. -/
def eretsTo : List Instr := [.eretResume, .eretStep, .eretParkPromise, .eretParkExplicit, .eretReady, .eretKill]
/-- No command of the acting tile is started, and the VE's accesses of memory have ended. -/
def EnginesRest (s : State) : Prop :=
  (∀ q < 6, (s.engq s.cur q).cur = none) ∧ ∀ l ∈ s.here.landing, l.kind ≠ 5 ∧ (l.kind = 4 → l.again = true)
/-- The pc that `sys.epc` names, without its low three bits. -/
def resumePc (s : State) : Word := s.here.epc &&& ~~~7
/-- What an ERET of an SC starts from: the registers are back in the CC. -/
def returned (s : State) : State := s.modHere fun t => { t.copyBack with stallSince := none, begun := none }
/-- R194, R195: the value that SYSRD reads, of the registers that a place holds as they are. -/
def sysValue (s : State) (n : Nat) : Option Nat :=
  match n with
  | 0x000 => some s.here.ctx
  | 0x001 => some s.here.asid
  | 0x002 => some s.here.vf
  | 0x004 => some s.here.regbnd
  | 0x005 => some s.here.lead
  | 0x006 => some s.here.srseed
  | 0x008 => some (fget 0 s.here.bmask 0).toNat
  | 0x009 => some (fget 0 s.here.bmask 1).toNat
  | 0x00A => some (fget 0 s.here.bmask 2).toNat
  | 0x00B => some (fget 0 s.here.bmask 3).toNat
  | 0x00C => some (fget 0 s.here.phase 0)
  | 0x00D => some (fget 0 s.here.phase 1)
  | 0x00E => some (fget 0 s.here.phase 2)
  | 0x00F => some (fget 0 s.here.phase 3)
  | 0x010 => some s.here.cause.toNat
  | 0x011 => some s.here.epc.toNat
  | 0x030 => some s.here.core.priv
  | 0x031 => some s.here.tvec
  | 0x032 => some s.here.exc.toNat
  | _ => none
/-- R195: `sys.qwait` of a queue whose head waits since a tick, and of one whose head does not, or need not any more. -/
def qwaitValue (s : State) (q : Nat) : Nat :=
  match (s.engq s.cur q).since with
  | none => 0
  | some n =>
    let h := hdrOf (s.headWord s.cur q)
    if h.wneed = 0 ∨ h.wneed ≤ s.here.getSem h.wsem then 0
    else h.wsem * 2 ^ 56 + h.wneed * 2 ^ 52 + s.here.getSem h.wsem * 2 ^ 36 + 2 ^ 35 + n % 2 ^ 32
/-- R194: what SYSWR changes, for the registers that it writes. -/
def sysWritten (n : Nat) (v : Word) (t : Place) : Place :=
  match n with
  | 0x001 => { t with asid := (v &&& 0xFFFF).toNat }
  | 0x002 => { t with vf := (v &&& 0x7F).toNat }
  | 0x004 => if 16 ≤ (v &&& 0x7F).toNat ∧ (v &&& 0x7F).toNat ≤ 64 then { t with regbnd := (v &&& 0x7F).toNat } else t
  | 0x005 => { t with lead := (v &&& 0xF).toNat }
  | 0x00C => { t with phase := fset 0 t.phase 0 (v &&& 0xFFFFFFFF).toNat }
  | 0x00D => { t with phase := fset 0 t.phase 1 (v &&& 0xFFFFFFFF).toNat }
  | 0x00E => { t with phase := fset 0 t.phase 2 (v &&& 0xFFFFFFFF).toNat }
  | 0x00F => { t with phase := fset 0 t.phase 3 (v &&& 0xFFFFFFFF).toNat }
  | 0x011 => { t with epc := v }
  | 0x031 => { t with tvec := (v &&& 0xFFFFFFFFFFFFFF).toNat }
  | 0x032 => { t with exc := v &&& 0x1001FFFFF }
  | _ => t
/-- The cores that an instruction of R267 and R427 is confined to. -/
def confined (s : State) : Instr → Option Bool
  | .ctxsw _ _ _ | .yield _ | .node _ _ _ | .park _ | .iter _ _ | .bucket _ _ => some s.onCc
  | .wake _ | .launch _ _ _ => some (s.onCc || isSteward s.cur)
  | .exit | .kill => some (s.onCc || isCfe s.cur)
  | .eretResume | .eretStep | .eretQstep | .eretParkPromise | .eretParkExplicit | .eretReady | .eretKill | .eretEscalate =>
    some (s.onSc || isSteward s.cur)
  | .semwait _ _ | .semsig _ _ | .semset _ _ | .semrd _ _ | .semrsig _ _ _ _ | .rcfg _ _ _ | .rclm _ _ _ | .rpub _ _ | .rwait _ _ _
  | .rrel _ _ | .rstat _ _ _ | .tbset _ _ | .tbwait _ _ | .barj _ | .bara _ | .barw _ | .barx _ | .phase _ | .qseq _ _ _ | .qdrain _
  | .mcfg _ _ | .mcfgrd _ _ _ | .mhset _ _ | .prmget _ _ | .prmwait _ | .mark _ | .cntrd _ _ | .causal _ _ _ _ => some !isSteward s.cur
  | _ => none
/-- The rows of a plain result: their register fields. -/
def plainFields (s : State) (i : Instr) : Option (List Nat) :=
  match arithRule s.g i, bitRule s.g i, immRule s.g s.pc i with
  | some r, _, _ | none, some r, _ | none, none, some r => some r.2.1
  | none, none, none => none
/-- A slot of a tile that takes a key: neither valid nor being zeroed (R80). -/
def slotFree (t : Place) (slot : Nat) : Prop := ∀ k, fget? t.keys slot = some k → k.valid = false ∧ k.zeroing = none
/-- The words of scratchpad that a range touches are no longer poisoned, and its bytes are zero (R272). -/
def ZeroedRange (t : Place) (lo n : Nat) : Prop :=
  (∀ k, lo ≤ k → k < lo + n → t.spByte k = 0) ∧ ∀ w, lo < 4 * w + 4 → 4 * w < lo + n → fget false t.spPoison w = false

-- ## Commands of the engines

/-- The head command of queue `q` of the acting tile may start: the queue runs and is not being reset, none of its stores waits for
room to be held, nothing is started and its wait is met (R43, R119, R139, R181, R274). -/
def HeadReady (s : State) (q : Nat) (h : Hdr) : Prop :=
  isTile s.cur = true ∧ published s q ≠ 0 ∧ (s.engq s.cur q).cur = none ∧ s.here.starts q = true ∧ fget? s.qresets (8 * s.cur + q) = none ∧ s.queueBlocked s.cur q = false ∧
    (h.wneed = 0 ∨ h.wneed ≤ s.here.getSem h.wsem)
/-- Queue sequence of the head command (R182), and its captured value. -/
def headSeqOf (s : State) (q : Nat) : Nat := ((s.engq s.cur q).next + 2 ^ 32 - published s q % 2 ^ 32) % 2 ^ 32
def headCapOf (s : State) (q : Nat) : Nat := s.headCap s.cur q
/-- The semaphores after the wait of a command, and after its signal too. -/
def semWaited (s : State) (h : Hdr) (n : Nat) : Nat := s.here.getSem n - if n = h.wsem then h.wneed else 0
def semSignalled (s : State) (h : Hdr) (n : Nat) : Nat := semWaited s h n + if n = h.ssem then h.sinc else 0
/-- The head slot is free in `t` and nothing is started. -/
def SlotFreed (s t : State) (q : Nat) : Prop :=
  t.cur = s.cur ∧ ringOf t q = { ringOf s q with head := ((ringOf s q).head + 1) % 65536 } ∧ (t.engq s.cur q).cur = none ∧
    (t.engq s.cur q).since = none ∧ (t.engq s.cur q).next = (s.engq s.cur q).next
/-- The head command of `q` has completed: its slot is free, its wait is subtracted, its signal added, and it is
counted (R119, R139, R419). -/
def CommandDone (s t : State) (q : Nat) (h : Hdr) : Prop :=
  SlotFreed s t q ∧ (∀ n, t.here.getSem n = semSignalled s h n) ∧ t.here.async = s.here.async ∧
    fget 0 t.here.cnt (2 + q) = (fget 0 s.here.cnt (2 + q) + 1) % 2 ^ 64
/-- The signal of a command does not overflow its semaphore. -/
def SignalFits (s : State) (h : Hdr) : Prop := semSignalled s h h.ssem ≤ 65535
/-- The command ended with a cause: no signal, and the cause with queue and sequence waits for the context (R326, R372). -/
def CommandFails (s t : State) (q code : Nat) (h : Hdr) : Prop :=
  SlotFreed s t q ∧ (∀ n, t.here.getSem n = semWaited s h n) ∧ t.here.async = s.here.async ++ [⟨code, headSeqOf s q, some q⟩]
/-- The tile's registers, scratchpad and memory are as before. -/
def SameData (s t : State) : Prop :=
  t.mem = s.mem ∧ (∀ r, t.g r = s.g r) ∧ (∀ r, t.f r = s.f r) ∧ (∀ r, t.here.getV r = s.here.getV r) ∧ (∀ r, t.here.getM r = s.here.getM r) ∧
    (∀ n, t.here.accAt n = s.here.accAt n) ∧ (∀ k, t.here.spByte k = s.here.spByte k) ∧ t.here.bst = s.here.bst ∧ t.pc = s.pc
/-- Everything of `SameData` but the scratchpad. -/
def SameButSp (s t : State) : Prop :=
  t.mem = s.mem ∧ (∀ r, t.g r = s.g r) ∧ (∀ r, t.f r = s.f r) ∧ (∀ r, t.here.getV r = s.here.getV r) ∧ (∀ r, t.here.getM r = s.here.getM r) ∧
    (∀ n, t.here.accAt n = s.here.accAt n) ∧ t.here.bst = s.here.bst ∧ t.pc = s.pc
/-- The no-op of each engine (R183), with its queue. -/
def noopOf : Instr → Option (Nat × Hdr)
  | .vnop h => some (0, h)
  | .mnop h => some (1, h)
  | .xnop h => some (2, h)
  | .gnop h => some (3, h)
  | .lnop h => some (4, h)
  | .snop h => some (5, h)
  | _ => none

-- ## Vector engine

/-- R278: width, container and format of an element type, and the value of an integer element. -/
def vWidth (typ : Nat) : Nat := [32, 16, 16, 8, 8, 6, 6, 4, 32, 16, 8, 32, 16, 8].getD typ 0
def vBox (typ : Nat) : Nat := if typ = 5 ∨ typ = 6 then 8 else vWidth typ
def vPer (typ : Nat) : Nat := 32 / vBox typ
def vFormat (typ : Nat) : Option Fmt := [fp32, bf16, fp16, e4m3, e5m2, e3m2, e2m3, e2m1][typ]?
def vNum (typ x : Nat) : Int := if typ = 8 ∨ typ = 9 ∨ typ = 10 then (BitVec.ofNat (vWidth typ) x).toInt else x
def vLeast (typ : Nat) : Int := if typ = 8 ∨ typ = 9 ∨ typ = 10 then -2 ^ (vWidth typ - 1) else 0
def vGreatest (typ : Nat) : Int := if typ = 8 ∨ typ = 9 ∨ typ = 10 then 2 ^ (vWidth typ - 1) - 1 else 2 ^ vWidth typ - 1
def vWrap (typ : Nat) (x : Int) : Nat := (x % 2 ^ vWidth typ).toNat
def vSat (typ : Nat) (x : Int) : Int := if x < vLeast typ then vLeast typ else if vGreatest typ < x then vGreatest typ else x
/-- Element `j` of a register (R209). -/
def elemAt (typ : Nat) (v : VReg) (j : Nat) : Nat := (v >>> (vBox typ * j)).toNat % 2 ^ vWidth typ
def laneAt (v : VReg) (i : Nat) : Nat := elemAt 0 v i
/-- R284's rows on an F type, rounded once, or on an I type, wrapped or with M1 saturated. -/
def vOp (typ m1 : Nat) (fv : Val → Val → Val → Val) (iv : Int → Int → Int → Int) (a b c : Nat) : Nat :=
  match vFormat typ with
  | some f => f.round 0 false (fv (f.dec a) (f.dec b) (f.dec c))
  | none => vWrap typ (if m1 = 1 then vSat typ (iv (vNum typ a) (vNum typ b) (vNum typ c)) else iv (vNum typ a) (vNum typ b) (vNum typ c))
/-- The smaller or larger of two elements (R284): `less` says that a value is below another. -/
def vPick (typ m1 : Nat) (larger : Bool) (a b : Nat) : Nat :=
  match vFormat typ with
  | some f =>
    if (f.dec a).isNan ∧ (f.dec b).isNan then f.nan
    else if (f.dec a).isNan then (if m1 = 1 then f.nan else b)
    else if (f.dec b).isNan then (if m1 = 1 then f.nan else a)
    else if (if larger then (f.dec a).below (f.dec b) else (f.dec b).below (f.dec a)) then b else a
  | none => if (if larger then vNum typ a < vNum typ b else vNum typ b < vNum typ a) then b else a
/-- R284, R285, R289: header, operands, latency and element function of the element-wise rows. -/
def vElem : Instr → Option (Hdr × VR × Nat × (Nat → Nat → Nat → Nat))
  | .vadd h x => some (h, x, 4, vOp x.typ x.m1 (fun a b _ => a.add false b) fun a b _ => a + b)
  | .vsub h x => some (h, x, 4, vOp x.typ x.m1 (fun a b _ => a.add false b.neg) fun a b _ => a - b)
  | .vmul h x => some (h, x, 6, vOp x.typ 0 (fun a b _ => a.mul b) fun a b _ => a * b)
  | .vfma h x => some (h, x, 6, vOp x.typ 0 (fun a b c => (a.mul b).add false c) fun a b c => a * b + c)
  | .vfms h x => some (h, x, 6, vOp x.typ 0 (fun a b c => c.add false (a.mul b).neg) fun a b c => c - a * b)
  | .vmin h x => some (h, x, 4, fun a b _ => vPick x.typ x.m1 false a b)
  | .vmax h x => some (h, x, 4, fun a b _ => vPick x.typ x.m1 true a b)
  | .vabs h x => some (h, x, 4, fun a _ _ => if x.typ < 8 then a % 2 ^ (vWidth x.typ - 1) else vOp x.typ x.m1 (fun a _ _ => a) (fun a _ _ => (a.natAbs : Int)) a 0 0)
  | .vneg h x => some (h, x, 4, fun a _ _ => if x.typ < 8 then a ^^^ 2 ^ (vWidth x.typ - 1) else vOp x.typ x.m1 (fun a _ _ => a) (fun a _ _ => -a) a 0 0)
  | .vrcp h x => some (h, x, 12, fun a _ _ => rcpf a)
  | .vrsq h x => some (h, x, 12, fun a _ _ => rsqrtf a)
  | .vexp2 h x => some (h, x, 12, fun a _ _ => exp2f a)
  | .vlog2 h x => some (h, x, 12, fun a _ _ => log2f a)
  | .vtanh h x => some (h, x, 12, fun a _ _ => tanhf a)
  | .vand h x => some (h, x, 4, fun a b _ => a &&& b)
  | .vor h x => some (h, x, 4, fun a b _ => a ||| b)
  | .vxor h x => some (h, x, 4, fun a b _ => a ^^^ b)
  | .vshl h x => some (h, x, 4, fun a b _ => (BitVec.ofNat (vWidth x.typ) a <<< b).toNat)
  | .vshr h x => some (h, x, 4, fun a b _ =>
      if x.typ = 8 ∨ x.typ = 9 ∨ x.typ = 10 then ((BitVec.ofNat (vWidth x.typ) a).sshiftRight b).toNat else (BitVec.ofNat (vWidth x.typ) a >>> b).toNat)
  | _ => none
/-- Bit `i` of a mask register, and the guard of R279 on an element of a lane. -/
def guardBit (p : Place) (m i : Nat) : Bool := (p.getM m).getLsbD i
def guardedBy (p : Place) (m z i v : Nat) : Option Nat := if guardBit p m i then some v else if z = 1 then some 0 else none
/-- The operand `b(j)` (R283): a register's element, or the captured value's low bits. -/
def bOperand (p : Place) (h : Hdr) (typ vb capv j : Nat) : Nat := if h.cap = 1 then capv % 2 ^ vWidth typ else elemAt typ (p.getV vb) j
/-- What a landing does to the vector registers: elements `f` of register `d`; the masks stay. -/
def LandsElems (l : Landing) (typ d : Nat) (f : Nat → Option Nat) : Prop :=
  ∀ (p : Place) (r j : Nat), j < 64 * vPer typ →
    elemAt typ ((p.land l).getV r) j = (if r = d then ((f j).map (· % 2 ^ vWidth typ)).getD (elemAt typ (p.getV r) j) else elemAt typ (p.getV r) j) ∧
      (p.land l).getM r = p.getM r
/-- What a landing does to the masks: mask `d` becomes `m` (a write of `m0` is discarded); the registers stay. -/
def LandsMask (l : Landing) (d : Nat) (m : Word) : Prop :=
  ∀ (p : Place) (r : Nat), (p.land l).getM r = (if r = d ∧ r ≠ 0 then m else p.getM r) ∧ (p.land l).getV r = p.getV r
/-- The VE may issue the head command of `q0` in this ck (R275). -/
def VeReady (s : State) (h : Hdr) : Prop := HeadReady s 0 h ∧ s.here.veIssued = false
/-- The command issues: its slot is free, its wait subtracted, and one result is on its way that lands after `lat` ck
with its signal (R276). Nothing else changes. -/
def Issues (i : Instr) (s : State) (h : Hdr) (lat : Nat) (res : Landing → Prop) : Prop :=
  ∃ t l, exec i s = .next t ∧ SlotFreed s t 0 ∧ (∀ n, t.here.getSem n = semWaited s h n) ∧ t.here.landing = s.here.landing ++ [l] ∧
    t.here.veIssued = true ∧ l.rem = lat ∧ l.ssem = h.ssem ∧ l.sinc = h.sinc ∧ l.seq = headSeqOf s 0 ∧ l.poison = false ∧ SameData s t ∧ res l
/-- R221: one level of VRED's tree, and the identity and the operation of ROP. -/
def ropTree (f : Nat → Nat → Nat) (x : Nat → Nat) : Nat → Nat → Nat
  | 0, i => x i
  | n + 1, i => f (ropTree f x n (2 * i)) (ropTree f x n (2 * i + 1))
def ropScan (f : Nat → Nat → Nat) (x : Nat → Nat) : Nat → Nat → Nat
  | 0, i => x i
  | n + 1, i => if 2 ^ n ≤ i then f (ropScan f x n (i - 2 ^ n)) (ropScan f x n i) else ropScan f x n i
def ropNeutral (typ rop : Nat) : Nat :=
  if rop = 0 then 0
  else if typ = 0 then (if rop = 1 then 0x7F800000 else 0xFF800000)
  else vWrap typ (if rop = 1 then vGreatest typ else vLeast typ)
def ropOn (typ rop a b : Nat) : Nat :=
  if rop = 0 then (if typ = 0 then fp32.round 0 false ((fp32.dec a).add false (fp32.dec b)) else (a + b) % 2 ^ 32) else vPick typ 1 (rop = 2) a b
def ropInput (p : Place) (x : VR) (i : Nat) : Nat := if guardBit p x.msk i then laneAt (p.getV x.va) i else ropNeutral x.typ (2 * x.m1 + x.z)
/-- Lanes whose mask bit is set, ascending. -/
def setLanes (p : Place) (m : Nat) : List Nat := (List.range 64).filter (guardBit p m)
/-- 32 bits of the dense row of six-bit elements, from bit `32 i` (R209). -/
def denseLane (v : VReg) (i : Nat) : Nat :=
  (List.range 32).foldr (fun t a => (if v.getLsbD (8 * ((32 * i + t) / 6) + (32 * i + t) % 6) then 2 ^ t else 0) + a) 0
/-- R220: entry `i` of the table of group `g`. -/
def lutEntry (f : Fmt) (v : VReg) (typ g i : Nat) : Nat :=
  match ((List.range 4).filter fun j => i.testBit j).map fun j => f.dec (elemAt typ v (4 * g + j)) with
  | [] => 0
  | a :: r => fp32.round 0 false (r.foldl (Val.add false) a)
/-- R290 to R293, R297, R298: header, element type, destination, latency and elements of the rows that move lanes. -/
def vLaneRule (p : Place) (capv : Nat) : Instr → Option (Hdr × Nat × Nat × Nat × (Nat → Option Nat))
  | .vsel h x => some (h, 0, x.vd, 4, fun i => some (if guardBit p x.msk i then laneAt (p.getV x.va) i else bOperand p h 0 x.vb capv i))
  | .vred h x =>
    if x.typ < 14 then some (h, 0, x.vd, 10, fun i =>
      if i = 0 then some (ropTree (ropOn x.typ (2 * x.m1 + x.z)) (ropInput p x) 6 0) else none) else none
  | .vscan h x =>
    if x.typ < 14 then some (h, 0, x.vd, 10, fun i => some (ropScan (ropOn x.typ (2 * x.m1 + x.z)) (ropInput p x) 6 i)) else none
  | .vperm h x => some (h, 0, x.vd, 8, fun i => guardedBy p x.msk x.z i (laneAt (p.getV x.va) (laneAt (p.getV x.vb) i % 64)))
  | .vbcast h x => some (h, 0, x.vd, 4, fun i => guardedBy p x.msk x.z i (if h.cap = 1 then capv % 2 ^ 32 else laneAt (p.getV x.va) h.creg))
  | .viota h x => some (h, x.typ, x.vd, 4, fun j => guardedBy p x.msk x.z (j / vPer x.typ) ((capv + j) % 2 ^ vWidth x.typ))
  | .vpack h x =>
    if x.typ = 0 then some (h, 0, x.vd, 8, fun n => match (setLanes p x.msk)[n]? with
      | some i => some (laneAt (p.getV x.va) i)
      | none => if x.z = 1 then some 0 else none)
    else some (h, 0, x.vd, 8, fun i => if i < 48 then some (denseLane (p.getV x.va) i) else none)
  | .vunpk h x =>
    if x.typ = 0 then some (h, 0, x.vd, 8, fun i => guardedBy p x.msk x.z i (laneAt (p.getV x.va) ((setLanes p x.msk).filter (· < i)).length))
    else if x.typ = 5 ∨ x.typ = 6 then some (h, 13, x.vd, 8, fun j => some ((p.getV x.va >>> (6 * j)).toNat % 64))
    else none
  | .vmovc h vd lane pair => some (h, 0, vd, 4, fun i =>
      if i = lane then some (capv % 2 ^ 32) else if pair = 1 ∧ i = lane + 1 then some (capv / 2 ^ 32) else none)
  | .vtbld h sel typ vd va =>
    if typ < 14 then some (h, 0, vd, 6, fun i => some (lutEntry ((vFormat typ).getD fp32) (p.getV va) typ (4 * sel + i / 16) (i % 16))) else none
  | _ => none
/-- R290: COND on two elements; an unordered compare answers M1. -/
def vHolds (typ cond m1 a b : Nat) : Bool :=
  match vFormat typ with
  | some f =>
    if (f.dec a).isNan || (f.dec b).isNan then m1 == 1
    else match cond with
      | 0 => !(f.dec a).lt (f.dec b) && !(f.dec b).lt (f.dec a)
      | 1 => (f.dec a).lt (f.dec b) || (f.dec b).lt (f.dec a)
      | 2 => (f.dec a).lt (f.dec b)
      | _ => !(f.dec b).lt (f.dec a)
  | none => match cond with
    | 0 => vNum typ a == vNum typ b
    | 1 => vNum typ a != vNum typ b
    | 2 => decide (vNum typ a < vNum typ b)
    | _ => decide (vNum typ a ≤ vNum typ b)
/-- R297: the value of VMSK. -/
def maskValue (p : Place) (capv ma mb : Nat) : Nat → Word
  | 0 => p.getM ma &&& p.getM mb
  | 1 => p.getM ma ||| p.getM mb
  | 2 => p.getM ma ^^^ p.getM mb
  | 3 => p.getM ma &&& ~~~p.getM mb
  | 4 => BitVec.ofNat 64 capv
  | _ => if 64 ≤ capv then BitVec.allOnes 64 else BitVec.ofNat 64 (2 ^ capv - 1)

-- ## Conversions of vectors

/-- The stream after `n` values (R213, R214). -/
def streamAfter (r : Nat) : Nat → Nat
  | 0 => r
  | n + 1 => nextRandom (streamAfter r n)
/-- R210 to R213: an element of type `st` as one of type `dt`, by RNE or with a stream value. -/
def vConvert (st dt : Nat) (sat : Bool) (nd : Option Nat) (x : Nat) : Nat :=
  let into (g : Fmt) (v : Val) : Nat := match nd with
    | some n => g.roundSr n sat v
    | none => g.round 0 sat v
  match vFormat st, vFormat dt with
  | some f, some g => if st = dt then (if (f.dec x).isNan then f.nan else x) else into g (f.dec x)
  | some f, none => vWrap dt ((f.dec x).toRange 0 (vLeast dt) (vGreatest dt))
  | none, some g => into g (intVal (vNum st x))
  | none, none => vWrap dt (vSat dt (vNum st x))
/-- Conversions of a VCVT that are enabled up to element `j`, itself among them. -/
def enabledTo (p : Place) (msk kw j : Nat) : Nat := ((List.range (j + 1)).filter fun i => guardBit p msk (i / kw)).length
/-- R286: the converted element at position `d` of the destination. -/
def vcvtAt (p : Place) (x : VC) (d : Nat) : Option Nat :=
  let st := x.vb / 2
  let ks := vPer st
  let kd := vPer x.typ
  let kw := min ks kd
  let n := 64 * kw
  let j := if ks < kd then d - x.part * n else d
  if (ks < kd ∧ d < x.part * n) ∨ n ≤ j then none
  else guardedBy p x.msk x.z (j / kw) (vConvert st x.typ (x.x1 = 1)
    (if x.sr = 1 then some (streamAfter p.vesr (enabledTo p x.msk kw j)) else none) (elemAt st (p.getV x.va) (if kd < ks then j + x.part * n else j)))
/-- R288: the value of a block scale, and the dequantised lane. -/
def scaleOf (scf b : Nat) : Val := if scf = 0 then (if b = 255 then .nan else .num false 1 ((b : Int) - 127)) else e4m3.dec b
def vdqntAt (p : Place) (x : VC) (j : Nat) : Option Nat :=
  let block := if x.x1 = 1 then 16 else 32
  let scale := laneAt (p.getV x.vb) x.part / 2 ^ (8 * (j / block)) % 256
  guardedBy p x.msk x.z j (fp32.round 0 false ((((vFormat x.typ).getD e4m3).dec (elemAt x.typ (p.getV x.va) (64 * x.part + j))).mul (scaleOf x.x2 scale)))
/-- R287: scale byte and factor of block `b` (none when it holds a NaN or an infinity), the stream values taken before
element `j`, and the quantised element. -/
def blockOf (x : VC) : Nat := if x.x1 = 1 then 16 else 32
def vqntScale (p : Place) (x : VC) (b : Nat) : Option (Nat × Val) :=
  blockScale x.typ x.x2 ((List.range (blockOf x)).map fun i => laneAt (p.getV x.va) (b * blockOf x + i))
def vqntTaken (p : Place) (x : VC) (j : Nat) : Nat := ((List.range j).filter fun i => (vqntScale p x (i / blockOf x)).isSome).length
def vqntElem (p : Place) (x : VC) (j : Nat) : Nat :=
  match vqntScale p x (j / blockOf x) with
  | none => 0
  | some (_, f) =>
    let q := (fp32.dec (laneAt (p.getV x.va) j)).div f
    let g := (vFormat x.typ).getD e4m3
    if x.sr = 1 then g.roundSr (streamAfter p.vesr (vqntTaken p x j + 1)) true q else g.round 0 true q
def vqntByte (p : Place) (x : VC) (b : Nat) : Nat :=
  if 64 / blockOf x ≤ b then 0 else ((vqntScale p x b).map (·.1)).getD (if x.x2 = 0 then 0xFF else 0x7F)
/-- R299: lane `i` of register `k` of the merged triple. -/
def smxLane (t : Triple) (d k i : Nat) : Nat :=
  if k = 0 then (if i = 0 then t.m else if i = 1 then t.l else 0)
  else if 64 * (k - 1) + i < d then t.o.getD (64 * (k - 1) + i) 0 else 0
def tripleOf (p : Place) (base d : Nat) : Triple :=
  ⟨laneAt (p.getV base) 0, laneAt (p.getV base) 1, (List.range d).map fun i => laneAt (p.getV (base + 1 + i / 64)) (i % 64)⟩

-- ## Vector memory commands

/-- Mask, address and register of the lanes of a memory command (R294, R295). -/
def vmAddr (capv : Nat) (x : VM) (i : Nat) : Nat :=
  (BitVec.ofNat 64 capv + 16 * (BitVec.ofNat 15 x.disp).signExtend 64 + BitVec.ofNat 64 (4 * i)).toNat
def vxAddr (p : Place) (capv : Nat) (x : VX) (i : Nat) : Nat :=
  (BitVec.ofNat 64 capv + ((BitVec.ofNat 32 (laneAt (p.getV x.vi) i)).signExtend 64 <<< x.sc)).toNat
structure LaneAccess where
  hdr : Hdr
  store : Bool
  reg : Nat
  msk : Nat
  addr : Nat → Nat
def laneAccess (p : Place) (capv : Nat) : Instr → Option LaneAccess
  | .vld h x => if x.as = 1 then some ⟨h, false, x.vr, x.msk, vmAddr capv x⟩ else none
  | .vst h x => if x.as = 1 then some ⟨h, true, x.vr, x.msk, vmAddr capv x⟩ else none
  | .vldx h x => if x.as = 1 then some ⟨h, false, x.vr, x.msk, vxAddr p capv x⟩ else none
  | .vstx h x => if x.as = 1 then some ⟨h, true, x.vr, x.msk, vxAddr p capv x⟩ else none
  | _ => none
/-- Memory commands of the tile's VE that are outstanding (R275). -/
def outstanding (s : State) : Nat := (s.here.landing.filter fun l => !l.addrs.isEmpty).length
/-- The lane is enabled. -/
def LaneAccess.on (x : LaneAccess) (p : Place) (i : Nat) : Prop := i < 64 ∧ guardBit p x.msk i = true

-- ## Matrix engine

/-- A header pointer of a command (R306): half-word `k` of the captured value in units of 32, or the active copy's. -/
def pointer (s : State) (h : Hdr) (k idx : Nat) : Nat :=
  if h.cap = 1 then 32 * (headCapOf s 1 / 2 ^ (16 * k) % 2 ^ 16) else (fget 0 s.here.mcActive (8 + idx)).toNat
def headerAt (s : State) (o : Nat) : Hd := ⟨s.here.spNum o 32⟩
/-- Nothing disturbs a reading engine: no mapped region, no poisoned word, and no B-store row that it may not read. -/
def Undisturbed (s : State) : Prop :=
  s.here.maps = [] ∧ s.here.spPoison = [] ∧ s.here.tb = none ∧ ∀ row col, (s.bstWord s.cur s.here.vf row col).2 = none
/-- `w` bits of scratchpad from bit `b` after the byte `o` (R209). -/
def spBitsOf (p : Place) (o b w : Nat) : Nat := p.spNum (o + b / 8) ((b % 8 + w + 7) / 8) / 2 ^ (b % 8) % 2 ^ w
/-- R216, R218: element (r, c) of a scratchpad operand, with its block scale, and the scale of the whole tile. -/
def operandVal (p : Place) (h : Hd) (r c : Nat) : Val :=
  let line := if h.layout = 0 then r else c
  let i := if h.layout = 0 then c else r
  let v := ((vFormat h.elem).getD fp32).dec (spBitsOf p (h.data + line * h.pitch) (h.width * i) h.width)
  if h.scaled then v.mul (scaleOf h.scfmt (p.spByte (h.scloc + line * h.scpitch + i / h.blk)).toNat) else v
def tileScale (h : Hd) : Val := if 2 ≤ h.scmode then fp32.dec h.tscale else fp32.dec 0x3F800000
/-- R302: the bit string of chunk `q` of column `j`, whose words the B-store delivers. -/
def bString (s : State) (h : Hd) (ns k j q : Nat) : Nat :=
  let wpc := wpcOf h.elem k
  (List.range wpc).foldl (fun a w =>
    a + numOf (s.bstWord s.cur s.here.vf (h.data / 1024 + (j / (64 * ns) * h.chunks + q) * ns * wpc + j % ns * wpc + w) (j % (64 * ns) / ns)).1 * 2 ^ (128 * w)) 0
def bVal (s : State) (h : Hd) (ns j k : Nat) : Val :=
  let ch := chunkOf h.elem
  let v := ((vFormat h.elem).getD fp32).dec (bString s h ns 1 j (k / ch) / 2 ^ (h.width * (k % ch)) % 2 ^ h.width)
  if h.scaled then v.mul (scaleOf h.scfmt (s.here.spByte (h.scloc + j * h.scpitch + k / h.blk)).toNat) else v
/-- R219: the terms of one chunk of a product of `n` factors, for row `ra` of A from column `k` and column `j` of B from row `kb`. -/
def productTerms (s : State) (a b : Hd) (ns ra k kb j n : Nat) : List Val :=
  (List.range n).map fun x => ((operandVal s.here a ra (k + x)).mul (bVal s b ns j (kb + x))).mul ((tileScale a).mul (tileScale b))
/-- R308: an accumulator over the chunks of `ke` K indices, with the K origins `k` in A and `kb` in B, from the value that it
starts with. -/
def productSum (s : State) (a b : Hd) (ns ra k kb j ke start : Nat) : Nat :=
  let ch := chunkOf b.elem
  (List.range ((ke + ch - 1) / ch)).foldl (fun x q => accumulate x (productTerms s a b ns ra (k + q * ch) (kb + q * ch) j (min ch (ke - q * ch)))) start
/-- R220, R311: the terms of MLUT's chunk of `n` weights from row `b0` of B, the window's K origins being `ac` in A and `br` in
B. -/
def lookupTerms (s : State) (a b : Hd) (ns k g i ac br j b0 n : Nat) : List Val :=
  let x := bString s b ns k j (b0 / 128)
  let par := b.scloc + j * b.scpitch + 8 * (b0 / g)
  let sigma := fp32.dec (s.here.spNum par 4)
  let beta := fp32.dec (s.here.spNum (par + 4) 4)
  let entry (grp e : Nat) : Val := operandVal s.here a i (4 * ac + 16 * (grp - br / 4) + e)
  let part (grp : Nat) (keep : Nat → Bool) : Nat :=
    (List.range 4).foldl (fun m t => if b0 ≤ 4 * grp + t ∧ 4 * grp + t < b0 + n ∧ keep (4 * grp + t) = true then m + 2 ^ t else m) 0
  (List.range ((b0 + n + 3) / 4 - b0 / 4)).flatMap fun d =>
    let grp := b0 / 4 + d
    (List.range k).map (fun (p : Nat) => (sigma.mul (.num false 1 (p : Int))).mul (entry grp (part grp fun e => x.testBit (128 * p + e % 128)))) ++
      [beta.mul (entry grp (part grp fun _ => true))]
def lookupSum (s : State) (a b : Hd) (ns k g i ac br j ke start : Nat) : Nat :=
  let cut := min 128 g
  (List.range ((ke + cut - 1) / cut)).foldl (fun x q =>
    accumulate x (lookupTerms s a b ns k g i ac br j (br + q * cut) (min cut (ke - q * cut)))) start
/-- R301: the accumulator entry of row `i` and column `j`, and the value that a command finds there. -/
def accEntry (ns i j : Nat) : Nat := 256 * (j / ns) + i * ns + j % ns
def accStart (s : State) (z n : Nat) : Nat := if z = 1 then 0 else s.here.accAt n
/-- The command completed, and accumulators `upd` names have their new value, the others their old one or with Z zero. -/
def Accumulates (s t : State) (h : Hdr) (z : Nat) (upd : Nat → Option Nat) : Prop :=
  CommandDone s t 1 h ∧ t.mem = s.mem ∧ (∀ r, t.g r = s.g r) ∧ (∀ k, t.here.spByte k = s.here.spByte k) ∧
    ∀ n, t.here.accAt n = (upd n).getD (accStart s z n)
/-- R313: one drained element before its conversion, and its bits under RNE. -/
def drainValue (scale act bias : Nat) (c : Option Nat) (acc : Nat) : Nat :=
  let x := fp32.round 0 false ((fp32.dec acc).mul (fp32.dec scale))
  activation act (match if bias = 1 then c else none with
    | some b => fp32.round 0 false ((fp32.dec x).add false (fp32.dec b))
    | none => x)
def drainBits (o : Hd) (sr sat nd : Nat) (x : Nat) : Nat :=
  let f := (vFormat o.elem).getD fp32
  let v := if o.scmode = 3 then (fp32.dec x).div (fp32.dec o.tscale) else fp32.dec x
  if o.elem = 0 ∧ o.scmode ≠ 3 then (if (fp32.dec x).isNan then 0x7FC00000 else x)
  else if sr = 1 then f.roundSr nd (sat = 1) v else f.round 0 (sat = 1) v
/-- R216: where element (r, c) of a scratchpad operand begins, in bits, its bits, and one bit of the scratchpad. -/
def elemBit (o : Hd) (r c : Nat) : Nat :=
  8 * (o.data + (if o.layout = 0 then r else c) * o.pitch) + o.width * (if o.layout = 0 then c else r)
def elemOut (p : Place) (o : Hd) (r c : Nat) : Nat := spBitsOf p (elemBit o r c / 8) (elemBit o r c % 8) o.width
def spBit (p : Place) (b : Nat) : Bool := (p.spByte (b / 8)).getLsbD (b % 8)
/-- R313: a drain of `n` accumulator rows, of which row `i` goes to row `row i` of the output if it has one, and of `cols`
columns from column `c0` of the output; `v i j` is a drained value. Rows are written in ascending order, each element takes the
next value of the ME stream under SR, and nothing else of the scratchpad changes. -/
def DrainWrites (s t : State) (o : Hd) (sr sat n cols c0 : Nat) (row : Nat → Nat) (v : Nat → Nat → Nat) : Prop :=
  let before (i : Nat) : Nat := ((List.range i).filter fun k => decide (row k < o.rows)).length
  (∀ i j, i < n → row i < o.rows → (∀ i', i < i' → i' < n → row i' ≠ row i) → j < cols →
    elemOut t.here o (row i) (c0 + j) = drainBits o sr sat (streamAfter s.here.mesr (cols * before i + j + 1)) (v i j)) ∧
  (∀ b, (∀ i j, i < n → row i < o.rows → j < cols → b < elemBit o (row i) (c0 + j) ∨ elemBit o (row i) (c0 + j) + o.width ≤ b) →
    spBit t.here b = spBit s.here b) ∧
  t.here.mesr = if sr = 1 then streamAfter s.here.mesr (cols * before n) else s.here.mesr
/-- The bias of column `j` as FP32. -/
def biasAt (p : Place) (c : Hd) (j : Nat) : Nat :=
  fp32.round 0 false (((vFormat c.elem).getD fp32).dec (spBitsOf p c.data (c.width * j) c.width))
/-- R316: an origin of a point, from the step fields that begin at bit `lo` of its levels' LSTP. -/
def originOf (m : FMap Word) (p : List Nat) (lo : Nat) : Int :=
  ((List.range p.length).map fun l => (p.getD l 0 : Int) * (8 * ((fget 0 m (0x18 + l)).extractLsb' lo 10).toInt)).sum
/-- R308: what a body does to accumulator (i, j) of a window with the origins of `o`, for the rows and columns that lie in
it. -/
def bodySum (s : State) (kind : Kind) (a b : Hd) (ns tm tn tk : Nat) (o : Orig) (i j start : Nat) : Option Nat :=
  let ka := match kind with
    | .mlut _ _ => a.cols / 4
    | _ => a.cols
  let ke := min tk (min (ka - o.ac) (b.rows - o.br))
  if min tn (b.cols - o.bc) ≤ j then none
  else match kind with
    | .mmul => if i < min tm (a.rows - o.ar) then some (productSum s a b ns (o.ar + i) o.ac o.br (o.bc + j) ke start) else none
    | .mgath il => if i < tm ∧ il.getD i 0xFFFF ≠ 0xFFFF then some (productSum s a b ns (il.getD i 0) o.ac o.br (o.bc + j) ke start) else none
    | .mlut k g => if i < min tm (a.rows - o.ar) then some (lookupSum s a b ns k g (o.ar + i) o.ac o.br (o.bc + j) ke start) else none

-- ## Copies, gathers, transfers and stacks

/-- The state in which a head command of `q` makes its checks: its wait is subtracted. -/
def begun (s : State) (q : Nat) (h : Hdr) : State :=
  (s.setEngq s.cur q { s.engq s.cur q with since := none }).modHere fun t => { t.takeWait q h with met := none }
/-- The command as an agent of memory. -/
def agentOf (s : State) (q : Nat) : Acc := ⟨s.cur, s.here.asid, s.here.vf, s.here.ctx, some q, headSeqOf s q⟩
/-- R325: offset of a command's descriptor, and the descriptor of `n` bytes with the engine's FORM. -/
def descAt (s : State) (q : Nat) (h : Hdr) (doff : Nat) : Nat := if h.cap = 1 then headCapOf s q else 32 * doff
def HasDesc (s : State) (q : Nat) (h : Hdr) (doff n form w : Nat) : Prop :=
  HeadReady s q h ∧ s.here.maps = [] ∧ s.here.spPoison = [] ∧ s.here.tb = none ∧ descAt s q h doff % 32 = 0 ∧ descAt s q h doff + n ≤ 0x180000 ∧
    w = s.here.spNum (descAt s q h doff) n ∧ w % 16 = form
/-- A descriptor whose unused bits are zero: the fields named by their bounds are the only ones set. -/
def OnlyFields (w n : Nat) (l : List (Nat × Nat)) : Prop := ∀ i, 4 ≤ i → i < n → w.testBit i = true → ∃ f ∈ l, f.2 ≤ i ∧ i ≤ f.1
/-- A range of `n` bytes lies in scratchpad; two ranges have no byte in common. -/
def Inside (o n : Nat) : Prop := n = 0 ∨ o + n ≤ 0x180000
def Apart (a n b m : Nat) : Prop := n = 0 ∨ m = 0 ∨ a + n ≤ b ∨ b + m ≤ a
/-- The copy has started: what it keeps, its promised tick `tick` + `ticks` (R337), and its slot that stays. -/
def CopyStarts (i : Instr) (s : State) (h : Hdr) (desc : List Nat) (ticks : Nat) : Prop :=
  ∃ t, exec i s = .next t ∧ (t.engq s.cur 2).cur =
      some ⟨headSeqOf s 2, s.headWord s.cur 2, BitVec.ofNat 64 (headCapOf s 2), (s.tick + ticks) % 2 ^ 64, false, desc, none⟩ ∧
    ringOf t 2 = ringOf s 2 ∧ (∀ n, t.here.getSem n = semWaited s h n) ∧ t.here.async = s.here.async ∧ SameData s t
/-- R337: c and X of a global granule by its tier, of the granules of an end of `n` bytes at `o`, and the ticks of a command from
the bytes and the ends of its moves. -/
def granTier (s : State) (asid g : Nat) : Nat :=
  match s.granAt asid (8192 * g) with
  | some (_, p) => if p.st = 0 then p.tier else 3
  | none => match s.vaPa asid (8192 * g) with
    | some pa => tierOf pa
    | none => 3
def tierCost (tier : Nat) : Nat × Nat := if tier ≤ 1 then (1, 0) else if tier = 2 then (3, 1000) else (6, 3000)
def endCosts (s : State) (sp : Bool) (o n : Nat) : List (Nat × Nat) :=
  (1, 0) :: if sp ∨ n = 0 then [] else (List.range ((o + n - 1) / 8192 + 1 - o / 8192)).map fun g => tierCost (granTier s s.here.asid (o / 8192 + g))
def ticksOf (l : List (Nat × List (Nat × Nat))) : Nat :=
  300 + (l.flatMap fun m => m.2.map (·.2)).foldl max 0 + (l.map fun m => (m.2.map (·.1)).foldl max 0 * ((m.1 + 127) / 128)).sum
/-- Rows of an end: base and bytes. -/
def rowRanges (o pitch rows len : Nat) : List (Nat × Nat) := (List.range rows).map fun r => (o + r * pitch, len)
/-- A head command of `q` may use the ranges of an end: bytes of scratchpad, or bytes below 2^56 that its page tables permit and, for a
read, that are not poisoned (R326). -/
def Usable (s : State) (q : Nat) (h : Hdr) (sp : Bool) (nd : Need) (l : List (Nat × Nat)) : Prop :=
  ∀ e ∈ l, if sp then Inside e.1 e.2 else (e.2 = 0 ∨ e.1 + e.2 ≤ 2 ^ 56) ∧ Passes (permOk (agentOf s q) e.1 e.2 nd) (begun s q h) ∧
    (nd = .r → Passes (poisonOk (agentOf s q) e.1 e.2) (begun s q h))
/-- An access of a command that keeps its progress beside it: it does not depend on the progress. -/
def Acts {α} (m : M α) (s u : State) (x : α) : Prop :=
  ∀ p, m.run { s with progress := p } = .ok x { u with progress := p }
/-- A row of `data` is moved part by part from `src` to `dst`: of each part, an offset and a length, first what its source has left
to the end of an aligned element of 8 bytes is read, then the part is written (R122, R330). -/
def RowMoves (rd : Nat → Nat → M (List Byte)) (wr : Nat → List Byte → M Unit) (src dst : Nat) (data : List Byte) :
    List (Nat × Nat) → Nat → State → State → Prop
  | [], _, s, t => t = s
  | (o, m) :: r, e, s, t =>
    let e' := min data.length (o + m + (8 - (src + (o + m)) % 8) % 8)
    ∃ u v, Acts (rd (src + e) (e' - e)) s u ((data.drop e).take (e' - e)) ∧ Acts (wr (dst + o) ((data.drop o).take m)) u v ⟨⟩ ∧
      RowMoves rd wr src dst data r e' v t
/-- What a copy does one after the other: a row that is moved unless its condition says to skip it, or one access. -/
inductive Job where
  | row (skip : M Bool) (rd : Nat → Nat → M (List Byte)) (wr : Nat → List Byte → M Unit) (src dst n : Nat)
  | act (m : M Unit)
def Does : List Job → State → State → Prop
  | [], s, t => t = s
  | .act m :: r, s, t => ∃ u, Acts m s u ⟨⟩ ∧ Does r u t
  | .row skip rd wr src dst n :: r, s, t => ∃ b u v, Acts skip s u b ∧ (b = true → v = u) ∧
      (b = false → ∃ data : List Byte, data.length = n ∧ RowMoves rd wr src dst data (rowParts dst n) 0 u v) ∧ Does r v t
/-- The started command goes on as this agent, from this state, and in `u` nothing is left that delays or changes its end. -/
def goesOnAs (s : State) (f : InFlight) : Acc := s.cmdAcc s.cur 2 f.seq
def goingOn (s : State) (f : InFlight) : State := s.modHere fun p => { p with met := f.met }
def Ends (s u : State) (h : Hdr) : Prop :=
  u.cur = s.cur ∧ u.here.met = none ∧ SignalFits u { h with wneed := 0 } ∧ ∀ w ∈ u.held, ∀ e ∈ w.prov, e.2.queue ≠ some 2
/-- The chain of scatter-gather elements at `o` of scratchpad (R331). -/
def Chain (s : State) : Nat → List Nat → Prop
  | _, [] => False
  | o, [w] => o + 32 ≤ 0x180000 ∧ w = s.here.spNum o 32 ∧ Sge.next ⟨w⟩ = 0xFFFF
  | o, w :: r => o + 32 ≤ 0x180000 ∧ w = s.here.spNum o 32 ∧ Sge.next ⟨w⟩ ≠ 0xFFFF ∧ Chain s (32 * Sge.next ⟨w⟩) r
/-- A started copy of which nothing is done yet, with what it keeps from its start. -/
def CopyStarted (s : State) (f : InFlight) (desc : List Nat) : Prop :=
  isTile s.cur = true ∧ (s.engq s.cur 2).cur = some f ∧ f.desc = desc ∧ f.killed = false ∧ f.met = none ∧ s.progress = [] ∧
    ∀ h ∈ s.held, ∀ e ∈ h.prov, e.2.queue ≠ some 2
/-- Nothing disturbs its accesses of scratchpad. -/
def CopyRuns (s : State) (f : InFlight) (desc : List Nat) : Prop :=
  CopyStarted s f desc ∧ s.here.maps = [] ∧ s.here.spPoison = [] ∧ s.here.tb = none
/-- The copy has completed with its signal. -/
def CopyDone (s t : State) (h : Hdr) : Prop := CommandDone s t 2 { h with wneed := 0 } ∧ SameButSp s t
/-- The bytes of scratchpad: `upd` where it answers, else as before. -/
def SpIs (s t : State) (upd : Nat → Option Byte) : Prop := ∀ k, t.here.spByte k = (upd k).getD (s.here.spByte k)
/-- Row `r` and byte `b` of an address in rows of `len` bytes at a pitch. -/
def rowByte (o pitch rows len k : Nat) : Option (Nat × Nat) :=
  (List.range rows).findSome? fun r => if o + r * pitch ≤ k ∧ k < o + r * pitch + len then some (r, k - (o + r * pitch)) else none
/-- Rows that do not overlap. -/
def RowsApart (pitch rows len : Nat) : Prop := rows ≤ 1 ∨ len ≤ pitch
/-- A GE command (R339): the index of entry `i`, and the address of the row that it names. -/
def indexAt (s : State) (d : Gd) (i : Nat) : Nat := s.here.spNum (d.ioff + d.ib * i) d.ib
def isVoid (d : Gd) (e : Nat) : Prop := e + 1 = 2 ^ (8 * d.ib)
def rowOf (d : Gd) (e : Nat) : Nat := d.base + e * d.rowb
/-- The descriptor of an index command on scratchpad rows that passes its checks, the command beginning (R338, R339). -/
def IndexReady (s : State) (d : Gd) : Prop :=
  s.progress = [] ∧ d.rsv = 0 ∧ d.nidx ≠ 0 ∧ 1 ≤ d.rowb ∧ d.rowb ≤ 4096 ∧ d.bas = true ∧ d.ioff % d.ib = 0 ∧ Inside d.ioff (d.ib * d.nidx) ∧
    Inside d.coff (d.rowb * d.nidx) ∧ ∀ i < d.nidx, ¬ isVoid d (indexAt s d i) → indexAt s d i < d.lim ∧ Inside (rowOf d (indexAt s d i)) d.rowb ∧
      Apart d.coff (d.rowb * d.nidx) (rowOf d (indexAt s d i)) d.rowb
/-- R338: the size and the sum of an element type. -/
def elemBytes (etyp : Nat) : Nat := if etyp = 2 then 2 else if etyp = 3 then 8 else 4
def elemSum (etyp x y : Nat) : Nat :=
  match etyp with
  | 0 => (x + y) % 2 ^ 32
  | 1 => fp32.round 0 false ((fp32.dec x).add false (fp32.dec y))
  | 2 => bf16.round 0 false ((bf16.dec x).add false (bf16.dec y))
  | _ => (x + y) % 2 ^ 64
/-- An LE command is in flight: its message is on its way and its slot stays (R343 to R345). -/
def LinkSends (i : Instr) (s : State) (h : Hdr) (m : PeerMsg) : Prop :=
  ∃ t, exec i s = .next t ∧ t.peers = s.peers ++ [m] ∧
    (t.engq s.cur 4).cur = some ⟨headSeqOf s 4, s.headWord s.cur 4, BitVec.ofNat 64 (headCapOf s 4), 0, false, [], none⟩ ∧ ringOf t 4 = ringOf s 4 ∧
    (∀ n, t.here.getSem n = semWaited s h n) ∧ t.here.async = s.here.async ∧ SameData s t
/-- Peer, ranges and barrier of an LE descriptor pass R342. -/
def LinkReady (s : State) (d : Ld) : Prop :=
  d.rsv = 0 ∧ d.peer < 2 ^ 40 ∧ d.peer / 2 ^ 30 = s.pkgNum ∧ Inside d.loff d.len ∧ Inside (d.peer % 2 ^ 21) d.len ∧
    (d.bv = true → d.bar % 8 = 0 ∧ Inside d.bar 8)
def linkMessage (s : State) (d : Ld) (kind : PeerKind) (data : List Byte) : PeerMsg :=
  { pkg := s.pkgNum, tile := s.cur, vf := s.here.vf, ctx := s.here.ctx, kind := kind, toTile := d.peer / 2 ^ 21 % 512, offset := d.peer % 2 ^ 21
    loff := d.loff, data := data, len := d.len, bar := if d.bv then some d.bar else none, queue := some (4, headSeqOf s 4) }
/-- A command of an engine has completed from `u`, in which its checks and effect have left the machine. -/
def Finished (i : Instr) (s u : State) (q : Nat) (h : Hdr) (upd : Nat → Option Byte) : Prop :=
  ∃ t, exec i s = .next t ∧ CommandDone u t q { h with wneed := 0 } ∧ SameButSp u t ∧ SpIs u t upd
/-- Nothing is left to disturb a command in the state that its memory accesses leave, and none of its writes is held. -/
def Calm (s u : State) (q : Nat) (h : Hdr) : Prop :=
  u.cur = s.cur ∧ agentOf u q = agentOf s q ∧ u.here.maps = [] ∧ u.here.spPoison = [] ∧ u.here.tb = none ∧ u.here.met = none ∧
    SignalFits u { h with wneed := 0 } ∧ (∀ w ∈ u.held, ∀ e ∈ w.prov, e.2.queue ≠ some q) ∧ ∀ k, u.here.spByte k = s.here.spByte k
/-- The command of the stack engine that begins in `s` is under way from `u` on, with the Root units' writes that are left to
it. -/
def underWay (s u : State) (plan : List RootOp) : State :=
  (u.setEngq u.cur 5 { u.engq u.cur 5 with
      cur := some ⟨headSeqOf s 5, s.headWord s.cur 5, BitVec.ofNat 64 (headCapOf s 5), 0, false, plan.flatMap RootOp.code, none⟩ }).modHere
    fun t => { t.stepped 5 true with met := none }
/-- The Root units make the writes of a plan in their order, from the state in which the command is under way to `u'` (R129). -/
def RootWrites (s u u' : State) (plan : List RootOp) : Prop :=
  (rootWrites (agentOf s 5) (plan.flatMap RootOp.code)).run (underWay s u plan) = .ok ⟨⟩ u'
/-- The query of an SE command: D values of FP32 at QOFF (R351). -/
def queryOf (s : State) (d : Sd) (dim : Nat) : List Nat := (List.range dim).map fun i => s.here.spNum (d.qoff + 4 * i) 4
/-- Bytes `bs` at `o`. -/
def bytesAt (o : Nat) (bs : List Byte) (k : Nat) : Option Byte := if o ≤ k then bs[k - o]? else none
/-- The entries of a layer's pages are read in their order, and each page's byte is taken from what the page granule directory then
holds of it (R356). -/
def ProbeReads (a : Acc) (k : Kvd) (layer : Nat) : List Nat → List Nat → State → State → Prop
  | [], [], s, t => t = s
  | p :: ps, b :: bs, s, t => ∃ e u, (readBte a (k.bte layer p)).run s = .ok e u ∧
      b = (match pageOf e with
        | some va => probeByte ((List.range 8).filterMap fun j => (u.granAt a.asid (va + 8192 * j)).map (·.2))
        | none => 0) ∧ ProbeReads a k layer ps bs u t
  | _, _, _, _ => False

-- ## Events of the memory system

/-- The head request of a command ring whose registers stand at `g`: `len` bytes at `pa`, which no cache holds (R17, R106). -/
def HeadRequest (s : State) (g len pa w : Nat) : Prop :=
  let cons := s.regBits (g + 0x18) 31 0
  4 ≤ s.regBits (g + 8) 4 0 ∧ s.regBits (g + 8) 4 0 ≤ 16 ∧ s.regBits (g + 0x10) 31 0 ≠ cons ∧
    pa = s.regBits g 51 6 * 64 + len * (cons % 2 ^ s.regBits (g + 8) 4 0) ∧ s.populated pa = true ∧ s.reverse pa = none ∧ w = s.memNum pa len
/-- The request has completed: its STATUS byte is written, and CONS has advanced. -/
def RequestDone (s t : State) (g pa status : Nat) : Prop :=
  t.memByte pa = BitVec.ofNat 8 status ∧ t.regBits (g + 0x18) 31 0 = (s.regBits (g + 0x18) 31 0 + 1) % 2 ^ 32
def mapInstr (op mtu : Nat) : Instr := if op = 0 then .map mtu else if op = 1 then .unmap mtu else if op = 2 then .destroy mtu else .protect mtu
/-- R23: HOME, PATH and PLACED of a region's first mapping. -/
def firstPlace (r : MapReq) : Nat × Nat × Bool :=
  if r.absent then (r.va / 2 ^ 21 % 4, r.va / 2 ^ 13 % 2, false)
  else if inDev r.frame then (r.va / 2 ^ 21 % 4, 2, true)
  else if inHbm r.frame then (stackOf r.frame / 2, stackOf r.frame % 2, true)
  else if mtuOf r.frame = 8 then (r.va / 2 ^ 21 % 2, 2, true) else (2 + r.va / 2 ^ 21 % 2, 2, true)
/-- The ASID of the page that a request names, none for a global page. -/
def pageTag (r : MapReq) : Option Nat := if r.pte.testBit 56 then none else some r.asid
/-- The status that refuses a request before its frame is looked at, in the order of R18. -/
def mapRefused (s : State) (r : MapReq) : Option Nat :=
  let p := s.path r.asid r.va r.size
  if s.badReq r then some 5
  else if r.op = 0 then
    (if p.2.2.testBit 0 then some 6 else if 1 < p.1 - r.size ∨ (p.1 - r.size = 1 ∧ r.newtab = 0) then some 4 else none)
  else if p.2.2 % 4 = 3 ∧ p.1 = r.size then none else some 7
/-- A MAP that meets a region of other permissions, or with pages of the other kind, own or global (R20). -/
def mixes (s : State) (r : MapReq) : Prop :=
  ∃ v ∈ r.regions, (∃ x, fget? s.regions (regionCode (pageTag r) v) = some x ∧ x.perm.list ≠ ptePerms r.pte) ∨
    (pageTag r = none ∧ fget? s.regions (regionCode (some r.asid) v) ≠ none) ∨ (pageTag r ≠ none ∧ s.mapsGlobal r.asid v = true)
/-- Only the byte at `pa` and the `n` bytes at `ea` have changed in memory. -/
def MemBut (s t : State) (pa ea n : Nat) : Prop := ∀ a, a ≠ pa → (a < ea ∨ ea + n ≤ a) → t.memByte a = s.memByte a
/-- A request that a map ring's head completes on an 8 KiB page whose entry stands at `ea` and holds `e`. -/
def PageRequest (s : State) (mtu pa : Nat) (r : MapReq) (ea e : Nat) : Prop :=
  HeadRequest s (mapGroup mtu) 32 pa r.w ∧ r.size = 0 ∧ s.badReq r = false ∧ s.path r.asid r.va 0 = (0, ea, e) ∧ Apart pa 1 ea 8
/-- The entries of caches and directory for a line are kept under its own name. -/
def KeyedAt (s : State) (k : LineKey) : Prop := (∀ t, (s.l1 t k).key = k) ∧ (s.dir k).key = k ∧ ∀ h, s.homeLine k = some h → h.key = k
/-- The line's directory entry, its home-partition line and its L1 line of a tile need no victim, and its home die is not gated
(R53, R57, R59, R83). -/
def HasDir (s : State) (k : LineKey) : Prop := s.dirs.length + s.hosts.length < 16 ∨ fget? s.dirs (lineCode k) ≠ none
def HasHome (s : State) (k : LineKey) : Prop := (s.homeLine k ≠ none ∨ s.openWay k ≠ none) ∧ s.homeDie k ∉ s.gated
def HasL1 (s : State) (tile : Nat) (k : LineKey) : Prop := (s.place tile).l1.length < 8 ∨ (s.l1 tile k).present = true
/-- The home directory may serve a request for the line of `h`, whose frame the host holds no copy of: no grant is on its way, its
window is not about to close, no owner hides it, no held write of it waits, and no skim is on its way to the die of the tile (R61, R62, R112). -/
def Serves (s : State) (tile : Nat) (k : LineKey) (h : HomeLine) : Prop :=
  KeyedAt s k ∧ s.lineBusy k = false ∧ s.closed k = false ∧ s.homeLine k = some h ∧ h.valid = 15 ∧ s.heldOf k = none ∧
    (∃ pa, h.pa = some pa ∧ s.hostSt pa = .i ∧ inT3 pa = false) ∧ HasDir s k ∧ HasHome s k ∧ ∀ b, Msg.skim (dieOf tile) k b ∉ s.msgs
/-- The latest data of the line: the owner's dirty sectors over the home partition's (R61). -/
def latest (s : State) (k : LineKey) (h : HomeLine) : Line :=
  match (s.dir k).own with
  | some o => blend (secMask (s.l1 o k).dirty) h.data (s.l1 o k).data
  | none => h.data
/-- The DFR cause of a write that its page does not take, with the page's state; `now` is that state where the verdict names
none (R40, R45). -/
def HeldFor (v : Verdict) (now code st : Nat) : Prop :=
  (v = .unmapped ∧ code = 4 ∧ st = now) ∨ (v = .table ∧ code = 6 ∧ st = now) ∨ (∃ e, v = .away 1 e ∧ code = 2 ∧ st = 1) ∨
    (∃ e, v = .away 2 e ∧ code = 1 ∧ st = 2) ∨ (∃ c e, v = .poison c e ∧ code = 3 ∧ st = 3) ∨
    (∃ pa e, v = .ok pa e ∧ e.testBit 53 = false ∧ code = 5 ∧ st = ptePst e) ∨ (v = .hostErr ∧ code = 7 ∧ st = now)
/-- A held line `x` of `k`: its bits, its cause with the page's state and tier, its function, and the provenance `prov` of each
held sector (R42, R43, R45). -/
def HeldAs (s : State) (x : Held) (k : LineKey) (mask data : Line) (p : Prov) (code st : Nat) (prov : Nat → Option Prov) : Prop :=
  x.key = k ∧ x.mask = mask ∧ x.data = data ∧ x.cause = code ∧ x.pst = st ∧ x.tier = (s.pageNow p.asid k).2 ∧ x.vf = p.vf ∧
    ∀ i < 4, (secsOf mask).testBit i = true → fget? x.prov i = prov i
/-- R68: the degree that a sweep leaves a region. -/
def sweepDegree (cfg : Nat) (r : Region) : Nat :=
  if cfg.testBit 0 = false ∨ r.pin = true then r.degree
  else if cfg / 2 ^ 12 % 256 < r.skimp then r.degree - 1
  else if cfg / 2 ^ 20 % 65536 < r.share ∧ r.degree < 3 then r.degree + 1
  else r.degree
/-- A line of device memory at `pa` that is cached under `k`, none of its copies being owned, and that the directory can serve. -/
def CachedLine (s : State) (pa : Nat) (k : LineKey) : Prop :=
  s.reverse (pa / 128 * 128) = some k ∧ s.paBusy (pa / 128 * 128) = false ∧ KeyedAt s k ∧ (s.dir k).own = none ∧ HasDir s k ∧ HasHome s k
/-- No cache of the device holds the line any more, and its frame has the latest data. -/
def Surrendered (s t : State) (pa : Nat) (k : LineKey) : Prop :=
  t.homeLine k = none ∧ (t.dir k).own = none ∧ (t.dir k).l = [] ∧ (t.dir k).p = [] ∧ (t.dir k).q = [] ∧
    ∀ h, s.homeLine k = some h → t.memLine (pa / 128 * 128) = blend (secMask h.dirty) (s.memLine (pa / 128 * 128)) h.data
/-- R72, R75: the state of a line after an answer of the host to a request of the device. -/
def answered (kind : Nat) (h : HState) : HostAns → Option HState
  | .shared => if kind = 0 then some .s else if kind = 3 ∧ h = .e then some .s else if kind = 4 ∧ (h = .s ∨ h = .e) then some .i else none
  | .exclusive => if kind = 0 then some .e else none
  | .ownership => if kind = 1 ∨ kind = 2 then some .m else none
  | .data _ => if kind = 3 ∧ h ≠ .i then some (if h = .m ∨ h = .o then .o else .s) else if kind = 4 then some .i else none
/-- Ordinary memory at `pa` for `n` bytes of one line, with no frame mapped there (so that no cache holds it). -/
def PlainBytes (s : State) (pa n : Nat) : Prop := n ≠ 0 ∧ pa % 128 + n ≤ 128 ∧ s.populated (pa / 128 * 128) = true ∧ s.reverse (pa / 128 * 128) = none ∧ s.reverse pa = none
/-- A ring of records of `len` bytes has room, and its next record stands at `slot`, which no cache holds (R45, R107, R177). -/
def RingTakes (s : State) (base log prod cons lo len slot : Nat) : Prop :=
  let n := s.regBits log 4 0
  let b := s.regBits base 51 6 * 64
  b ≠ 0 ∧ lo ≤ n ∧ n ≤ 16 ∧ (s.regN prod + 2 ^ 32 - s.regBits cons 31 0) % 2 ^ 32 < 2 ^ n ∧ slot = b + len * (s.regN prod % 2 ^ n) ∧
    s.populated slot = true ∧ s.reverse slot = none
/-- The record `w` stands in the slot with the phase of the ring's pass, and PROD has advanced. -/
def RecordIn (s t : State) (log prod len slot w : Nat) : Prop :=
  t.memRead slot len = bytesOf len (setBits w 0 0 (1 - s.regN prod / 2 ^ s.regBits log 4 0 % 2)) ∧ t.regN prod = (s.regN prod + 1) % 2 ^ 32
/-- No home partition or directory holds a line of a granule. -/
def Uncached (s : State) (g : Nat) : Prop :=
  (∀ e ∈ s.home, ¬ (e.2.key.asid = granTag g ∧ e.2.key.line / 64 = g % 2 ^ 43)) ∧ ∀ e ∈ s.dirs, ¬ (e.2.key.asid = granTag g ∧ e.2.key.line / 64 = g % 2 ^ 43)
/-- No granule has a T3 frame, and the request names none (R94). -/
def NoT3 (s : State) (r : MapReq) : Prop := (∀ e ∈ s.pgd, e.2.tier ≠ 3) ∧ tierOf r.frame ≠ 3
/-- The switch window `w` of a granule with entry `p` opens: the granule is migrating, and its target frame has left the pool (R92). -/
def WindowOpens (i : Instr) (s : State) (die : Nat) (w : Window) (p : Pgd) : Prop :=
  ∃ t, exec i s = .next t ∧ (t.rse die).window = some w ∧ t.granOf w.gran = some { p with st := 1, sharers := [] } ∧
    w.frame ∉ (t.rse (poolDie die w.tier)).pool w.tier
/-- Memory has the content of the frame at `src` in the frame at `dst`. -/
def FrameCopied (s t : State) (src dst : Nat) : Prop := ∀ b < 8192, t.memByte (dst + b) = s.memByte (src + b)
/-- The entries of a granule's pages do not stand in the frame that a window copies to. -/
def TablesApart (s : State) (src : Nat) (w : Window) : Prop := ∀ x ∈ (s.copyPa src w.frame 8192).leaves w.gran, Apart x.1 8 w.frame 8192
/-- The window has closed: the granule is resident in the target frame, and the reverse map names it there (R92). -/
def WindowCloses (i : Instr) (s : State) (die : Nat) (w : Window) (q : State → Pgd → Prop) : Prop :=
  ∃ t x, exec i s = .next t ∧ (t.rse die).window = none ∧ (∀ m ∈ (t.rse die).queue, m.gran ≠ w.gran) ∧ t.granOf w.gran = some x ∧
    x.frame = w.frame / 8192 ∧ x.tier = w.tier ∧ x.st = 0 ∧ x.sharers = [] ∧
    fget? (t.mtu (mtuOf w.frame)).rmap (w.frame / 8192) = some (granVa w.gran / 8192, (granTag w.gran).isNone, (granTag w.gran).getD 0) ∧ q t x
/-- The residency engine of a die starts moves (R89), and no report of poison waits for it. -/
def MayMove (s : State) (die : Nat) : Prop := (s.regN (dieReg die 0x1008)).testBit 0 = true ∧ s.poisonAsks = []
/-- A named frame that the granule's move may take: of the tier, free, in the stack of the region's path or in T2 behind the
I/O die of the home die's side (R86). -/
def FrameFits (s : State) (c : RseCmd) (tier : Nat) : Prop :=
  c.frame ≠ 0 ∧ tierOf c.frame = tier ∧ fget? (s.mtu (mtuOf c.frame)).rmap (c.frame / 8192) = none ∧ c.frame ∉ s.zeroing ∧
    (tier = 1 → (s.regOf c.gran).map Region.mtu = some (mtuOf c.frame)) ∧ (tier = 2 → inT2 c.frame = true ∧ mtuOf c.frame = 8 + s.granDie c.tag c.va / 2)
/-- The code of a command that has been performed (R106). -/
def performedCode (s : State) (c : RseCmd) : Nat := if c.deadline < s.tick then 2 else 1
/-- A command of the residency engine's ring that is well formed stands at its head (R106). -/
def RseHead (s : State) (die pa op : Nat) (c : RseCmd) : Prop := HeadRequest s (ringGroup die 2) 32 pa c.w ∧ c.op = op ∧ c.bad = false
/-- The event that serves a command of kind `op`. -/
def RseRuns (op die : Nat) (i : Instr) : Prop :=
  (op = 0 ∧ i = .promote die) ∨ (op = 1 ∧ i = .demote die) ∨ (op = 2 ∧ i = .pin die) ∨ (op = 3 ∧ i = .unpin die) ∨ (op = 4 ∧ i = .refetch die)
/-- The command of kind `op` at the head of the ring whose window is open is performed when the window closes. -/
def Performs (i : Instr) (op tier : Nat) (s : State) (die pa : Nat) (c : RseCmd) (p : Pgd) (w : Window) : Prop :=
  RseHead s die pa op c → (s.rse die).window = some w → w.cmd = true → w.gran = c.gran → (w.refetch = true ↔ op = 4) → s.granOf c.gran = some p →
    w.tier = tier → pa / 8192 ≠ w.frame / 8192 → WindowCloses i s die w fun t _ => RequestDone s t (ringGroup die 2) pa (performedCode s c)

-- ## Events of launching and scheduling

/-- The packet `p` is at acceptance of queue `q` of die `d`, whose turn it is, and nothing more of the queue is to be read ahead
(R160, R164). -/
def PacketAt (s : State) (d q : Nat) (p : Packet) : Prop :=
  s.lqEn d q = true ∧ s.fnEnabled (s.lqVf d q) = true ∧ s.online d = true ∧ fget? s.prologues d = none ∧ (s.lq d q).again = none ∧
    (s.lq d q).copies = [p] ∧ fget 0 s.lqTurn d = q ∧ ((s.lq d q).cons + 1) % 2 ^ 32 = (s.lq d q).prod ∧ ¬ (p.type = 1 ∧ p.f 9 9 = 1)
/-- LQCONS has passed the packet. -/
def Advanced (s t : State) (d q : Nat) : Prop := (t.lq d q).cons = ((s.lq d q).cons + 1) % 2 ^ 32 ∧ (t.lq d q).copies = []
/-- The page of a completion record is resident at `pa`, and nothing is cached, held or at the host of its line (R163). -/
def RecordPage (s : State) (asid cpl pa : Nat) : Prop :=
  let k := s.keyOf asid cpl
  cpl ≠ 0 ∧ cpl % 128 + 64 ≤ 128 ∧ s.lineBusy k = false ∧ s.closed k = false ∧ (s.dir k).k = [] ∧ s.heldOf k = none ∧ s.homeLine k = none ∧ (s.dir k).own = none ∧
    s.marked k = false ∧ s.hostSt pa = .i ∧ inT3 pa = false ∧ s.vaPa asid cpl = some pa
/-- The record of a packet goes there, where its function may write, and no record of a lost store goes before it (R386). -/
def RecordFor (s : State) (asid vf cpl pa : Nat) : Prop := RecordPage s asid cpl pa ∧ s.mayStore asid vf cpl = true ∧ s.dfrDue vf = false
/-- R163: the completion record. -/
def RecordWritten (s t : State) (pa tag map status : Nat) : Prop :=
  t.memRead pa 64 = bytesOf 64 (tag * 2 ^ 448 + s.tick % 2 ^ 64 * 2 ^ 384 + map % 2 ^ 256 * 2 ^ 128 + status * 2 ^ 8 + 1)
/-- The packet launches one context with an entry of its own (R141, R162, R168): its loop nest has been read as `lv` in `s1`. -/
def Resolves (s s1 : State) (vf asid : Nat) (p : Packet) (lv : List (Nat × Nat)) : Prop :=
  p.bad (s.tileQuota vf) = false ∧ p.bcount = 0 ∧ p.f 8 8 = 0 ∧ p.f 10 10 = 0 ∧ (p.cpl = 0 ∨ s.mayStore asid vf p.cpl = true) ∧ s.ctxState (p.ctx % 65536) ≠ 0 ∧
    ∃ bs, s.fetch asid (some vf) (p.f 391 336) 64 = (s1, .ok bs) ∧ lnrLevels (numOf bs) = some lv
/-- The pending step that a packet makes (R168). -/
def PendingFrom (st : Step) (p : Packet) (d q vf asid : Nat) (lv : List (Nat × Nat)) : Prop :=
  st.packet = p ∧ st.vf = vf ∧ st.asid = asid ∧ st.cls = p.cls ∧ st.deadline = p.deadline ∧ st.die = d ∧ st.queue = q ∧ st.members = [p.ctx] ∧
    st.batched = false ∧ st.entry = p.f 447 392 ∧ st.levels = lv ∧ st.gang = p.gang ∧ st.mask = p.mask ∧ st.started = false ∧ st.failed = none ∧
    st.positions = [] ∧ st.reserved = []
/-- The tiles of a step's positions are in its hands. -/
def OnTiles (s : State) (st : Step) : Prop := ∀ p ∈ st.positions, ∀ n, p.tile = some n → (s.place n).step = some st.id
/-- Every tile of a step is a victim. -/
def Victims (t : State) (st : Step) : Prop := ∀ p ∈ st.positions, ∀ n, p.tile = some n → (t.place n).victim = true
/-- A step that pends, and one that runs on a die. -/
def pendsOn (s : State) (st : Step) (d : Nat) : Prop := s.needs st d = true ∧ s.hostHeld d st.vf = false ∧ s.fnEnabled st.vf = true
def SchedRuns (op die : Nat) (i : Instr) : Prop := (op = 0 ∧ i = .start die) ∨ (op = 1 ∧ i = .preempt die) ∨ (op = 2 ∧ i = .drop die)

-- ## Events at tiles, and events that firmware and the host cause

/-- The state with the place `p` acting. -/
def atPlace (s : State) (p : Nat) : State := { s with cur := p }
/-- The delivery `d` is of the message `m`, which nothing keeps at its receiver's port (R38). -/
def Arrives (s : State) (d : Delivery) (m : PeerMsg) : Prop := s.delivered d = some m ∧ s.portOpen m = true
/-- The scratchpad of a tile is plain: no mapped region and no barrier watch stands over it, and its context is not recorded. -/
def PlainTile (s : State) (t : Nat) : Prop :=
  (s.place t).maps = [] ∧ (s.place t).tb = none ∧ s.recSlotsOf (s.place t).ctx = []
/-- The sender's link engine, in this package, awaits the answer to `m` with its command `f`. -/
def Awaits (s : State) (m : PeerMsg) (f : InFlight) : Prop :=
  m.queue = some (4, f.seq) ∧ (s.engq m.tile 4).cur = some f ∧ f.met = none ∧ (s.place m.tile).met = none
/-- The message is no longer in flight; if it came from this package, the sender's command has ended, with its signal (R119) or
with the cause `c`. -/
def Answered (s t : State) (d : Delivery) (m : PeerMsg) (c : Option Nat) : Prop :=
  t.peers = (s.take d).peers ∧ ∀ f, m.pkg = s.pkgNum → Awaits s m f →
    let h := hdrOf f.word
    let n := if f.killed then 0 else h.sinc
    let v := (s.place m.tile).getSem h.ssem + n
    (t.engq m.tile 4).cur = none ∧ (t.ring m.tile 4).head = ((s.ring m.tile 4).head + 1) % 65536 ∧
      (∀ x, c = some x → (t.place m.tile).async = (s.place m.tile).async ++ [⟨x, f.seq, some 4⟩]) ∧
      (c = none → v ≤ 65535 → (rightOf m.kind ≠ 2 ∨ m.tile ≠ m.toTile) → (t.place m.tile).getSem h.ssem = v ∧ (t.place m.tile).async = (s.place m.tile).async) ∧
      (c = none → 65535 < v → 0 < n → (rightOf m.kind ≠ 2 ∨ m.tile ≠ m.toTile) → (t.place m.tile).async = (s.place m.tile).async ++ [⟨cSemovf, f.seq, some 4⟩])
/-- The scratchpad byte at `k` after `bs` has been written at `o`. -/
def overwritten (p : Place) (o : Nat) (bs : List Byte) (k : Nat) : Byte := if o ≤ k ∧ k < o + bs.length then bs[k - o]?.getD 0 else p.spByte k
/-- The word of a transaction barrier after one arrival of `n` bytes: each field counts down within its own width (R128). -/
def counted (w : BitVec 64) (n : Nat) : BitVec 64 :=
  (w.extractLsb' 56 8 - 1) ++ (w.extractLsb' 0 56 - BitVec.ofNat 56 n)
/-- A write of `size` bytes at `off` is one register's: a power of two up to 8, naturally aligned (R392). -/
def oneRegister (off size : Nat) : Prop := (size = 1 ∨ size = 2 ∨ size = 4 ∨ size = 8) ∧ off % size = 0
/-- MTU log 8 has counted one more violation, and no register has changed. -/
def LoggedOnly (s t : State) : Prop := (t.mtu 8).vcount = ((s.mtu 8).vcount + 1) % 2 ^ 64 ∧ t.dreg = s.dreg ∧ t.mem = s.mem ∧ t.places = s.places
/-- The boot ROM has started the monitor from an image: its entry point, its privilege, and the outcome in BOOTST (R403, R408). -/
def BootedFrom (t : State) (slot : Nat) (img : List Byte) : Prop :=
  (t.place 516).hold = .running ∧ (t.place 516).cc.priv = 3 ∧ (t.place 516).cc.pc = BitVec.ofNat 64 (numOf ((img.drop 24).take 8)) ∧
    t.regBits 0x8 3 0 = 2 ∧ t.regBits 0x8 24 24 = slot ∧ t.minimal = false
/-- A package reset: nothing runs, every core is as after reset, no die is online, and start-up is at stage A (R407, R408). -/
def ResetTo (t : State) : Prop :=
  t.steps = [] ∧ t.held = [] ∧ t.peers = [] ∧ t.regBits 0x8 3 0 = 1 ∧ t.regBits 0x8 7 4 = 0 ∧ t.minimal = false ∧ ∀ p, t.place p = Place.reset p
/-- Stage B has ended: slot A, else slot B, else the minimal safe function; ERR holds the first error (R403, R408). -/
def StageBEnds (s t : State) : Prop :=
  (∀ k < 8, t.regBits 0x8 (8 + k) (8 + k) = if k ∈ s.unpopulated then 0 else 1) ∧ (∀ p, p ≠ 516 → t.place p = s.place p) ∧
    match imageError s.svnMin s.flashA with
    | none => BootedFrom t 0 s.flashA
    | some e => (s.unpopulated = [] → s.regBits 0x8 23 16 = 0 → t.regBits 0x8 23 16 = 0x10 + e) ∧
      match imageError s.svnMin s.flashB with
      | none => BootedFrom t 1 s.flashB
      | some _ => t.minimal = true ∧ t.regBits 0x8 3 0 = 0xE
/-- No context stands on a tile of the die, and its caches hold nothing. -/
def DieAtRest (s : State) (d : Nat) : Prop :=
  (∀ n, n < 512 → dieOf n = d → (s.place n).step = none ∧ (s.place n).switch = none ∧ (s.place n).l1 = []) ∧
    (∀ e ∈ s.replicas, e.1 % 4 ≠ d) ∧ ∀ e ∈ s.home, s.homeDie e.2.key ≠ d
/-- The status that a context operation leaves on its die. -/
def ctxStatus (t : State) (d : Nat) : Nat := t.regN (dieReg d 0x1088)
/-- The context of recording slot `k` of function `f`, its tile, and that it replays there with `h` and `bs` next (R423). -/
def Replays (s : State) (f k c n h : Nat) (bs : List Byte) : Prop :=
  s.regBits (recReg f k 0) 15 0 = c ∧ s.tileOf c = some n ∧ s.ctxVf c = f ∧ s.replaying c = some k ∧ s.replayHead c f k = some (h, bs)

-- ## The whole machine

/-- Words written out bit by bit from the spec's encodings and worked examples, and what they stand for. -/
def specWords : List (Nat × Instr) := [
  (0, .nop),
  (0x0A050A318C980040, .ld 10 ⟨5, 6, 3, 0, 3, 0, 1, 0, 3, 0, 0, 0x40⟩),
  (0x0A311AA808100000, .st 34 ⟨13, 21, 0, 0, 2, 0, 0, 0, 2, 0, 0, 0⟩),
  (0x0B804B2008004000, .amo 0 4 ⟨37, 36, 0, 0, 2, 0, 0, 0, 0, 0, 0, 0⟩),
  (0x0804943FFFFFFFFD, .b 9 10 1 (2 ^ 37 - 3)),
  (0x08E4800000000006, .ecatch 9 6),
  (0x0860800000000003, .jal 1 3),
  (0x104495FFFFFFFE00, .fmovxr 9 10 0xFFFFFFFF),
  (0x147C000010800000, .sysrd 56 0x21),
  (0x0E7D000008000001, .qseq 58 1 1),
  (0x15C028A800001000, .causal 20 21 0 2),
  (0x2000000080029060, .vadd ⟨0, 0, 0, 0, 0, 0⟩ ⟨0, 5, 4, 3, 0, 0, 0⟩),
  (0x22822A2080018440, .vadd ⟨20, 1, 21, 1, 0, 0⟩ ⟨0, 3, 1, 2, 0, 0, 0⟩),
  (0x4000000168200000, .mmul ⟨0, 0, 0, 0, 1, 40⟩ 0 1),
  (0x40002A2369000000, .mdrain ⟨0, 0, 21, 1, 1, 41⟩ ⟨0, 0, 0, 0, 0, 0, 0⟩),
  (0x61821A2080000020, .xcpy ⟨12, 1, 13, 1, 0, 0⟩ 0x20),
  (0xA2C20000EC000000, .lput ⟨22, 1, 0, 0, 1, 44⟩ 0),
  (0xC000502080000040, .sattn ⟨0, 0, 40, 1, 0, 0⟩ 0x40)]
/-- `u` is the state in which place `p` has its turn, the entry of the agenda taken (log 1); start-up is past stage A. -/
def TurnOf (s u : State) (a : Agenda) (p : Nat) : Prop :=
  s.stopped = false ∧ (s.regN 0xA008).testBit 0 = false ∧ s.early = false ∧ ∃ r, s.agenda = a :: r ∧ u = { s with agenda := r, cur := p }
/-- The core of place `p` is free to issue (R150, R357, R364, R422, R423, R424): a CC whose iteration runs with nothing pending, an SC, a
front end with its prologue, or a running steward core. -/
def MayIssue (u : State) (p : Nat) : Prop :=
  let t := u.place p
  p < 520 ∧ t.hold = .running ∧
    (isTile p = true → t.amoWait = none ∧ t.switch = none ∧ t.step ≠ none ∧ u.inputDue p = false ∧
      (t.frozen = true → t.entering = none ∧ t.qstep = none) ∧
      (t.frozen = false → u.iterating p = true ∧ u.owes p = false ∧ u.recFull p = false ∧ t.async = [])) ∧
    (isCfe p = true → ∃ pr, fget? u.prologues (p - 512) = some pr ∧ pr.ended = none)
/-- No breakpoint of the tile is enabled (R417). -/
def NoBreakpoint (u : State) (p : Nat) : Prop := ∀ n < 4, (u.regN (bpReg p n + 8)).testBit 0 = false
/-- The privileges that R194 and R404 give a core: 0 to 3, 0 on a CC or front end, at most 1 on an SC. -/
def LegalModes (s : State) : Prop :=
  ∀ p, (s.place p).cc.priv ≤ 3 ∧ (s.place p).sc.priv ≤ 1 ∧ (p < 516 → (s.place p).cc.priv = 0)

end Sys2Proof.Claims

open Sys2Proof Sys2Proof.Machine Sys2Proof.Claims

/-- R189, R232, R233: NOP changes no register; each row of R232 writes the value of its table row to g[D], DIV, REM, DIVU, REMU
and the bit-field rows the values of R233, and nothing else changes but the pc. -/
def Obligations.IntegerInstructionResults : Prop :=
  (∀ s : State, s.unarmed → Completes .nop s s (s.pc + 8)) ∧
  (∀ (i : Instr) (s : State) (d : Nat) (fields : List Nat) (v : Word),
    arithRule s.g i = some (d, fields, v) → s.inBound fields [] → s.unarmed → WritesG i s d v) ∧
  (∀ (i : Instr) (s : State) (d : Nat) (fields : List Nat) (v : Word),
    bitRule s.g i = some (d, fields, v) → s.inBound fields [] → s.unarmed → WritesG i s d v)
/-- R232, R234: each row with an immediate writes the value of its table row to g[D], and nothing else changes but the pc. -/
def Obligations.ImmediateResults : Prop :=
  ∀ (i : Instr) (s : State) (d : Nat) (fields : List Nat) (v : Word),
    immRule s.g s.pc i = some (d, fields, v) → s.inBound fields [] → s.unarmed → WritesG i s d v

/-- R208, R235: each of these rows writes the exact result, rounded once, in the format of PR. -/
def Obligations.FloatingResults : Prop :=
  ∀ (i : Instr) (s : State) (d : Nat) (fields : List Nat) (v : Nat),
    roundRule s.f i = some (d, fields, v) → s.inBound [] fields → s.unarmed → WritesF i s d (BitVec.ofNat 64 v)
/-- R208, R235 to R237: FCMP, FCLASS, FMVG and the conversions to integers write the value of their row to g[D]; FMVF and the
conversions from integers, FSGN and the conversions between formats write theirs to f[D]; nothing else changes but the pc. -/
def Obligations.FloatingMovesAndConversions : Prop :=
  (∀ (i : Instr) (s : State) (d : Nat) (fields : List Nat) (v : Word),
    floatToG s.f i = some (d, fields, v) → s.inBound [d] fields → s.unarmed → WritesG i s d v) ∧
  (∀ (i : Instr) (s : State) (d : Nat) (fields : List Nat) (v : Word),
    floatFromG s.g i = some (d, fields, v) → s.inBound fields [d] → s.unarmed → WritesF i s d v) ∧
  (∀ (i : Instr) (s : State) (d : Nat) (fields : List Nat) (v : Nat),
    floatRow s.f i = some (d, fields, v) → s.inBound [] fields → s.unarmed → WritesF i s d (BitVec.ofNat 64 v))
/-- R207, R210: converting a finite number of a format to that format gives its encoding back, in every
rounding mode, saturating or not; so an exact result is never changed by rounding. -/
def Obligations.FiniteNumbersRoundToThemselves : Prop :=
  ∀ f ∈ [fp64, fp32, fp16, bf16, e5m2, e4m3, e3m2, e2m3, e2m1], ∀ (rm b : Nat) (sat neg : Bool) (m : Nat) (e : Int),
    b < 2 ^ f.w → f.dec b = .num neg m e → f.round rm sat (f.dec b) = b

/-- R188, R238, R239: a taken transfer with a legal target goes there, links if it links, and changes nothing else; a branch whose
condition is false goes on; a target that is not 8-byte aligned raises ALIGN at the transfer, and one that is aligned and lies at
2^56 or above raises PERM; no register is written first. The fields that BZ, J, JALR and RET require zero are refused otherwise. -/
def Obligations.TransfersGoToTheirTargets : Prop :=
  ((∀ (i : Instr) (s : State) (t : Word) (fields : List Nat) (link : Option Nat),
    transferRule s i = some (t, fields, link) → mayContinue t → s.inBound fields [] → s.unarmed → Completes i s (linked s link) t) ∧
  (∀ (i : Instr) (s : State) (fields : List Nat), notTaken s i = some fields → s.inBound fields [] → s.unarmed → Completes i s s (s.pc + 8))) ∧
  (∀ (i : Instr) (s : State) (t : Word) (fields : List Nat) (link : Option Nat),
    transferRule s i = some (t, fields, link) → s.inBound fields [] →
    (t.toNat % 8 ≠ 0 → exec i s = .next (s.raise cAlign 0)) ∧
    (t.toNat % 8 = 0 → 2 ^ 56 ≤ t.toNat → exec i s = .next (s.raise cPerm 0))) ∧
  MustBeZero 0x41 41 6 ∧ MustBeZero 0x42 47 6 ∧ MustBeZero 0x44 0 9 ∧
  MustBeZero 0x45 0 35 ∧ MustBeZero 0x45 35 6 ∧ MustBeZero 0x45 47 6
/-- R240: JTAB reads entry `k` of its table, the default entry for an index out of range, and continues at the
target that the entry names; `s1` is the state that the load leaves.
It rests also on the model's choices of log 7. -/
def Obligations.JumpTableSelectsEntry : Prop :=
  ∀ (a imm n : Nat) (s s1 : State) (bs : List Byte),
    let t := s.pc + simm imm
    let k := if (s.g a).toNat < n + 1 then (s.g a).toNat else n + 1
    let ea := (t + BitVec.ofNat 64 (4 * k)).toNat
    let goal := s.pc + 8 * (BitVec.ofNat 32 (numOf bs)).signExtend 64
    s.inBound [a] [] → t.toNat % 4 = 0 → Passes (formed plain15 ea 4 4) s → (loadBytes plain15 ea 4).run s = .ok bs s1 →
    mayContinue goal → exec (.jtab a imm n) s = .next (s1.retire goal)
/-- R241, R242: ECATCH pushes its frame, EDROP pops one, THROW pops one and continues at its handler with the
thrown value in DREG.
It rests also on the model's choices of log 41. -/
def Obligations.ExceptionFramesPushAndPop : Prop :=
  (∀ (d off : Nat) (s : State),
    let f := s.g 2 - 32
    let bs := frameBytes (target47 s.pc off) (s.g 2) s.here.exc d
    s.inBound [d] [] → s.unarmed → d < 64 → (s.g 2).toNat % 8 = 0 → 32 ≤ (s.g 2).toInt → (s.g 2).toInt ≤ spSize s.cur →
    Passes (orderWrite cm15) s → Passes (spTouch s.acc f.toNat 32) s →
    Completes (.ecatch d off) s (((s.spStored f.toNat bs).setG 2 f).modHere fun t => { t with exc := 0x100000000#64 ||| f }) (s.pc + 8)) ∧
  (∀ (s : State),
    let o := (s.here.exc &&& 0x1FFFFF).toNat
    s.unarmed → s.here.exc.getLsbD 32 = true → o + 32 ≤ spSize s.cur → Passes (orderRead 15) s → s.here.spBad o 32 = false →
    Passes (spTouch s.acc o 32) s →
    Completes .edrop s ((s.setG 2 (spWord s (o + 8))).modHere fun t => { t with exc := excFields (spWord s (o + 16)) }) (s.pc + 8)) ∧
  (∀ (a : Nat) (s : State),
    let o := (s.here.exc &&& 0x1FFFFF).toNat
    let dreg := ((spWord s (o + 24)) &&& 0x3F).toNat
    s.inBound [a] [] → s.unarmed → s.here.exc.getLsbD 32 = true → o + 32 ≤ spSize s.cur → Passes (orderRead 15) s →
    s.here.spBad o 32 = false → Passes (spTouch s.acc o 32) s → mayContinue (spWord s o) → dreg < s.here.regbnd →
    Completes (.throw a) s
      (((s.setG 2 (spWord s (o + 8))).modHere fun t => { t with exc := excFields (spWord s (o + 16)) }).setG dreg (s.g a)) (spWord s o)) ∧
  (∀ (a : Nat) (s : State), s.inBound [a] [] → s.here.exc.getLsbD 32 = false →
    exec .edrop s = .next (s.raise cUncaught 0) ∧ exec (.throw a) s = .next (s.raise cUncaught 0))

/-- R243, R244: LD writes the loaded bytes to D, extended as SX says; LDP two doublewords to D and D + 1, the
lower address first. `s1` and `s2` are the states that the accesses leave. -/
def Obligations.LoadsWriteWhatTheyRead : Prop :=
  (∀ (s s1 : State) (d : Nat) (m : CM) (bs : List Byte),
    let n := szBytes m.sz
    s.inBound [d, m.a, m.b] [] → Passes (formed m (s.ea m) n n) s → (loadBytes m (s.ea m) n).run s = .ok bs s1 →
    exec (.ld d m) s = .next ((s1.setG d (loaded m.sx n bs)).retire (s1.pc + 8))) ∧
  (∀ (s s1 s2 : State) (d : Nat) (m : CM) (lo hi : List Byte),
    s.inBound [d, d + 1, m.a, m.b] [] → Passes (formed m (s.ea m) 16 16) s → (loadBytes m (s.ea m) 8).run s = .ok lo s1 →
    (loadBytes m (s.ea m + 8) 8).run s1 = .ok hi s2 →
    exec (.ldp d m) s = .next (((s2.setG d (loaded 0 8 lo)).setG (d + 1) (loaded 0 8 hi)).retire (s2.pc + 8)))
/-- R31, R48, R52, R54, R404: what a load reads from the scratchpad, from physical memory on a steward core, and
from a line that the tile's L1 holds; a poisoned scratchpad word raises POISON instead.
It rests also on the model's choices of log 7 and 16. -/
def Obligations.LoadsReadTheirSource : Prop :=
  (∀ (s : State) (m : CM) (o n : Nat), m.as = 1 → Passes (orderRead m.oc) s → s.here.spBad o n = false → Passes (spTouch s.acc o n) s →
    (loadBytes m o n).run s = .ok (s.here.spBytes o n) s) ∧
  (∀ (s : State) (m : CM) (o n : Nat), m.as = 1 → Passes (orderRead m.oc) s → s.here.spBad o n = true →
    (loadBytes m o n).run s = .error (.trap cPoison 0) s) ∧
  (∀ (s : State) (m : CM) (pa n : Nat), m.as ≠ 1 → Physical s pa n [1] → Passes (orderRead m.oc) s →
    (loadBytes m pa n).run s = .ok (s.memRead pa n) s) ∧
  (∀ (s : State) (m : CM) (va n : Nat), m.as ≠ 1 → Permitted s va .r → Passes (orderRead m.oc) s → 0 < n → va % 128 + n ≤ 128 →
    Holds s va n →
    (loadBytes m va n).run s = .ok (lineBytes (copyOf s va).data (va % 128) n) (touched s m va))
/-- R243, R244: ST stores the low bytes of D, STP two doublewords, STN the low nibble of D. -/
def Obligations.StoresWriteTheirRegister : Prop :=
  (∀ (s s1 : State) (d : Nat) (m : CM),
    let n := szBytes m.sz
    s.inBound [d, m.a, m.b] [] → Passes (formed m (s.ea m) n n) s →
    (storeBytes m true (s.ea m) (full n) (bytesOf n (s.g d).toNat)).run s = .ok ⟨⟩ s1 → exec (.st d m) s = .next (s1.retire (s1.pc + 8))) ∧
  (∀ (s s1 s2 : State) (d : Nat) (m : CM),
    s.inBound [d, d + 1, m.a, m.b] [] → Passes (formed m (s.ea m) 16 16) s →
    (storeBytes m true (s.ea m) (full 8) (bytesOf 8 (s.g d).toNat)).run s = .ok ⟨⟩ s1 →
    (storeBytes m false (s.ea m + 8) (full 8) (bytesOf 8 (s.g (d + 1)).toNat)).run s1 = .ok ⟨⟩ s2 →
    exec (.stp d m) s = .next (s2.retire (s2.pc + 8))) ∧
  (∀ (s s1 : State) (d : Nat) (m : CM),
    let v := (s.g d).toNat % 16
    s.inBound [d, m.a, m.b] [] → Passes (formed m (s.ea m) 1 1) s →
    (storeBytes m true (s.ea m) (if m.sx = 1 then 0xF0 else 0x0F) [BitVec.ofNat 8 (if m.sx = 1 then 16 * v else v)]).run s = .ok ⟨⟩ s1 →
    exec (.stn d m) s = .next (s1.retire (s1.pc + 8)))
/-- R41, R49, R54, R404: where the bytes of a store go: the scratchpad, physical memory of a steward core, or
a line that the L1 owns, whose stored sectors become dirty.
It rests also on the model's choices of log 16, 19 and 87. -/
def Obligations.StoresReachTheirDestination : Prop :=
  (∀ (s : State) (m : CM) (o : Nat) (bs : List Byte), m.as = 1 → Passes (orderWrite m) s → Passes (spTouch s.acc o bs.length) s →
    (storeBytes m true o (full bs.length) bs).run s = .ok ⟨⟩ (s.spStored o bs)) ∧
  (∀ (s : State) (m : CM) (o v : Nat) (high : Bool), m.as = 1 → v < 16 → Passes (orderWrite m) s → Passes (spTouch s.acc o 1) s →
    let old := (s.here.spByte o).toNat
    (storeBytes m true o (if high then 0xF0 else 0x0F) [BitVec.ofNat 8 (if high then 16 * v else v)]).run s = .ok ⟨⟩
      (s.modHere fun t =>
        ((t.setSp o (BitVec.ofNat 8 (if high then 16 * v + old % 16 else 16 * (old / 16) + v))).markDirty o 1).watch).sequenced) ∧
  (∀ (s : State) (m : CM) (pa : Nat) (bs : List Byte), m.as ≠ 1 → bs.length ≤ 128 → Physical s pa bs.length [2] → Passes (orderWrite m) s →
    (KeepsSpaces s pa bs → (storeBytes m true pa (full bs.length) bs).run s = .ok ⟨⟩ (physStored s pa bs)) ∧
    ∃ t, (storeBytes m true pa (full bs.length) bs).run s = .ok ⟨⟩ t ∧ t.memRead pa bs.length = bs) ∧
  (∀ (s : State) (m : CM) (va : Nat) (bs : List Byte), m.as ≠ 1 → Permitted s va .w → 0 < bs.length → va % 128 + bs.length ≤ 128 →
    (isRel m = true → Passes (release allClasses m.scope) s) → (∀ l ∈ s.here.l1, l.2.pend = [] ∧ l.2.mark = false) →
    (copyOf s va).st = .m → (copyOf s va).key = lineKey s va →
    ∃ t, (storeBytes m true va (full bs.length) bs).run s = .ok ⟨⟩ t ∧
      (copyOf t va).st = .m ∧ (copyOf t va).pend = [] ∧
      (∀ i, i < 128 → (lineBytes (copyOf t va).data i 1) =
        if va % 128 ≤ i ∧ i < va % 128 + bs.length then [bs[i - va % 128]?.getD 0] else lineBytes (copyOf s va).data i 1) ∧
      (∀ i, va % 128 ≤ i → i < va % 128 + bs.length → (copyOf t va).dirty.testBit (i / 32) = true) ∧
      t.mem = s.mem ∧ (∀ r, t.g r = s.g r) ∧ t.pc = s.pc)
/-- R49, R52, R190: a store to the scratchpad changes exactly its bytes, clears the poison of each word that it covers,
takes the context's next store sequence on a tile, and leaves memory, registers and every other place alone; a store
to physical memory changes exactly its bytes, and beside them only the roots that wait for a shoot-down (R15). -/
def Obligations.StoredBytesReadBack : Prop :=
  (∀ (s : State) (o : Nat) (bs : List Byte),
    (∀ k, (s.spStored o bs).here.spByte k = if o ≤ k ∧ k < o + bs.length then bs[k - o]?.getD 0 else s.here.spByte k) ∧
    (∀ w, fget false (s.spStored o bs).here.spPoison w = if o ≤ 4 * w ∧ 4 * w + 4 ≤ o + bs.length then false else fget false s.here.spPoison w) ∧
    (isTile s.cur = true → fget 0 (s.spStored o bs).storeSeq s.here.ctx = (fget 0 s.storeSeq s.here.ctx + 1) % 2 ^ 32) ∧
    (s.spStored o bs).mem = s.mem ∧ (∀ p, p ≠ s.cur → (s.spStored o bs).place p = s.place p) ∧
    (∀ r, (s.spStored o bs).g r = s.g r) ∧ (∀ r, (s.spStored o bs).f r = s.f r) ∧ (s.spStored o bs).pc = s.pc) ∧
  (∀ (s : State) (a : Nat) (bs : List Byte) (k : Nat),
    (s.memWrite a bs).memByte k = if a ≤ k ∧ k < a + bs.length then bs[k - a]?.getD 0 else s.memByte k) ∧
  (∀ (s : State) (a : Nat) (bs : List Byte), physStored s a bs = { s.memWrite a bs with roots := (physStored s a bs).roots }) ∧
  (∀ (s : State) (a : Nat) (bs : List Byte), memWf s.mem = true → memWf (s.memWrite a bs).mem = true)
/-- R123, R246, R247: AMO and ACAS read and write their bytes in one act and D gets the old value, ACAS writing only
when the old value is that of D; an atomic of package scope or more whose line still awaits skims gives its result later.
The table of AMO's operations on operands of 1, 2, 4 and 8 bytes, with the two floating sums.
It rests also on the model's choices of log 18. -/
def Obligations.AtomicsReadModifyWrite : Prop :=
  ((∀ (s s1 : State) (d aop old : Nat) (m : CM),
    let n := szBytes m.sz
    let op := (s.g m.b).toNat % 2 ^ (8 * n)
    let waits := m.as ≠ 1 && 2 ≤ m.scope && isTile s1.cur && (s1.l1 s1.cur (s1.keyOf s1.here.asid (s.eaAmo m))).mark
    s.inBound [d, m.a, m.b] [] → Passes (formed m (s.eaAmo m) n n) s →
    (atomic m (s.eaAmo m) n fun old => some (aopResult aop n old op)).run s = .ok old s1 →
    exec (.amo d aop m) s = .next (if waits
      then s1.modHere fun t => { t with amoWait := some (s1.keyOf s1.here.asid (s.eaAmo m), d, extend m.sx n old) }
      else (s1.setG d (extend m.sx n old)).retire (s1.pc + 8))) ∧
  (∀ (s s1 : State) (d old : Nat) (m : CM),
    let n := szBytes m.sz
    let want := (s.g d).toNat % 2 ^ (8 * n)
    let new := (s.g m.b).toNat % 2 ^ (8 * n)
    let waits := m.as ≠ 1 && 2 ≤ m.scope && isTile s1.cur && (s1.l1 s1.cur (s1.keyOf s1.here.asid (s.eaAmo m))).mark
    s.inBound [d, m.a, m.b] [] → Passes (formed m (s.eaAmo m) n n) s →
    (atomic m (s.eaAmo m) n fun old => if old = want then some new else none).run s = .ok old s1 →
    exec (.acas d m) s = .next (if waits
      then s1.modHere fun t => { t with amoWait := some (s1.keyOf s1.here.asid (s.eaAmo m), d, extend m.sx n old) }
      else (s1.setG d (extend m.sx n old)).retire (s1.pc + 8))) ∧
  (∀ (s : State) (m : CM) (o n : Nat) (f : Nat → Option Nat), m.as = 1 → Passes (orderWrite m) s → s.here.spBad o n = false →
    Passes (spTouch s.acc o n) s →
    (atomic m o n f).run s = .ok (numOf (s.here.spBytes o n)) (match f (numOf (s.here.spBytes o n)) with
      | some v => s.spStored o (bytesOf n v)
      | none => s)) ∧
  (∀ (s : State) (m : CM) (pa n : Nat) (f : Nat → Option Nat), m.as ≠ 1 → Physical s pa n [1, 2] → Passes (orderWrite m) s →
    (∀ v, f (numOf (s.memRead pa n)) = some v → KeepsSpaces s pa (bytesOf n v)) →
    (atomic m pa n f).run s = .ok (numOf (s.memRead pa n)) (match f (numOf (s.memRead pa n)) with
      | some v => physStored s pa (bytesOf n v)
      | none => s))) ∧
  ((∀ n ∈ [1, 2, 4, 8], ∀ (aop : Nat) (old op v : BitVec (8 * n)), amoRule aop old op = some v → aopResult aop n old.toNat op.toNat = v.toNat) ∧
  (∀ a b : BitVec 32, aopResult 9 4 a.toNat b.toNat = fp32.round 0 false ((fp32.dec a.toNat).add false (fp32.dec b.toNat))) ∧
  (∀ a b : BitVec 16, aopResult 10 2 a.toNat b.toNat = bf16.round 0 false ((bf16.dec a.toNat).add false (bf16.dec b.toNat))))
/-- R245, R404: PREF never stops; CZERO stores 128 zero bytes over its line; after CLEAN no sector of the line is
dirty in its home partition; after CDROP neither the tile nor the home partition has a copy.
It rests also on the model's choices of log 16 and 40. -/
def Obligations.CacheOperationsActOnTheLine : Prop :=
  (∀ (s : State) (m : CM), s.inBound [m.a, m.b] [] →
    exec (.pref m) s = .next ((match (prefetch m).run s with
      | .ok _ s' => s'
      | .error _ _ => s).retire (s.pc + 8))) ∧
  (∀ (s s1 s2 : State) (m : CM) (w : Way), s.inBound [m.a, m.b] [] → Passes (formed m (s.ea m) 1 1) s →
    (wayTo (s.ea m / 128 * 128) 128 .w).run s = .ok w s1 → (∀ o, w ≠ .dev o) →
    (storeBytes m true (s.ea m / 128 * 128) (2 ^ 1024 - 1) (List.replicate 128 0)).run s1 = .ok ⟨⟩ s2 →
    exec (.czero m) s = .next (s2.retire (s2.pc + 8))) ∧
  (∀ (s s1 s2 : State) (m : CM) (a : Acc) (va : Nat) (sa : Bool), s.inBound [m.a, m.b] [] → Passes (formed m (s.ea m) 1 1) s →
    (wayTo (s.ea m / 128 * 128) 128 .r).run s = .ok (.l1 a va sa) s1 → Passes (orderWrite m) s1 →
    (cleanOp (.l1 a va sa)).run s1 = .ok ⟨⟩ s2 →
    exec (.clean m) s = .next (s2.retire (s2.pc + 8)) ∧ ∀ h, s2.homeLine (s1.keyOf a.asid va) = some h → h.dirty = 0) ∧
  (∀ (s s1 s2 : State) (m : CM) (a : Acc) (va : Nat) (sa : Bool), s.inBound [m.a, m.b] [] → Passes (formed m (s.ea m) 1 1) s →
    (wayTo (s.ea m / 128 * 128) 128 .w).run s = .ok (.l1 a va sa) s1 → Passes (orderWrite m) s1 →
    (dropOp (.l1 a va sa)).run s1 = .ok ⟨⟩ s2 →
    exec (.cdrop m) s = .next (s2.retire (s2.pc + 8)) ∧ s2.homeLine (s1.keyOf a.asid va) = none ∧
      s2.l1 a.place (s1.keyOf a.asid va) = L1Line.empty (s1.keyOf a.asid va)) ∧
  (∀ (s : State) (m : CM), s.inBound [m.a, m.b] [] → m.as ≠ 1 → Physical s (s.ea m / 128 * 128) 128 [1] →
    Physical s (s.ea m / 128 * 128) 128 [2] → Passes (orderWrite m) s → s.unarmed →
    Completes (.clean m) s s (s.pc + 8) ∧ Completes (.cdrop m) s s (s.pc + 8) ∧ Completes (.pref m) s s (s.pc + 8) ∧
      (KeepsSpaces s (s.ea m / 128 * 128) (List.replicate 128 0) → Completes (.czero m) s (physStored s (s.ea m / 128 * 128) (List.replicate 128 0)) (s.pc + 8)))

/-- R44, R116, R120, R133, R255: a FENCE goes on when nothing of the context's stores is outstanding; it stalls at a scope of a die
or more while the L1 holds an unmerged store of the context's CC of a class that its mask covers, class 15 among them; on a CC
it parks the context with LATE_FENCE and the fault identifier when a held write of its classes, or of class 15, exists. A release
of the CC, here SEMSIG's, parks the context with the first held write that it covers, and waits then for all of these.
It rests also on the model's choices of log 67. -/
def Obligations.FenceWaitsForStores : Prop :=
  (∀ (s : State) (mask scope : Nat), Drained s → s.unarmed → Completes (.fence mask scope) s s (s.pc + 8)) ∧
  (∀ (s : State) (mask scope : Nat) (l : Nat × L1Line) (p : Pend), isTile s.cur = true → s.heldBy s.here.ctx (mask ||| 0x8000) = none →
    l ∈ s.here.l1 → p ∈ l.2.pend → p.prov.ctx = s.here.ctx → p.prov.queue = none → mask.testBit p.oc = true ∨ p.oc = 15 →
    1 ≤ scope → Stalls (.fence mask scope) s) ∧
  (∀ (s : State) (mask scope : Nat) (h : Held), s.onCc = true → s.heldBy s.here.ctx (mask ||| 0x8000) = some h →
    exec (.fence mask scope) s = .next ({ s with fenceMask := fput s.here.ctx (mask ||| 0x8000) s.fenceMask
                                                 lateLine := fdel s.here.ctx s.lateLine
                                                 lateHeld := fdel s.here.ctx s.lateHeld }.parkTile s.cur 2 h.fid s.pc)) ∧
  (∀ (s : State) (a : Nat) (c : Cnt) (h : Held) (r : List Held), s.onCc = true → s.inBound [a] [] →
    s.heldCovered s.cur s.here.ctx ccAgent = h :: r →
    exec (.semsig a c) s = .next ({ s with lateHeld := fput s.here.ctx ((h :: r).map Held.code) s.lateHeld
                                           fenceMask := fdel s.here.ctx s.fenceMask
                                           lateLine := fdel s.here.ctx s.lateLine }.parkTile s.cur 2 h.fid s.pc))
/-- R119, R248, R249: the local semaphore instructions, the stall of SEMWAIT, and SEMOVF of SEMSIG with the semaphore's
number as DETAIL; SEMRSIG sends its count to the tile that the peer address names, after its release; where no route leads there
the sender takes GRANT with the tile and the semaphore as DETAIL; bits above 39 raise SPBOUND.
It rests also on the model's choices of log 20. -/
def Obligations.SemaphoresCountAndSignal : Prop :=
  (∀ (s : State) (a d : Nat) (c : Cnt), notSteward s → s.inBound [a, d] [] → s.unarmed →
    let n := countOf s a c
    let v := s.here.getSem c.idx
    (n ≤ v → Completes (.semwait a c) s (s.modHere fun t => (t.setSem c.idx (v - n)).acquireFrom ccAgent c.idx) (s.pc + 8)) ∧
    (v < n → Stalls (.semwait a c) s) ∧
    (Passes (release allClasses 0) s → v + n ≤ 65535 → Completes (.semsig a c) s (s.modHere fun t => (t.setSem c.idx (v + n)).releaseTo ccAgent c.idx) (s.pc + 8)) ∧
    (Passes (release allClasses 0) s → 65535 < v + n → exec (.semsig a c) s = .next (s.raise cSemovf c.idx)) ∧
    (Passes (release allClasses 0) s → Completes (.semset a c) s (s.modHere fun t => (t.setSem c.idx n).releaseTo ccAgent c.idx) (s.pc + 8)) ∧
    WritesG (.semrd d c.idx) s d (BitVec.ofNat 64 v)) ∧
  (∀ (s : State) (a b scp : Nat) (c : Cnt), notSteward s → s.inBound [a, b] [] → s.unarmed →
    let p := (s.g a).toNat
    let sc := if peerPkg p = s.pkgNum then scp else 3
    (p < 2 ^ 40 → Passes (release allClasses sc) s → s.reaches s.cur (peerPkg p) = true →
      Completes (.semrsig a b c scp) s (s.sendPeer (peerPkg p)
        { pkg := s.pkgNum, tile := s.cur, vf := s.here.vf, ctx := s.here.ctx, kind := .sig c.idx (countOf s b c), toTile := peerTile p
          offset := 0, loff := 0, data := [], len := 0, bar := none, queue := none }) (s.pc + 8)) ∧
    (p < 2 ^ 40 → Passes (release allClasses sc) s → s.reaches s.cur (peerPkg p) = false →
      Completes (.semrsig a b c scp) s (s.post s.cur ⟨cGrant, 256 * peerTile p + c.idx, none⟩) (s.pc + 8)) ∧
    (2 ^ 40 ≤ p → exec (.semrsig a b c scp) s = .next (s.raise cSpbound 0)))
/-- R192, R250, R251: RCFG sets a user ring or raises RINGCFG with its number, RSTAT reads the 128 bits of a ring; claiming,
publishing, waiting and releasing of slots, their stalls, and RINGCFG.
It rests also on the model's choices of log 27. -/
def Obligations.RingsProduceAndConsume : Prop :=
  (∀ (s : State) (a b d idx : Nat), notSteward s → s.inBound [a, b, d] [] → s.unarmed →
    let r := ringFrom (s.g a) (s.g b)
    let good := 8 ≤ idx ∧ (s.g a).toNat < 2 ^ 21 ∧ (s.g b).toNat < 2 ^ 16 ∧ r.base % 16 = 0 ∧ (r.v = true → ringInside r)
    let q := ringOf s idx
    (good → Completes (.rcfg a b idx) s (withRing s idx r) (s.pc + 8)) ∧
    (¬ good → exec (.rcfg a b idx) s = .next (s.raise cRingcfg idx)) ∧
    (idx ≠ 6 → idx ≠ 7 → q.base < 2 ^ 64 → WritesG (.rstat d idx 1) s d (BitVec.ofNat 64 q.base) ∧
      WritesG (.rstat d idx 0) s d (BitVec.ofNat 64 (q.head * 2 ^ 48 + q.tail * 2 ^ 32 + q.claimed * 2 ^ 16 + q.slog * 2 ^ 12 +
        q.sszm * 2 ^ 4 + q.scope * 2 ^ 2 + (if q.v then 2 else 0) + (if idx < 6 then 1 else 0)))) ∧
    (idx = 6 ∨ idx = 7 → ∀ opt, WritesG (.rstat d idx opt) s d 0)) ∧
  (∀ (s : State) (a d : Nat) (c : Cnt), notSteward s → s.inBound [a, d] [] → s.unarmed →
    let q := c.idx
    let n := countOf s a c
    let r := ringOf s q
    let full := published s q + r.claimed + n
    (usable s q n → full ≤ 2 ^ r.slog →
      Completes (.rclm d a c) s (withRing (s.setG d (BitVec.ofNat 64 ((r.tail + r.claimed) % 65536))) q { r with claimed := r.claimed + n }) (s.pc + 8)) ∧
    (usable s q n → 2 ^ r.slog < full → Stalls (.rclm d a c) s) ∧
    let slots := s.pushSlots s.cur q
    (usable s q n → n ≤ r.claimed → slots = [] → Passes (release allClasses r.scope) s →
      Completes (.rpub a c) s (withRing s q { r with tail := (r.tail + n) % 65536, claimed := r.claimed - n }) (s.pc + 8)) ∧
    (∀ m, usable s q n → n + slots.length ≤ r.claimed → r.tail < 65536 → r.tail ∉ slots → publishes r slots n m →
      Passes (release allClasses r.scope) s →
      Completes (.rpub a c) s (withRing s q { r with tail := (r.tail + m) % 65536, claimed := r.claimed - m }) (s.pc + 8)) ∧
    (usable s q n → r.claimed < n + slots.length → exec (.rpub a c) s = .next (s.raise cRingcfg q)) ∧
    (usable s q n → n ≤ published s q → WritesG (.rwait d a c) s d (BitVec.ofNat 64 r.head)) ∧
    (usable s q n → published s q < n → Stalls (.rwait d a c) s) ∧
    (usable s q n → n ≤ published s q → Passes (release allClasses r.scope) s →
      Completes (.rrel a c) s (withRing s q { r with head := (r.head + n) % 65536 }) (s.pc + 8)) ∧
    (usable s q n → published s q < n → exec (.rrel a c) s = .next (s.raise cRingcfg q)) ∧
    (¬ usable s q n → ∀ i ∈ [Instr.rclm d a c, .rpub a c, .rwait d a c, .rrel a c], exec i s = .next (s.raise cRingcfg q)))
/-- R52, R128, R157, R252, R253: TBSET stores a doubleword of scratchpad; TBWAIT goes on when the word is zero or was seen zero, stalls
otherwise, and raises POISON for a poisoned word and BARORPHAN when its timeout has passed; joining, arriving at, awaiting and leaving a gang barrier, their
stalls, and BARORPHAN with the barrier's number.
It rests also on the model's choices of log 34. -/
def Obligations.BarriersWaitAndComplete : Prop :=
  (∀ (s : State) (a b : Nat), notSteward s → s.inBound [a, b] [] → s.unarmed →
    let o := (s.g a).toNat
    o + 8 ≤ spSize s.cur → o % 8 = 0 →
    (Passes (orderWrite cmTb) s → Passes (spTouch s.acc o 8) s →
      Completes (.tbset a b) s (s.spStored o (bytesOf 8 (s.g b).toNat)) (s.pc + 8)) ∧
    let w := watching s o (s.g b).toNat
    let stalled := w.modHere fun t => { t with stallSince := some (t.stallSince.getD s.tick) }
    ((orderRead 15).run w = .error .stall w → exec (.tbwait a b) s = .next stalled) ∧
    (Passes (orderRead 15) w → s.here.spBad o 8 = true → exec (.tbwait a b) s = .next (s.raise cPoison 0)) ∧
    (Passes (orderRead 15) w → s.here.spBad o 8 = false → Passes (spTouch s.acc o 8) w →
    (s.here.spNum o 8 = 0 → Completes (.tbwait a b) s w (s.pc + 8)) ∧
    (∀ o' dl, s.here.tb = some (o', dl, true) → Completes (.tbwait a b) s w (s.pc + 8)) ∧
    (s.here.spNum o 8 ≠ 0 → s.here.tb = none →
      w.here.tb = some (o, if (s.g b).toNat = 0 then 0 else s.tick + (s.g b).toNat, false) ∧ exec (.tbwait a b) s = .next stalled) ∧
    (∀ o' dl, s.here.spNum o 8 ≠ 0 → s.here.tb = some (o', dl, false) → dl = 0 ∨ s.tick < dl → exec (.tbwait a b) s = .next stalled) ∧
    (∀ o' dl, s.here.spNum o 8 ≠ 0 → s.here.tb = some (o', dl, false) → 0 < dl → dl ≤ s.tick →
      exec (.tbwait a b) s = .next (s.raise cBarorphan 0xFFFFFFFF)))) ∧
  (∀ (s : State) (n : Nat), notSteward s → s.unarmed →
    let k := barKey s.cur n
    let b := s.bar k
    let j := s.here.gpos
    (∀ id, s.here.step = some id → b.m = [] ∨ b.step = id →
      Completes (.barj n) s (s.setBar k { b with step := id, m := addTo b.m j }) (s.pc + 8)) ∧
    (∀ id, s.here.step = some id → b.m ≠ [] → b.step ≠ id → exec (.barj n) s = .next (s.raise cBarorphan n)) ∧
    (isMember s n → b.a.contains j = false → Passes (release allClasses (if n < 64 then 1 else 2)) s →
      Completes (.bara n) s (s.setBar k (completed { b with a := b.a ++ [j], last := fput j b.gen b.last })) (s.pc + 8)) ∧
    (isMember s n → b.a.contains j = true → Stalls (.bara n) s) ∧
    (isMember s n → (∀ g, fget? b.last j = some g → g < b.gen) → Completes (.barw n) s s (s.pc + 8)) ∧
    (∀ g, isMember s n → fget? b.last j = some g → b.gen ≤ g → Stalls (.barw n) s) ∧
    (isMember s n → Completes (.barx n) s (s.setBar k (completed { b with m := remove b.m j, a := remove b.a j, last := fdel j b.last })) (s.pc + 8)) ∧
    (¬ isMember s n → ∀ i ∈ [Instr.bara n, .barw n, .barx n], exec i s = .next (s.raise cBarorphan n)))
/-- R158, R254: PHASE adds 1 to its phase when no neighbour lags by more than `sys.lead`; QSEQ reads its sequences;
QDRAIN goes on when every command of the named queues has completed.
It rests also on the model's choices of log 27, 42 and 95. -/
def Obligations.PhasesAndQueueQueries : Prop :=
  ∀ (s : State), notSteward s → s.unarmed →
    (∀ (k : Nat), k < 4 →
      (∀ j ∈ neighboursOf s, signedN 32 (fget 0 s.here.phase k + 2 ^ 32 - fget 0 s.here.nbPhase (4 * j + k)) ≤ s.here.lead) →
      Completes (.phase k) s (s.modHere fun t => { t with phase := fset 0 t.phase k ((fget 0 s.here.phase k + 1) % 2 ^ 32) }) (s.pc + 8)) ∧
    (∀ (k j : Nat), j ∈ neighboursOf s →
      (s.here.lead : Int) < signedN 32 (fget 0 s.here.phase k + 2 ^ 32 - fget 0 s.here.nbPhase (4 * j + k)) → Stalls (.phase k) s) ∧
    (∀ d q, s.inBound [d] [] → WritesG (.qseq d q 0) s d (BitVec.ofNat 64 (s.engq s.cur q).next) ∧
      WritesG (.qseq d q 1) s d (BitVec.ofNat 64 (firstUnstarted s q))) ∧
    (∀ d q, s.inBound [d] [] → (q = 0 → s.here.landing = []) → (s.engq s.cur q).cur = none →
      WritesG (.qseq d q 2) s d (BitVec.ofNat 64 (firstUnstarted s q))) ∧
    (∀ d q f, s.inBound [d] [] → (q = 0 → s.here.landing = []) → (s.engq s.cur q).cur = some f →
      WritesG (.qseq d q 2) s d (BitVec.ofNat 64 f.seq)) ∧
    (∀ d l r, s.inBound [d] [] → s.here.landing = l :: r → WritesG (.qseq d 0 2) s d (BitVec.ofNat 64 l.seq)) ∧
    (∀ mask, (∀ q < 6, mask.testBit q = true → (s.engq s.cur q).cur = none ∧ published s q = 0 ∧ (q = 0 → s.here.landing = [])) →
      Completes (.qdrain mask) s (s.modHere fun t => (range 0 6).foldl (fun t q =>
        if mask.testBit q then t.acquires ccAgent (t.released q) else t) t) (s.pc + 8)) ∧
    (∀ mask q, q < 6 → mask.testBit q = true → published s q ≠ 0 → Stalls (.qdrain mask) s)

/-- R256: MCFG writes the shadow copy, MCFGRD reads the shadow or the active copy, MHSET sets a header pointer
of the shadow copy, with ALIGN before SPBOUND. -/
def Obligations.MatrixConfigurationRegisters : Prop :=
  ∀ (s : State) (a d idx : Nat), notSteward s → s.inBound [a, d] [] → s.unarmed →
    Completes (.mcfg a idx) s (s.modHere fun t => { t with mcShadow := fset 0 t.mcShadow idx (s.g a) }) (s.pc + 8) ∧
    WritesG (.mcfgrd d idx 0) s d (fget 0 s.here.mcShadow idx &&& mcfgFields idx) ∧
    WritesG (.mcfgrd d idx 1) s d (fget 0 s.here.mcActive idx &&& mcfgFields idx) ∧
    ((s.g a).toNat % 32 = 0 → (s.g a).toNat < 0x17FFE1 →
      Completes (.mhset a idx) s (s.modHere fun t => { t with mcShadow := fset 0 t.mcShadow (8 + idx) (s.g a) }) (s.pc + 8)) ∧
    ((s.g a).toNat % 32 ≠ 0 → exec (.mhset a idx) s = .next (s.raise cAlign 0)) ∧
    ((s.g a).toNat % 32 = 0 → 0x17FFE1 ≤ (s.g a).toNat → exec (.mhset a idx) s = .next (s.raise cSpbound 0))
/-- R257, R258: TICK and PRMGET write their values; SLEEPU and PRMWAIT go on when their time or copy has come and
stall before; PRMWAIT raises PROMISE once for a copy whose promised tick has passed. -/
def Obligations.TimeAndPromises : Prop :=
  (∀ (s : State) (d : Nat), s.inBound [d] [] → s.unarmed → Unrecorded s → WritesG (.tick d) s d (BitVec.ofNat 64 s.tick)) ∧
  (∀ (s : State) (a : Nat), s.inBound [a] [] → s.unarmed →
    ((s.g a).toNat ≤ s.tick → Completes (.sleepu a) s s (s.pc + 8)) ∧ (s.tick < (s.g a).toNat → Stalls (.sleepu a) s)) ∧
  (∀ (s : State) (a d : Nat), notSteward s → s.inBound [a, d] [] → s.unarmed →
    let x := (s.g a).toNat % 2 ^ 32
    let told := fget false (s.engq s.cur 2).reported x
    WritesG (.prmget d a) s d (BitVec.ofNat 64 (promised s (s.g a).toNat)) ∧
    (¬ copyRuns s x → Completes (.prmwait a) s (s.modHere fun t => t.acquires ccAgent (t.released 2)) (s.pc + 8)) ∧
    (copyRuns s x → s.tick ≤ promised s x ∨ told = true → Stalls (.prmwait a) s) ∧
    (copyRuns s x → promised s x < s.tick → told = false →
      exec (.prmwait a) s = .next ((s.setEngq s.cur 2 { s.engq s.cur 2 with reported := fput x true (s.engq s.cur 2).reported }).raise cPromise x)))
/-- R259: the four indexed moves, and REGBOUND with the index as DETAIL when it lies outside the bound, with nothing else changed; FN is zero. -/
def Obligations.IndexedRegisterMoves : Prop :=
  (∀ (s : State) (d a imm : Nat), s.unarmed →
    let x := indexOf s a imm
    (s.inBound [d, a] [] → indexIn x s.here.regbnd →
      WritesG (.movxr d a imm) s d (s.g x.toNat) ∧ WritesG (.movxw d a imm) s x.toNat (s.g d)) ∧
    (s.inBound [a] [d] → indexIn x (s.here.regbnd / 2) →
      WritesF (.fmovxr d a imm) s d (s.f x.toNat) ∧ WritesF (.fmovxw d a imm) s x.toNat (s.f d)) ∧
    (s.inBound [d, a] [] → ¬ indexIn x s.here.regbnd →
      exec (.movxr d a imm) s = .next (s.raise cRegbound (x.toNat % 2 ^ 32)) ∧ exec (.movxw d a imm) s = .next (s.raise cRegbound (x.toNat % 2 ^ 32))) ∧
    (s.inBound [a] [d] → ¬ indexIn x (s.here.regbnd / 2) →
      exec (.fmovxr d a imm) s = .next (s.raise cRegbound (x.toNat % 2 ^ 32)) ∧
        exec (.fmovxw d a imm) s = .next (s.raise cRegbound (x.toNat % 2 ^ 32)))) ∧
  MustBeZero 0x80 0 9 ∧ MustBeZero 0x81 0 9 ∧ MustBeZero 0x82 0 9 ∧ MustBeZero 0x83 0 9
/-- R263, R265, R267: reading and writing words of a context's record, PERM outside the table, and the launch data of
the running step; ITER and BUCKET are illegal off the CC.
It rests also on the model's choices of log 32. -/
def Obligations.ContextRecordsAndLaunchData : Prop :=
  (∀ (s : State) (a d w : Nat), s.inBound [a, d] [] → s.unarmed →
    let c := (s.g a).toNat % 65536
    let may := 2 ≤ s.here.core.priv ∨ s.ctxVf c = s.here.vf
    (may → WritesG (.ctxrd d a w) s d (BitVec.ofNat 64 (s.ctxd c (64 * w + 63) (64 * w)))) ∧
    (¬ may → exec (.ctxrd d a w) s = .next (s.raise cPerm 0))) ∧
  (∀ (s : State) (a b w : Nat), s.inBound [a, b] [] →
    let c := (s.g a).toNat % 65536
    let v := (s.g b).toNat
    let kept := if w = 0 then v / 65536 * 65536 + c else v
    let s1 := s.setCtxd c (64 * w + 63) (64 * w) kept
    (mayWriteWord s c w → ∃ t, exec (.ctxwr a b w) s = .next t ∧ t = (if w = 0 ∨ w = 2 then s1.evaluate c else s1).retire
      ((if w = 0 ∨ w = 2 then s1.evaluate c else s1).pc + 8)) ∧
    (¬ mayWriteWord s c w → exec (.ctxwr a b w) s = .next (s.raise cPerm 0))) ∧
  (∀ (s : State) (d sel : Nat) (st : Step), s.onCc = true → s.inBound [d] [] → s.unarmed → s.stepAt s.cur = some st →
    WritesG (.iter d sel) s d (BitVec.ofNat 64 (if sel = 7 then mixedRadix st.levels s.here.point 0 else if sel = 6 then st.levels.length
      else ((nth? st.levels sel).map (·.2)).getD 0)) ∧
    (st.bucket = none → WritesG (.bucket d sel) s d (if sel = 0 then BitVec.allOnes 64 else 0)) ∧
    (∀ k e, st.bucket = some (k, e) → WritesG (.bucket d sel) s d
      (BitVec.ofNat 64 (if sel = 0 then k else e / 2 ^ (32 * (sel - 1)) % 2 ^ 32)))) ∧
  (∀ (s : State) (d sel : Nat), s.onCc = false → exec (.iter d sel) s = .next (s.raise cIllegal 0) ∧
    exec (.bucket d sel) s = .next (s.raise cIllegal 0))
/-- R149, R260 to R262: the codes that CTXSW and YIELD answer, the switch that they begin, NODE's masks, PARK in its
three cases, and WAKE.
It rests also on the model's choices of log 43, 44, 46, 69, 81 and 93. -/
def Obligations.SwitchParkAndWake : Prop :=
  (∀ (s : State) (d a : Nat), s.onCc = true → s.inBound [d, a] [] → s.unarmed →
    let c := (s.g a).toNat % 65536
    let switched (c : Nat) : State := (left s).beginSwitch s.cur ⟨none, s.pc + 8, true, some (some c), d, s.pc⟩
    (s.ctxState c ≠ 1 ∨ s.soundCtx c = false → WritesG (.ctxsw d a 0) s d 1) ∧
    (s.ctxState c = 1 → s.soundCtx c = true → s.ctxVf c ≠ s.here.vf → s.here.cc.priv = 0 → WritesG (.ctxsw d a 0) s d 2) ∧
    (s.batchedHere = true → WritesG (.yield d) s d 3 ∧ WritesG (.ctxsw d a 1) s d 3) ∧
    (s.ctxState c = 1 → s.soundCtx c = true → s.ctxVf c = s.here.vf ∨ s.here.cc.priv ≠ 0 → s.batchedHere = true → WritesG (.ctxsw d a 0) s d 3) ∧
    (s.batchedHere = false → s.pickContext s.cur (some s.here.ctx) = none → WritesG (.yield d) s d 4 ∧ WritesG (.ctxsw d a 1) s d 4) ∧
    (s.ctxState c = 1 → s.soundCtx c = true → s.ctxVf c = s.here.vf → s.batchedHere = false → s.elsewhere s.cur c = true → WritesG (.ctxsw d a 0) s d 5) ∧
    (s.ctxState c = 1 → s.soundCtx c = true → s.ctxVf c = s.here.vf → s.batchedHere = false → s.elsewhere s.cur c = false →
      exec (.ctxsw d a 0) s = .next (switched c)) ∧
    (∀ k, s.batchedHere = false → s.pickContext s.cur (some s.here.ctx) = some k →
      exec (.yield d) s = .next (switched k) ∧ exec (.ctxsw d a 1) s = .next (switched k))) ∧
  (∀ (s : State) (a b imm : Nat), s.onCc = true → s.inBound [a, b] [] → s.unarmed → traceOff s (dieOf s.cur) → s.here.victim = false →
    ∃ t, exec (.node a b imm) s = .next t ∧ t.here.node = some (s.g a, s.g b) ∧ t.pc = s.pc + 8 ∧ (∀ r, t.g r = s.g r) ∧
      (∀ r, t.f r = s.f r) ∧ (∀ x, t.memByte x = s.memByte x)) ∧
  (∀ (s : State) (id : Nat), s.onCc = true → s.unarmed → s.here.step = some id →
    Completes (.park 1) s (s.modStep id fun st => { st with deferPark := some s.pc.toNat }) (s.pc + 8) ∧
    (s.ctxd s.here.ctx 51 51 = 1 → exec (.park 0) s = .next ((s.setCtxd s.here.ctx 51 51 0).retire (s.pc + 8))) ∧
    (s.ctxd s.here.ctx 51 51 ≠ 1 → exec (.park 0) s = .next ((left s).parkAt s.cur 5 0 (s.pc + 8) s.pc))) ∧
  (∀ (s : State) (a : Nat), ccOrSteward s → s.inBound [a] [] →
    let c := (s.g a).toNat % 65536
    (¬ (s.ctxVf c = s.here.vf ∨ 2 ≤ s.here.core.priv) → exec (.wake a) s = .next (s.raise cPerm 0)) ∧
    (s.ctxVf c = s.here.vf ∨ 2 ≤ s.here.core.priv → Passes (release allClasses 2) s →
      (s.ctxState c = 0 → exec (.wake a) s = .next (s.retire (s.pc + 8))) ∧
      (s.ctxState c = 3 ∨ s.ctxState c = 4 → s.ctxReason c = 5 → exec (.wake a) s = .next ((s.unparkCtx c).retire ((s.unparkCtx c).pc + 8))) ∧
      (s.ctxState c ≠ 0 → s.ctxReason c ≠ 5 ∨ (s.ctxState c ≠ 3 ∧ s.ctxState c ≠ 4) →
        exec (.wake a) s = .next ((s.setCtxd c 51 51 1).retire (s.pc + 8)))))
/-- R155, R156, R264 to R267: LAUNCH puts the packet into the queue's next slot and answers its index; EXIT and KILL
end the iteration on a CC and the prologue on a CFE; an ended iteration leaves its gang position idle.
It rests also on the model's choices of log 32, 45 and 69. -/
def Obligations.LaunchExitAndKill : Prop :=
  (∀ (s s1 s2 s3 s4 : State) (d a b : Nat) (w w' : Way) (bs : List Byte),
    let qn := (s.g a).toNat
    let va := (s.g b).toNat
    let die := qn / 64
    let q := qn % 64
    let lq := s.lq die q
    ccOrSteward s → s.inBound [d, a, b] [] → qn < 256 → va % 8 = 0 → s.lqEn die q = true → s.lqVf die q = s.here.vf →
    (s.physical = true ∨ va < 2 ^ 56) → (wayTo va 8 .r).run s = .ok w s1 → (wayTo (va + 120) 8 .r).run s1 = .ok w' s2 →
    Passes (release allClasses 2) s2 → (lq.prod + 2 ^ 32 - lq.cons) % 2 ^ 32 ≠ 2 ^ s.lqNlog die q → (w.read 128).run s2 = .ok bs s3 →
    (writeHome { s3.acc with asid := s.lqAsid die q } (bits (s.lqdesc die q) 127 72 + 128 * (lq.prod % 2 ^ s.lqNlog die q)) bs).run s3 = .ok ⟨⟩ s4 →
    Passes (release allClasses 3) s4 →
    let s5 := (s4.setLq die q { s4.lq die q with prod := (lq.prod + 1) % 2 ^ 32 }).setG d (BitVec.ofNat 64 lq.prod)
    exec (.launch d a b) s = .next (s5.retire (s5.pc + 8))) ∧
  (∀ (s : State), s.onCc = true → (∀ q < 6, s.queueIdle s.cur q = true) →
    let u := s.modHere fun t => (List.range 6).foldl (fun t q => t.acquires ccAgent (t.released q)) t
    Passes (release allClasses 2) u → u.owes s.cur = false → exec .exit s = .next ((left u).endIteration s.cur false)) ∧
  (∀ (s : State), s.onCc = true → exec .kill s = .next ((left s).kill s.cur)) ∧
  (∀ (s : State), isCfe s.cur = true →
    exec .exit s = .next (s.endPrologue (s.cur - 512) (some (s.g 8).toNat)) ∧ exec .kill s = .next (s.endPrologue (s.cur - 512) none)) ∧
  (∀ (s : State) (t : Nat) (kill : Bool) (st : Step), s.stepAt t = some st → (s.place t).gpos < st.positions.length →
    kill = true ∨ st.aborted = true ∨ (s.place t).victim = true ∨ nextPoint st.levels (s.place t).point = none →
    ∃ st' p, (s.endIteration t kill).stepOf st.id = some st' ∧ nth? st'.positions (s.place t).gpos = some p ∧ p.busy = false ∧ p.left = kill)

/-- R268, R357, R364, R365, R404: TRAP raises its cause with g[A] as detail, BKPT raises BREAK at itself, SYSCALL raises SYSCALL with
`sys.epc` at the next instruction; where a cause goes on each kind of core.
It rests also on the model's choices of log 11, 35, 51 and 89. -/
def Obligations.TrapsEnterTheirHandler : Prop :=
  (∀ (s : State) (a c imm : Nat),
    (s.atLeast 1 → s.inBound [a] [] → exec (.trap a c) s = .next (s.raise c ((s.g a).toNat % 2 ^ 32))) ∧
    exec (.bkpt imm) s = .next (s.raise cBreak imm)) ∧
  (∀ (s : State) (c d h : Nat), s.onCc = true → c < 256 → traceOff s (dieOf s.cur) → HandlerIs s c h →
    (h ≠ 0 → h % 8 = 0 → h < 2 ^ 56 → HandlerBegun s (s.raise c d) c d h s.pc ∧ (s.raise c d).mem = s.mem ∧
      (∀ r, (s.raise c d).here.cc.getG r = s.here.cc.getG r) ∧ ∀ p, p ≠ s.cur → (s.raise c d).place p = s.place p) ∧
    (h = 0 → (s.raise c d).here.hold = .escalated ∧ (s.raise c d).here.frozen = true ∧ CauseIs (s.raise c d).here.cause c d ∧
      (s.raise c d).here.epc = s.pc)) ∧
  (∀ (s : State) (imm h : Nat), s.onCc = true → traceOff s (dieOf s.cur) → HandlerIs s cSyscall h → h ≠ 0 → h % 8 = 0 → h < 2 ^ 56 →
    ∃ t, exec (.syscall imm) s = .next t ∧ HandlerBegun s t cSyscall imm h (s.pc + 8)) ∧
  (∀ (s : State) (c d : Nat), s.onSc = true → (s.raise c d).here.hold = .escalated ∧ (s.raise c d).here.frozen = true ∧
    (s.raise c d).here.epc = s.here.epc ∧ (s.raise c d).here.cause = s.here.cause ∧
    (c < 256 → ∃ w, (s.raise c d).here.scEvent = some (s.here.sc.pc, w) ∧ CauseIs w c d)) ∧
  (∀ (s : State) (c d : Nat), isSteward s.cur = true → c < 256 →
    let t := s.raise c d
    let ctl := iodReg 0 (0x6000 + 0x100 * (s.cur - 516))
    (s.here.cc.priv < 3 → t.here.cc.priv = s.here.cc.priv + 1 ∧ t.here.cc.pc = BitVec.ofNat 64 (s.regN ctl / 2 ^ 16 * 256 + 8 * c) ∧
      CauseIs t.here.cause c d ∧ t.here.epc = s.pc ∧ (t.reg ctl).extractLsb' 2 2 = BitVec.ofNat 2 s.here.cc.priv) ∧
    (3 ≤ s.here.cc.priv → t.here.hold = .halted)) ∧
  (∀ (s : State) (c d : Nat), isCfe s.cur = true → fget? (s.raise c d).prologues (s.cur - 512) = none)
/-- R178, R366, R373, R404: each action of ERET. It copies the registers back below the bound and resumes at `sys.epc`, or
steps, parks, makes the context Ready, kills, or escalates; a steward core returns to PPRIV. A virtual address at or above 2^56 in
`sys.epc` raises PERM where the action continues there.
It rests also on the model's choices of log 50 and 69. -/
def Obligations.ReturnsFromExceptions : Prop :=
  (∀ (s : State), s.onSc = true → s.atLeast 1 →
    ((resumePc s).toNat < 2 ^ 56 → (∃ t, exec .eretResume s = .next t ∧ t.here.frozen = false ∧ t.here.cc.pc = resumePc s ∧ CopiedBack s t ∧ t.here.stepArm = false ∧
      t.here.entering = none ∧ t.mem = s.mem ∧ ∀ p, p ≠ s.cur → t.place p = s.place p) ∧
    (∃ t, exec .eretStep s = .next t ∧ t.here.frozen = false ∧ t.here.cc.pc = resumePc s ∧ CopiedBack s t ∧ t.here.stepArm = true ∧
      t.here.entering = none ∧ t.mem = s.mem ∧ ∀ p, p ≠ s.cur → t.place p = s.place p) ∧
    exec .eretParkPromise s = .next ((returned s).parkTile s.cur 7 (s.here.cause >>> 32).toNat (resumePc s)) ∧
    (s.ctxd s.here.ctx 51 51 ≠ 1 → exec .eretParkExplicit s = .next ((returned s).parkTile s.cur 5 0 (resumePc s))) ∧
    (s.ctxd s.here.ctx 51 51 = 1 → ∃ t, exec .eretParkExplicit s = .next t ∧ t.here.frozen = false ∧ t.here.cc.pc = resumePc s ∧ CopiedBack s t) ∧
    exec .eretReady s = .next ((returned s).beginSwitch s.cur ⟨none, resumePc s, false, none, 0, resumePc s⟩) ∧
    exec .eretKill s = .next (((returned s).modHere fun t => { t with
      frozen := false, entering := none, cc := { t.cc with pc := resumePc s } }).kill s.cur)) ∧
    (2 ^ 56 ≤ (resumePc s).toNat → ∀ i ∈ eretsTo, exec i s = .next (s.raise cPerm 0)) ∧
    (∃ t, exec .eretQstep s = .next t ∧ t.here.frozen = true ∧ CopiedBack s t ∧ t.here.entering = none ∧
      t.here.qstep = some ((returned s).readyQueues s.cur, 0)) ∧
    (∃ t, exec .eretEscalate s = .next t ∧ t.here.hold = .escalated ∧ t.here.frozen = true)) ∧
  (∀ (s : State) (i : Instr), i ∈ erets → isSteward s.cur = true → s.atLeast 1 →
    let ctl := iodReg 0 (0x6000 + 0x100 * (s.cur - 516))
    ((i ∈ eretsTo → (resumePc s).toNat < 2 ^ 56) →
      ∃ t, exec i s = .next t ∧ t.here.cc.pc = resumePc s ∧ t.here.cc.priv = ((s.reg ctl).extractLsb' 2 2).toNat ∧
        (∀ r, t.here.cc.getG r = s.here.cc.getG r) ∧ t.mem = s.mem) ∧
    (i ∈ eretsTo → 2 ^ 56 ≤ (resumePc s).toNat → exec i s = .next (s.raise cPerm 0)))
/-- R194, R195, R269: SYSRD and SYSWR of every system register; a write of a read-only register is ignored. Reads of `sys.cutv` and
writes of the address space, the function and the bound wait until no command of the tile is started.
It rests also on the model's choices of log 2 and 49. -/
def Obligations.SystemRegistersReadAndWrite : Prop :=
  (∀ (s : State) (d n v : Nat), s.inBound [d] [] → s.unarmed → (n = 0x10 ∨ n = 0x11 ∨ n = 0x31 → s.atLeast 1) → sysValue s n = some v →
    WritesG (.sysrd d n) s d (BitVec.ofNat 64 v)) ∧
  (∀ (s : State) (d : Nat), s.inBound [d] [] → s.unarmed →
    (isTile s.cur = true → WritesG (.sysrd d 3) s d (BitVec.ofNat 64 (s.here.gpos * 2 ^ 32 + s.pkgNum * 2 ^ 16 + s.cur))) ∧
    (Unrecorded s → WritesG (.sysrd d 7) s d (BitVec.ofNat 64 s.tick)) ∧
    (∀ q < 6, WritesG (.sysrd d (0x20 + q)) s d (BitVec.ofNat 64 (qwaitValue s q))) ∧
    (isTile s.cur = true → s.atLeast 1 → EnginesRest s →
      ∀ k < 7, WritesG (.sysrd d (0x18 + k)) s d (BitVec.ofNat 64 (s.cutv s.cur k)))) ∧
  (∀ (s : State) (a n : Nat), s.inBound [a] [] → s.unarmed → (n = 5 ∨ s.atLeast 1) → n ≠ 6 →
    (n = 1 ∨ n = 2 ∨ n = 4 → EnginesRest s) →
    Completes (.syswr a n) s (s.modHere (sysWritten n (s.g a))) (s.pc + 8)) ∧
  (∀ (s : State) (a n : Nat), s.inBound [a] [] → s.atLeast 1 → n = 1 ∨ n = 2 ∨ n = 4 → ¬ EnginesRest s → Stalls (.syswr a n) s) ∧
  (∀ (s : State) (a : Nat), s.inBound [a] [] → s.unarmed → s.unstarted s.cur 0 = 0 → (s.engq s.cur 0).cur = none → s.queueIdle s.cur 1 = true →
    let seed := if (s.g a).toNat % 2 ^ 32 = 0 then 1 else (s.g a).toNat % 2 ^ 32
    Completes (.syswr a 6) s (s.modHere fun t => { t with srseed := seed, vesr := seed, mesr := ((BitVec.ofNat 32 seed).rotateLeft 16).toNat }) (s.pc + 8))
/-- R198: legality here, then privilege, then the register bound come before an instruction's own effect: ILLEGAL off
its cores, PRIV below its privilege, REGBOUND with the first field at or above the bound.
It rests also on the model's choices of log 33. -/
def Obligations.ChecksPrecedeTheEffect : Prop :=
  (∀ (i : Instr) (s : State), confined s i = some false → exec i s = .next (s.raise cIllegal 0)) ∧
  (∀ (i : Instr) (s : State) (n : Nat), privilegeOf i = some n → legalHere s i → s.here.core.priv < n → exec i s = .next (s.raise cPriv 0)) ∧
  (∀ (i : Instr) (s : State) (fields : List Nat) (r : Nat), plainFields s i = some fields →
    fields.find? (fun x => decide (x ≠ 0 ∧ s.here.regbnd ≤ x)) = some r → exec i s = .next (s.raise cRegbound r))
/-- R69, R80, R270 to R272, R409: halting and idling, a shoot-down, replication, loading and killing a key, and zeroing
scratchpad.
It rests also on the model's choices of log 52, 53 and 78. -/
def Obligations.PrivilegedOperationsComplete : Prop :=
  (∀ (s : State), s.unarmed → (s.atLeast 3 → Completes .halt s (s.modHere fun t => { t with hold := .halted }) (s.pc + 8)) ∧
    (s.atLeast 1 → Completes .idle s (s.modHere fun t => { t with hold := .idle }) (s.pc + 8))) ∧
  (∀ (s : State) (d a b opt : Nat), s.inBound [d, a, b] [] → s.atLeast 2 →
    let asid := if opt.testBit 0 then none else some ((s.g d).toNat % 65536)
    let all := opt.testBit 1
    let first := (s.g a).toNat / 8192
    let stop := ((s.g a).toNat + (s.g b).toNat + 8191) / 8192
    let covers (k : LineKey) : Bool := k.asid == asid && (all || (first ≤ k.line / 64 && k.line / 64 < stop))
    (all = false → s.g b = 0 → exec (.shoot d a b opt) s = .next (s.retire (s.pc + 8))) ∧
    (all = true ∨ s.g b ≠ 0 → s.here.begun = none → s.unsettled covers = true → Stalls (.shoot d a b opt) s) ∧
    (all = true ∨ s.g b ≠ 0 → s.here.begun = none → s.unsettled covers = false →
      let s1 := (s.shoot asid all first stop).modHere fun t => { t with begun := some (s.places.map fun e => (e.1, e.2.order)) }
      (∀ e ∈ s1.home, e.2.waits = false) → (∀ e ∈ s1.places, ∀ l ∈ e.2.l1, covers l.2.key = true → l.2.pend = []) →
      exec (.shoot d a b opt) s = .next (s1.retire (s1.pc + 8)))) ∧
  (∀ (s : State) (a deg : Nat) (o : Option Nat) (va : Nat), s.inBound [a] [] → s.atLeast 1 → (s.physical = true ∨ (s.g a).toNat < 2 ^ 56) →
    s.namedRegion (s.g a).toNat = some (o, va) → Passes (orderRead 15) s →
    let s1 := (s.setDegree o va deg).modRegion o va fun r => { r with pin := true }
    let s0 := s.modRegion o va fun r => { r with pin := false }
    exec (.replset a deg 1) s = .next (s1.retire (s1.pc + 8)) ∧ exec (.replset a deg 0) s = .next (s0.retire (s0.pc + 8))) ∧
  (∀ (s : State) (d a b slot : Nat), s.inBound [d, a, b] [] → s.atLeast 2 → s.unarmed →
    let fn := (s.g d).toNat % 128
    let tile := if isSteward s.cur then (s.g d).toNat / 2 ^ 16 % 512 else s.cur
    fn ≤ 64 → (isSteward s.cur = true → (s.g d).toNat / 2 ^ 7 % 2 ^ 9 = 0 ∧ (s.g d).toNat < 2 ^ 25) → (isSteward s.cur = false → (s.g d).toNat < 128) →
    slotFree (s.place tile) slot → (∀ e ∈ (s.place tile).keys, e.1 ≠ slot → e.2.valid = true → e.2.fn ≠ fn) →
    s.limits fn / 2 ^ 136 % 32 ≠ 0 → s.gated.contains (dieOf tile) = false →
    Completes (.keyload d a b slot) s (s.modPlace tile fun t => { t with
      keys := fput slot ⟨(s.g a).toNat + 2 ^ 64 * (s.g b).toNat, fn, true, none⟩ t.keys }) (s.pc + 8)) ∧
  (∀ (s : State) (a slot : Nat), s.inBound [a] [] → s.atLeast 2 → s.unarmed → (isSteward s.cur = false → a = 0) → (s.g a).toNat < 512 →
    (isSteward s.cur = true → s.gated.contains (dieOf (s.g a).toNat) = false) →
    let tile := if isSteward s.cur then (s.g a).toNat else s.cur
    Completes (.keykill a slot) s (s.modPlace tile fun t => { t with
      keys := fput slot ⟨0, 0, false, some 0⟩ t.keys, kernel := if t.bstSlots.contains slot then none else t.kernel }) (s.pc + 8)) ∧
  (∀ (s : State) (a b : Nat), s.inBound [a, b] [] → s.atLeast 1 → s.unarmed →
    let lo := if s.g b = 0 then 0 else (s.g a).toNat
    let n := if s.g b = 0 then spSize s.cur else (s.g b).toNat
    (s.g a).toNat % 64 = 0 → (s.g b).toNat % 64 = 0 → lo + n ≤ spSize s.cur → Passes (orderRead 15) s → Passes (spTouch s.acc lo n) s →
    ∃ t, exec (.zerosp a b) s = .next t ∧ ZeroedRange t.here lo n ∧ t.pc = s.pc + 8 ∧ t.mem = s.mem ∧ (∀ r, t.g r = s.g r) ∧
      ∀ k, k < lo ∨ (lo + n ≤ k ∧ k < spSize s.cur) → t.here.spByte k = s.here.spByte k)
/-- R273, R274, R374, R419, R424: MARK counts, CNTRD reads a counter, CAUSAL arms and disarms a range of the step, for every tile of
the gang; QRESET empties a queue and ends when none of its stores is left, a second one waiting for the first.
It rests also on the model's choices of log 37, 47 and 54. -/
def Obligations.CountersRangesAndQueueResets : Prop :=
  (∀ (s : State) (k : Nat), notSteward s → s.unarmed → traceOff s (dieOf s.cur) → k < 16 →
    ∃ t, exec (.mark k) s = .next t ∧ Retires s t (s.pc + 8) ∧ fget 0 t.here.cnt (0x10 + k) = (fget 0 s.here.cnt (0x10 + k) + 1) % 2 ^ 64 ∧
      (s.onCc = true → fget 0 t.here.cnt 0 = (fget 0 s.here.cnt 0 + 1) % 2 ^ 64)) ∧
  (∀ (s : State) (d a : Nat), notSteward s → s.inBound [d, a] [] → s.unarmed →
    let n := (s.g a).toNat
    (n ≤ 9 ∨ (0x10 ≤ n ∧ n ≤ 0x24) → WritesG (.cntrd d a) s d (BitVec.ofNat 64 (s.counter s.cur n))) ∧
    (9 < n → n < 0x10 ∨ 0x24 < n → WritesG (.cntrd d a) s d 0)) ∧
  (∀ (s : State) (a b k delay : Nat), notSteward s → s.inBound [a, b] [] → s.atLeast 1 → s.unarmed →
    ∃ t, exec (.causal a b k delay) s = .next t ∧ t.pc = s.pc + 8 ∧ (∀ r, t.g r = s.g r) ∧
      ((delay = 0 → ∀ x, s.stepAt s.cur = some x → x.causalD = x.trialBase) → t.mem = s.mem) ∧
      ∀ x, s.stepAt s.cur = some x → ∃ y, t.stepOf x.id = some y ∧ ∀ j, fget? y.ranges j =
        if j ≠ k then fget? x.ranges j else if delay = 0 then none else some ((s.g a).toNat / 8 * 8, (s.g b).toNat / 8 * 8, delay)) ∧
  (∀ (s : State) (a : Nat), s.inBound [a] [] → s.atLeast 1 → s.here.begun = none →
    let tile := (s.g a).toNat % 512
    let q := (s.g a).toNat / 2 ^ 10
    (s.g a).toNat / 2 ^ 9 % 2 = 0 → q < 6 →
    let s1 := s.resetEngine tile q true
    let s2 := if (s.cur = tile ∧ s.onSc = true) ∨ (s.place tile).step = none then s1 else s1.post tile ⟨cQreset, s.unsignalled tile q, some q⟩
    let s3 := (({ s2 with qresets := fput (8 * tile + q) (s2.place tile).ctx s2.qresets }).modHere fun t => { t with begun := some [] }).endQresets
    (fget? s.qresets (8 * tile + q) ≠ none → Stalls (.qreset a 0) s) ∧
    (s.qresets = [] → s2.queueStores tile q (s2.place tile).ctx = false → s3.qresets = []) ∧
    (fget? s.qresets (8 * tile + q) = none → fget? s3.qresets (8 * tile + q) = none →
      exec (.qreset a 0) s = .next (s3.retire (s3.pc + 8))) ∧
    (s1.ring tile q).tail = (s1.ring tile q).head % 65536 ∧ (s1.engq tile q).cur = none) ∧
  (∀ (s : State) (a : Nat), s.inBound [a] [] → s.atLeast 1 → (s.g a).toNat < 256 →
    let s1 := s.resetLaunch ((s.g a).toNat / 64) ((s.g a).toNat % 64)
    exec (.qreset a 1) s = .next (s1.retire (s1.pc + 8)) ∧
      (s1.lq ((s.g a).toNat / 64) ((s.g a).toNat % 64)).cons = (s1.lq ((s.g a).toNat / 64) ((s.g a).toNat % 64)).prod) ∧
  (∀ (s : State) (a opt : Nat), s.inBound [a] [] → s.atLeast 1 →
    (opt = 0 → 6 ≤ (s.g a).toNat / 2 ^ 10 ∨ (s.g a).toNat / 2 ^ 9 % 2 = 1 → exec (.qreset a opt) s = .next (s.raise cPerm 0)) ∧
    (opt ≠ 0 → 256 ≤ (s.g a).toNat → exec (.qreset a opt) s = .next (s.raise cPerm 0)))

/-- R119, R138, R139, R183, R372: dispatch writes a slot and advances TAIL; the no-op of each engine shows the protocol
of every command: it waits for its semaphore, subtracts, frees its slot, signals and counts, and an overflow posts
SEMOVF with queue and sequence instead.
It rests also on the model's choices of log 21, 27 and 71. -/
def Obligations.EngineCommandProtocol : Prop :=
  (∀ (s : State) (word q : Nat),
    let reg := if word.testBit 30 then word / 2 ^ 24 % 64 else 0
    let r := ringOf s q
    let mgo := isMgo word
    engineQueue word = some q → notSteward s → s.inBound [reg] [] → s.unarmed → r.v = true → published s q < 2 ^ r.slog →
    (mgo = true → s.here.mcOcc = false) → s.here.maps = [] →
    ∃ t, exec (.dispatch word) s = .next t ∧ t.pc = s.pc + 8 ∧ ringOf t q = { r with tail := (r.tail + 1) % 65536 } ∧
      (t.engq s.cur q).next = ((s.engq s.cur q).next + 1) % 2 ^ 32 ∧ (mgo = true → t.here.mcOcc = true ∧ t.here.mcPending = s.here.mcShadow) ∧
      (∀ k, t.here.spByte k = if r.slot r.tail ≤ k ∧ k < r.slot r.tail + 16 then
        (bytesOf 8 word ++ bytesOf 8 (s.g reg).toNat).getD (k - r.slot r.tail) 0 else s.here.spByte k) ∧
      (∀ i, t.g i = s.g i) ∧ t.mem = s.mem) ∧
  (∀ (s : State) (word q : Nat),
    let reg := if word.testBit 30 then word / 2 ^ 24 % 64 else 0
    engineQueue word = some q → notSteward s → s.inBound [reg] [] →
    ((ringOf s q).v = false → exec (.dispatch word) s = .next (s.raise cRingcfg q)) ∧
    ((ringOf s q).v = true → 2 ^ (ringOf s q).slog ≤ published s q → Stalls (.dispatch word) s)) ∧
  (∀ (i : Instr) (s : State) (q : Nat) (h : Hdr), noopOf i = some (q, h) → (q = 0 → s.here.veIssued = false) →
    (HeadReady s q h → SignalFits s h → ∃ t, exec i s = .next t ∧ CommandDone s t q h ∧ SameData s t) ∧
    (HeadReady s q h → ¬ SignalFits s h → h.sinc ≠ 0 → ∃ t, exec i s = .next t ∧ CommandFails s t q cSemovf h ∧ SameData s t) ∧
    (isTile s.cur = true → published s q ≠ 0 → (s.engq s.cur q).cur = none → s.here.starts q = true →
      fget? s.qresets (8 * s.cur + q) = none → s.queueBlocked s.cur q = false → s.here.getSem h.wsem < h.wneed →
      ∃ t, exec i s = .next t ∧ SameData s t ∧ ringOf t q = ringOf s q ∧ (∀ n, t.here.getSem n = s.here.getSem n) ∧
        (t.engq s.cur q).since = some ((s.engq s.cur q).since.getD s.tick)) ∧
    (published s q = 0 → exec i s = .next s))
/-- R279, R283 to R285, R289: each element-wise vector command issues, and its landing writes the enabled elements, zeroes
the disabled ones under Z, and leaves everything else.
It rests also on the model's choices of log 8 and 73. -/
def Obligations.VectorElementResults : Prop :=
  ∀ (i : Instr) (s : State) (h : Hdr) (x : VR) (lat : Nat) (f : Nat → Nat → Nat → Nat),
    vElem i = some (h, x, lat, f) → x.typ < 14 → VeReady s h →
    Issues i s h lat fun l => LandsElems l x.typ x.vd fun j => guardedBy s.here x.msk x.z (j / vPer x.typ)
      (f (elemAt x.typ (s.here.getV x.va) j) (bOperand s.here h x.typ x.vb (headCapOf s 0) j) (elemAt x.typ (s.here.getV x.vd) j))
/-- R220, R221, R290 to R293, R297, R298: selections, reductions, lane moves, packing, captures and tables, and the two
commands that write masks.
It rests also on the model's choices of log 8 and 28. -/
def Obligations.VectorLaneAndMaskResults : Prop :=
  (∀ (i : Instr) (s : State) (h : Hdr) (typ d lat : Nat) (f : Nat → Option Nat),
    vLaneRule s.here (headCapOf s 0) i = some (h, typ, d, lat, f) → typ < 14 → VeReady s h → Issues i s h lat fun l => LandsElems l typ d f) ∧
  (∀ (s : State) (h : Hdr) (x : VR), x.typ < 14 → VeReady s h → Issues (.vcmp h x) s h 4 fun l =>
    ∃ m : Word, LandsMask l (x.vd / 4) m ∧ ∀ i, i < 64 → m.getLsbD i = (guardBit s.here x.msk i &&
      vHolds x.typ (x.vd % 4) x.m1 (elemAt x.typ (s.here.getV x.va) i) (bOperand s.here h x.typ x.vb (headCapOf s 0) i))) ∧
  (∀ (s : State) (h : Hdr) (md ma mb mop : Nat), VeReady s h →
    Issues (.vmsk h md ma mb mop) s h 4 fun l => LandsMask l md (maskValue s.here (headCapOf s 0) ma mb mop))
/-- R210 to R215, R286 to R288, R299: conversions with the VE stream, quantisation, dequantisation and the merge of two
triples.
It rests also on the model's choices of log 8 and 24. -/
def Obligations.VectorConversionResults : Prop :=
  (∀ (s : State) (h : Hdr) (x : VC), x.typ < 14 → x.vb / 2 < 14 → VeReady s h →
    ∃ t l, exec (.vcvt h x) s = .next t ∧ SlotFreed s t 0 ∧ t.here.landing = s.here.landing ++ [l] ∧ l.rem = 6 ∧ l.ssem = h.ssem ∧ l.sinc = h.sinc ∧
      LandsElems l x.typ x.vd (vcvtAt s.here x) ∧ SameData s t ∧
      t.here.vesr = if x.sr = 1 then streamAfter s.here.vesr (enabledTo s.here x.msk (min (vPer (x.vb / 2)) (vPer x.typ))
        (64 * min (vPer (x.vb / 2)) (vPer x.typ) - 1)) else s.here.vesr) ∧
  (∀ (s : State) (h : Hdr) (x : VC), 3 ≤ x.typ → x.typ < 8 → VeReady s h →
    ∃ t a b, exec (.vqnt h x) s = .next t ∧ SlotFreed s t 0 ∧ t.here.landing = s.here.landing ++ [a, b] ∧ a.rem = 12 ∧ b.rem = 12 ∧
      a.sinc = 0 ∧ b.ssem = h.ssem ∧ b.sinc = h.sinc ∧ SameData s t ∧
      LandsElems b x.typ x.vd (fun j => if 64 * x.part ≤ j ∧ j < 64 * x.part + 64 then some (vqntElem s.here x (j - 64 * x.part)) else none) ∧
      LandsElems a 0 x.vb (fun i => if i = x.part then
        some (vqntByte s.here x 0 + 2 ^ 8 * vqntByte s.here x 1 + 2 ^ 16 * vqntByte s.here x 2 + 2 ^ 24 * vqntByte s.here x 3) else none) ∧
      t.here.vesr = if x.sr = 1 then streamAfter s.here.vesr (vqntTaken s.here x 64) else s.here.vesr) ∧
  (∀ (s : State) (h : Hdr) (x : VC), 3 ≤ x.typ → x.typ < 8 → VeReady s h → Issues (.vdqnt h x) s h 6 fun l => LandsElems l 0 x.vd (vdqntAt s.here x)) ∧
  (∀ (s : State) (h : Hdr) (dlog vd va vb : Nat), dlog ≤ 3 → VeReady s h →
    let d := 32 * 2 ^ dlog
    let m := mergeTriple (tripleOf s.here va d) (tripleOf s.here vb d)
    Issues (.vsmx h dlog vd va vb) s h 30 fun l => ∀ (p : Place) (r i : Nat), i < 64 → laneAt ((p.land l).getV r) i =
      if vd ≤ r ∧ r ≤ vd + max 1 (d / 64) then smxLane m d (r - vd) i else laneAt (p.getV r) i)
/-- R50, R52, R275, R276, R294 to R296: scratchpad loads and stores of vectors, of which at most 8 are outstanding, their checks,
and the landing of what is due in a ck, in issue order.
It rests also on the model's choices of log 8 and 23. -/
def Obligations.VectorMemoryAndLandings : Prop :=
  (∀ (i : Instr) (s : State) (x : LaneAccess), laneAccess s.here (headCapOf s 0) i = some x → VeReady s x.hdr → s.here.maps = [] →
    outstanding s < 8 → (∀ l ∈ s.here.landing, l.kind < 4) →
    (∀ k, x.on s.here k → x.addr k % 4 = 0 ∧ x.addr k + 4 ≤ 0x180000) →
    (x.store = false → (∀ k, x.on s.here k → s.here.spBad (x.addr k) 4 = false) →
      Issues i s x.hdr 18 fun l => LandsElems l 0 x.reg fun k => if guardBit s.here x.msk k then some (s.here.spNum (x.addr k) 4) else none) ∧
    (x.store = true → SignalFits s x.hdr → s.here.tb = none →
      ∃ t, exec i s = .next t ∧ CommandDone s t 0 x.hdr ∧ SameButSp s t ∧
        (∀ k o, x.on s.here k → o < 4 → (∀ k', k < k' → x.on s.here k' → x.addr k' ≠ x.addr k) →
          (t.here.spByte (x.addr k + o)).toNat = laneAt (s.here.getV x.reg) k / 256 ^ o % 256) ∧
        (∀ b, (∀ k, x.on s.here k → b < x.addr k ∨ x.addr k + 4 ≤ b) → t.here.spByte b = s.here.spByte b))) ∧
  (∀ (i : Instr) (s : State) (x : LaneAccess), laneAccess s.here (headCapOf s 0) i = some x → VeReady s x.hdr →
    outstanding s < 8 →
    ((∃ k, x.on s.here k ∧ x.addr k % 4 ≠ 0) → ∃ t, exec i s = .next t ∧ CommandFails s t 0 cAlign x.hdr ∧ SameData s t) ∧
    ((∀ k, x.on s.here k → x.addr k % 4 = 0) → (∃ k, x.on s.here k ∧ 0x180000 < x.addr k + 4) →
      ∃ t, exec i s = .next t ∧ CommandFails s t 0 cSpbound x.hdr ∧ SameData s t)) ∧
  (∀ (i : Instr) (s : State) (x : LaneAccess), laneAccess s.here (headCapOf s 0) i = some x → 8 ≤ outstanding s → exec i s = .next s) ∧
  (∀ (s : State) (tile : Nat), isTile tile = true → (s.place tile).veRuns = true → (∀ l ∈ (s.place tile).landing, l.kind < 4) →
    let aged := (s.place tile).landing.map fun l => { l with rem := l.rem - 1 }
    let due := aged.filter fun l => l.rem == 0
    ∃ t, exec (.veLanding tile) s = .next t ∧ (t.place tile).landing = aged.filter (fun l => l.rem != 0) ∧ (t.place tile).veIssued = false ∧
      (∀ r, (t.place tile).getV r = (due.foldl Place.land (s.place tile)).getV r) ∧
      (∀ r, (t.place tile).getM r = (due.foldl Place.land (s.place tile)).getM r) ∧ t.mem = s.mem ∧
      (∀ l, (s.place tile).landing = [l] → l.rem ≤ 1 → (s.place tile).getSem l.ssem + l.sinc ≤ 65535 →
        ∀ n, (t.place tile).getSem n = (s.place tile).getSem n + if n = l.ssem then l.sinc else 0))

/-- R219, R220, R301 to R312: MZERO clears the accumulators; MMUL, MGATH and MLUT add to each accumulator entry of their
rows and columns the exact sum of each chunk, rounded once, chunk after chunk, and leave the others.
It rests also on the model's choices of log 21 and 25. -/
def Obligations.MatrixCommandsAccumulate : Prop :=
  (∀ (s : State) (h : Hdr), HeadReady s 1 h → SignalFits s h → ∃ t, exec (.mzero h) s = .next t ∧ Accumulates s t h 1 fun _ => none) ∧
  (∀ (s : State) (h : Hdr) (nsub z : Nat),
    let ns := 2 ^ nsub
    let oa := pointer s h 0 0
    let ob := pointer s h 1 1
    let a := headerAt s oa
    let b := headerAt s ob
    HeadReady s 1 h → SignalFits s h → Undisturbed s → nsub ≤ 3 → oa ≤ 0x17FFE0 → ob ≤ 0x17FFE0 → a.ok = true → b.ok = true → hdA a b = true → hdB b = true →
    a.cols = b.rows → a.rows * ns ≤ 256 → b.cols ≤ 64 * ns → a.inside = true → b.bInside ns 1 = true →
    ∃ t, exec (.mmul h nsub z) s = .next t ∧ Accumulates s t h z fun n =>
      ((List.range a.rows).flatMap fun i => (List.range b.cols).map fun j => (i, j)).findSome? fun (i, j) =>
        if n = accEntry ns i j then some (productSum s a b ns i 0 0 j a.cols (accStart s z n)) else none) ∧
  (∀ (s : State) (h : Hdr) (nsub z nrow : Nat),
    let ns := 2 ^ nsub
    let oa := pointer s h 0 0
    let ob := pointer s h 1 1
    let il := if h.cap = 1 then 32 * (headCapOf s 1 / 2 ^ 32 % 2 ^ 16) else (fget 0 s.here.mcActive 3).toNat % 2 ^ 21
    let row (i : Nat) : Nat := s.here.spNum (il + 2 * i) 2
    let a := headerAt s oa
    let b := headerAt s ob
    HeadReady s 1 h → SignalFits s h → Undisturbed s → nsub ≤ 3 → oa ≤ 0x17FFE0 → ob ≤ 0x17FFE0 → il % 2 = 0 → il + 2 * nrow ≤ 0x180000 →
    a.ok = true → b.ok = true → hdA a b = true → hdB b = true → a.cols = b.rows → nrow * ns ≤ 256 → b.cols ≤ 64 * ns →
    (∀ i < nrow, row i = 0xFFFF ∨ row i < a.rows) → a.inside = true → b.bInside ns 1 = true →
    ∃ t, exec (.mgath h nsub z nrow) s = .next t ∧ Accumulates s t h z fun n =>
      ((List.range nrow).flatMap fun i => (List.range b.cols).map fun j => (i, j)).findSome? fun (i, j) =>
        if n = accEntry ns i j ∧ row i ≠ 0xFFFF then some (productSum s a b ns (row i) 0 0 j a.cols (accStart s z n)) else none) ∧
  (∀ (s : State) (h : Hdr) (nsub z kb gsz : Nat),
    let ns := 2 ^ nsub
    let k := kb + 1
    let g := 32 * 2 ^ gsz
    let oa := pointer s h 0 0
    let ob := pointer s h 1 1
    let a := headerAt s oa
    let b := headerAt s ob
    HeadReady s 1 h → SignalFits s h → Undisturbed s → nsub ≤ 3 → oa ≤ 0x17FFE0 → ob ≤ 0x17FFE0 → a.ok = true → b.ok = true → hdALut a = true →
    hdBLut b g = true → a.cols = 4 * b.rows → a.rows * ns ≤ 256 → b.cols ≤ 64 * ns → a.inside = true → b.bInside ns k = true →
    b.scloc + (b.cols - 1) * b.scpitch + 8 * ((b.rows + g - 1) / g) ≤ 0x180000 →
    ∃ t, exec (.mlut h nsub z kb gsz) s = .next t ∧ Accumulates s t h z fun n =>
      ((List.range a.rows).flatMap fun i => (List.range b.cols).map fun j => (i, j)).findSome? fun (i, j) =>
        if n = accEntry ns i j then some (lookupSum s a b ns k g i 0 0 j b.rows (accStart s z n)) else none)
/-- R313, R314 to R320, R322: MDRAIN writes every element of its rows, those of its scatter list under SCT, and nothing else,
rounding with the ME stream under SR; MGO starts from the pending copy, which becomes the active one, and runs the points of its
nest in order. A point clears the accumulators at a sweep start under ZEN, performs the body at its origins, and drains at a sweep
end under DEN; what its origins, its sweeps and its spatial indices are.
It rests also on the model's choices of log 25 and 26. -/
def Obligations.MatrixDrainsAndNests : Prop :=
  (∀ (s : State) (h : Hdr) (x : Drain),
    let ns := 2 ^ x.nsub
    let mw := 256 / ns
    let oo := pointer s h 0 3
    let oc := pointer s h 1 2
    let o := headerAt s oo
    let c := headerAt s oc
    let scale := if h.cap = 1 then headCapOf s 1 / 2 ^ 32 else (fget 0 s.here.mcActive 2).toNat / 2 ^ 32
    let so := (fget 0 s.here.mcActive 3).toNat / 2 ^ 21 % 2 ^ 21
    let row (i : Nat) : Nat := if x.sct = 1 then s.here.spNum (so + 2 * i) 2 else i
    HeadReady s 1 h → SignalFits s h → Undisturbed s → x.nsub ≤ 3 → oo ≤ 0x17FFE0 → o.ok = true → hdOut o = true → o.inside = true →
    (x.bias = 1 → oc ≤ 0x17FFE0 ∧ c.ok = true ∧ hdC c o = true ∧ c.inside = true) → x.bias ≤ 1 →
    (x.sct = 1 → so % 2 = 0 ∧ so + 2 * mw ≤ 0x180000 ∧ ∀ i < mw, row i = 0xFFFF ∨ row i < o.rows) →
    ∃ t, exec (.mdrain h x) s = .next t ∧ CommandDone s t 1 h ∧ t.mem = s.mem ∧ (∀ r, t.g r = s.g r) ∧
      DrainWrites s t o x.sr x.sat (if x.sct = 1 then mw else min o.rows mw) (min o.cols (64 * ns)) 0 row (fun i j =>
        drainValue scale x.act x.bias (some (biasAt s.here c j)) (s.here.accAt (accEntry ns i j))) ∧
      (∀ n, t.here.accAt n = if x.keep = 1 then s.here.accAt n else 0)) ∧
  (∀ (s s2 s3 : State) (h : Hdr) (r : Run),
    let gang := match s.stepAt s.cur with
      | some st => max st.gang 1
      | none => 1
    HeadReady s 1 h → SignalFits s3 { h with wneed := 0 } →
    (mgoChecks ⟨s.here.mcPending⟩ (agentOf s 1) s.here.gpos gang).run (begun s 1 h) = .ok r s2 →
    (runNest (s2.cmdAcc s.cur 1 (headSeqOf s 1)) r).run (s2.modPlace s.cur fun t => { t with mcActive := t.mcPending }) = .ok ⟨⟩ s3 →
    s3.cur = s.cur → s3.here.met = none → ringOf s3 1 = ringOf s 1 → (ringOf s 1).head < 65536 → (s3.engq s.cur 1).cur = none →
    ∃ t, exec (.mgo h) s = .next t ∧ t.here.mcOcc = false ∧ t.here.mcPending = [] ∧ t.here.mcActive = s3.here.mcActive ∧
      (ringOf t 1).head = ((ringOf s 1).head + 1) % 65536 ∧ (t.engq s.cur 1).cur = none ∧ t.mem = s3.mem ∧
      (∀ n, t.here.accAt n = s3.here.accAt n) ∧ (∀ k, t.here.spByte k = s3.here.spByte k) ∧
      ∀ n, t.here.getSem n = s3.here.getSem n + if n = h.ssem then h.sinc else 0) ∧
  (∀ (n : Nest) (sp : FMap Nat) (p : List Nat), p ∈ n.points sp ↔
    p.length = n.nlev ∧ ∀ l, l < n.nlev → if n.kind l = 0 then p.getD l 0 < n.trip l else p.getD l 0 = fget 0 sp l) ∧
  (∀ (n : Nest) (sp : FMap Nat), (n.points sp).Pairwise fun p q =>
    ∃ l, l < n.nlev ∧ p.getD l 0 < q.getD l 0 ∧ ∀ k, k < l → p.getD k 0 = q.getD k 0) ∧
  (∀ (n : Nest) (gpos gang : Nat) (s s' : State) (r : Run), Undisturbed s → (mgoChecks n (agentOf s 1) gpos gang).run s = .ok r s' →
    s' = s ∧ r.nest = n ∧ r.points = ((n.spatial gpos gang).map n.points).getD [] ∧
      r.ha = headerAt s (fget 0 n.m 8).toNat ∧ r.hb = headerAt s (fget 0 n.m 9).toNat ∧ (n.den = true → r.out = headerAt s (fget 0 n.m 11).toNat) ∧
      r.kind = (if n.bodyK = 1 then .mgath ((List.range n.tm).map fun i => s.here.spNum (n.ilist + 2 * i) 2)
        else if n.bodyK = 2 then .mlut n.planes (32 * 2 ^ n.gsz) else .mmul)) ∧
  (∀ (a : Acc) (r : Run) (s : State),
    (r.points = [] → (runNest a r).run s = .ok ⟨⟩ s) ∧
    (∀ (p : List Nat) (ps : List (List Nat)) (s1 s2 : State), r.points = p :: ps →
      let n := r.nest
      let s0 := if n.zen = true ∧ n.sweepStart p = true then s.modPlace a.place Place.zeroAcc else s
      (body a r.kind r.ha r.hb n.nsub n.tm n.tn n.tk (n.orig p)).run s0 = .ok ⟨⟩ s1 →
      (n.den = true ∧ n.sweepEnd p = true → (drain a r.out n.drainF n.nsub n.tn n.tm r.sl r.bias (n.orig p)).run s1 = .ok ⟨⟩ s2) →
      (¬ (n.den = true ∧ n.sweepEnd p = true) → s2 = s1) →
      (runNest a r).run s = (runNest a { r with points := ps }).run s2)) ∧
  (∀ (s : State) (a : Acc) (kind : Kind) (ha hb : Hd) (nsub tm tn tk : Nat) (o : Orig),
    let ns := 2 ^ nsub
    a.place = s.cur → a.vf = s.here.vf → Undisturbed s → nsub ≤ 3 → tm * ns ≤ 256 → tn ≤ 64 * ns → o.br % chunkOf hb.elem = 0 →
    (∀ k g, kind = .mlut k g → hb.elem = 8 ∧ o.ac % 4 = 0 ∧ ∃ e ≤ 2, g = 32 * 2 ^ e) →
    ∃ t, (body a kind ha hb ns tm tn tk o).run s = .ok ⟨⟩ t ∧ t.mem = s.mem ∧ (∀ k, t.here.spByte k = s.here.spByte k) ∧
      t.here.mesr = s.here.mesr ∧ Undisturbed t ∧ ∀ n, t.here.accAt n =
        (((List.range tm).flatMap fun i => (List.range tn).map fun j => (i, j)).findSome? fun (i, j) =>
          if n = accEntry ns i j then bodySum s kind ha hb ns tm tn tk o i j (s.here.accAt n) else none).getD (s.here.accAt n)) ∧
  (∀ (s : State) (a : Acc) (out : Hd) (f : DrainF) (nsub tn tm : Nat) (sl bias : List Nat) (o : Orig),
    let ns := 2 ^ nsub
    a.place = s.cur → Undisturbed s → nsub ≤ 3 → out.ok = true → hdOut out = true → out.inside = true →
    (f.sct = true → ∀ i < tm, sl.getD i 0xFFFF = 0xFFFF ∨ sl.getD i 0xFFFF < out.rows) →
    ∃ t, (drain a out f ns tn tm sl bias o).run s = .ok ⟨⟩ t ∧ t.mem = s.mem ∧ Undisturbed t ∧
      DrainWrites s t out (if f.sr then 1 else 0) (if f.sat then 1 else 0) tm (min tn (out.cols - o.cc)) o.cc
        (fun i => if f.sct then sl.getD i 0xFFFF else o.cr + i) (fun i j =>
        drainValue f.scale f.act (if f.bias then 1 else 0) (some (bias.getD (o.cc + j) 0)) (s.here.accAt (accEntry ns i j))) ∧
      ∀ n, t.here.accAt n = if f.keep then s.here.accAt n else 0) ∧
  (∀ (n : Nest) (p : List Nat), p.length = n.nlev →
    (∀ lo ∈ [0, 10, 20, 30, 40, 50], 0 ≤ originOf n.m p lo) →
    ((n.orig p).ar : Int) = originOf n.m p 50 ∧ ((n.orig p).ac : Int) = originOf n.m p 40 ∧ ((n.orig p).br : Int) = originOf n.m p 30 ∧
      ((n.orig p).bc : Int) = originOf n.m p 20 ∧ ((n.orig p).cr : Int) = originOf n.m p 10 ∧ ((n.orig p).cc : Int) = originOf n.m p 0) ∧
  (∀ (n : Nest) (p : List Nat), p.length = n.nlev →
    (n.sweepStart p = true ↔ ∀ l, n.rlev ≤ l → l < n.nlev → p.getD l 0 = 0) ∧
    (n.sweepEnd p = true ↔ ∀ l, n.rlev ≤ l → l < n.nlev → p.getD l 0 + 1 = n.trip l)) ∧
  (∀ (n : Nest) (gpos gang : Nat) (sp : FMap Nat),
    let tiles := (List.range n.nlev).filter fun l => n.kind l = 1
    let dies := (List.range n.nlev).filter fun l => n.kind l = 2
    (∀ l < n.nlev, n.trip l ≠ 0) → n.spatial gpos gang = some sp → tiles ++ dies ≠ [] →
    tiles.foldl (fun x l => x * n.trip l + fget 0 sp l) 0 = gpos % gang ∧ (∀ l ∈ tiles, fget 0 sp l < n.trip l) ∧
      ∀ l ∈ dies, fget 0 sp l = gpos / gang ∧ gpos / gang < n.trip l) ∧
  (∀ (n : Nest) (gpos gang : Nat),
    let tiles := (List.range n.nlev).filter fun l => n.kind l = 1
    let dies := (List.range n.nlev).filter fun l => n.kind l = 2
    (∀ l < n.nlev, n.trip l ≠ 0) →
    (n.spatial gpos gang = none ↔ tiles ++ dies ≠ [] ∧
      (tiles.foldl (fun x l => x * n.trip l) 1 ≤ gpos % gang ∨ ∃ l ∈ dies, n.trip l ≤ gpos / gang)))

/-- R325 to R337: the copy engine. A copy with ends in scratchpad or in global memory starts with its promised tick. Then it moves
its rows, fills them, follows its scatter-gather elements, commits rows of the B-store, copies parts of pages of an object, maps a
region, lazily or filling it, unmaps one with the write-backs that are due, and writes a dirty sector back: given what its accesses
answer, it makes exactly these, in this order, and completes. Where both ends are in scratchpad, which bytes each has afterwards.
It rests also on the model's choices of log 21, 22, 24 and 25. -/
def Obligations.CopyEngineCommands : Prop :=
  (∀ (s : State) (h : Hdr) (doff : Nat) (d : Xd),
    let src := rowRanges d.src d.spitch d.rows d.len
    let dst := rowRanges d.dst d.dpitch d.rows d.len
    HasDesc s 2 h doff 64 1 d.w → Unrecorded s → d.rows ≠ 0 →
    OnlyFields d.w 512 [(511, 456), (455, 400), (399, 368), (367, 352), (351, 320), (319, 288), (149, 149), (148, 148)] →
    (d.sas = true → d.src < 2 ^ 21) → (d.das = true → d.dst < 2 ^ 21) → Usable s 2 h d.sas .r src → Usable s 2 h d.das .w dst →
    (d.sas = d.das → ∀ x ∈ src, ∀ y ∈ dst, Apart x.1 x.2 y.1 y.2) →
    CopyStarts (.xcpy h doff) s h [d.w] (ticksOf ((src.zip dst).map fun (x, y) => (d.len, endCosts s d.sas x.1 x.2 ++ endCosts s d.das y.1 y.2)))) ∧
  (∀ (s u : State) (h : Hdr) (doff : Nat) (f : InFlight) (d : Xd),
    let a := goesOnAs s f
    CopyStarted s f [d.w] →
    Does ((List.range d.rows).map fun r => .row (pure false) (xeRead a d.sas) (xeWrite a d.das) (d.src + r * d.spitch) (d.dst + r * d.dpitch) d.len)
      (goingOn s f) u → Ends s u h → Finished (.xcpy h doff) s u 2 h fun _ => none) ∧
  (∀ (s : State) (h : Hdr) (doff : Nat) (f : InFlight) (d : Xd), CopyRuns s f [d.w] → SignalFits s { h with wneed := 0 } → d.sas = true → d.das = true →
    (∀ r < d.rows, ∀ q < d.rows, Apart (d.src + r * d.spitch) d.len (d.dst + q * d.dpitch) d.len) → RowsApart d.dpitch d.rows d.len →
    ∃ t, exec (.xcpy h doff) s = .next t ∧ CopyDone s t h ∧ SpIs s t fun k =>
      (rowByte d.dst d.dpitch d.rows d.len k).map fun (r, b) => s.here.spByte (d.src + r * d.spitch + b)) ∧
  (∀ (s : State) (h : Hdr) (doff : Nat) (d : Xd),
    let dst := rowRanges d.dst d.dpitch d.rows d.len
    HasDesc s 2 h doff 64 1 d.w → Unrecorded s → d.rows ≠ 0 →
    OnlyFields d.w 512 [(455, 400), (399, 368), (367, 352), (319, 288), (287, 224), (151, 150), (148, 148)] → (d.das = true → d.dst < 2 ^ 21) →
    Usable s 2 h d.das .w dst → d.dst % d.pw = 0 → d.dpitch % d.pw = 0 → d.len % d.pw = 0 →
    CopyStarts (.xfill h doff) s h [d.w] (ticksOf (dst.map fun y => (d.len, endCosts s d.das y.1 y.2)))) ∧
  (∀ (s u : State) (h : Hdr) (doff : Nat) (f : InFlight) (d : Xd),
    let row := (List.range d.len).map fun b => BitVec.ofNat 8 (d.pat / 2 ^ (8 * (b % d.pw)))
    CopyStarted s f [d.w] →
    Does ((List.range d.rows).flatMap fun r => (xePut (goesOnAs s f) d.das (d.dst + r * d.dpitch) row).map .act) (goingOn s f) u →
    Ends s u h → Finished (.xfill h doff) s u 2 h fun _ => none) ∧
  (∀ (s : State) (h : Hdr) (doff : Nat) (f : InFlight) (d : Xd), CopyRuns s f [d.w] → SignalFits s { h with wneed := 0 } → d.das = true →
    RowsApart d.dpitch d.rows d.len → ∃ t, exec (.xfill h doff) s = .next t ∧ CopyDone s t h ∧ SpIs s t fun k =>
      (rowByte d.dst d.dpitch d.rows d.len k).map fun (_, b) => BitVec.ofNat 8 (d.pat / 2 ^ (8 * (b % d.pw)))) ∧
  (∀ (s : State) (h : Hdr) (doff : Nat) (l : List Nat), HeadReady s 2 h → s.here.maps = [] → s.here.spPoison = [] → Unrecorded s →
    descAt s 2 h doff % 32 = 0 → Chain s (descAt s 2 h doff) l → l.length ≤ 1024 →
    (∀ w ∈ l, let e : Sge := ⟨w⟩
      w % 2 ^ 74 = 0 ∧ e.ck ≠ 3 ∧ (e.ck ≠ 0 → Inside (8 * e.cw) 8) ∧ (e.sas = true → e.src < 2 ^ 21) ∧ (e.das = true → e.dst < 2 ^ 21) ∧
        Usable s 2 h e.sas .r [(e.src, e.len)] ∧ Usable s 2 h e.das .w [(e.dst, e.len)] ∧ (e.sas = e.das → Apart e.src e.len e.dst e.len)) →
    CopyStarts (.xsgl h doff) s h l (ticksOf (l.map fun w =>
      let e : Sge := ⟨w⟩
      (e.len, endCosts s e.sas e.src e.len ++ endCosts s e.das e.dst e.len)))) ∧
  (∀ (s u : State) (h : Hdr) (doff : Nat) (f : InFlight) (l : List Nat),
    let a := goesOnAs s f
    CopyStarted s f l →
    Does (l.map fun w =>
      let e : Sge := ⟨w⟩
      .row (skipped a e) (xeRead a e.sas) (xeWrite a e.das) e.src e.dst e.len) (goingOn s f) u →
    Ends s u h → Finished (.xsgl h doff) s u 2 h fun _ => none) ∧
  (∀ (s : State) (e : Sge) (a : Acc), a.place = s.cur → s.here.maps = [] → s.here.spPoison = [] →
    (skipped a e).run s = .ok (e.ck ≠ 0 ∧ (s.here.spNum (8 * e.cw) 8 = 0 ↔ e.ck = 1)) s) ∧
  (∀ (s : State) (h : Hdr) (doff : Nat) (f : InFlight) (e : Sge), CopyRuns s f [e.w] → SignalFits s { h with wneed := 0 } → e.ck = 0 →
    e.sas = true → e.das = true → Apart e.src e.len e.dst e.len → ∃ t, exec (.xsgl h doff) s = .next t ∧ CopyDone s t h ∧ SpIs s t fun k =>
      if e.dst ≤ k ∧ k < e.dst + e.len then some (s.here.spByte (e.src + (k - e.dst))) else none) ∧
  (∀ (s : State) (h : Hdr) (doff : Nat) (d : Xd), HasDesc s 2 h doff 64 1 d.w → Unrecorded s → d.rows = 1 →
    OnlyFields d.w 512 [(511, 456), (455, 400), (399, 368), (367, 352), (149, 149)] → (d.sas = true → d.src < 2 ^ 21) →
    Usable s 2 h d.sas .r [(d.src, d.len)] →
    (d.len = 0 ∨ d.dst + d.len ≤ 0xC00000) → d.dst % 1024 = 0 → d.len % 1024 = 0 → s.here.slotOf s.here.vf ≠ none →
    CopyStarts (.xbst h doff) s h [d.w] (ticksOf [(d.len, endCosts s d.sas d.src d.len)])) ∧
  (∀ (s u v : State) (h : Hdr) (doff : Nat) (f : InFlight) (d : Xd) (slot : Nat) (key : KeySlot) (bs : List Byte), CopyStarted s f [d.w] →
    d.len = 1024 → Acts (xeRead (goesOnAs s f) d.sas d.src 1024) (goingOn s f) u bs → (u.place s.cur).slotOf s.here.vf = some (slot, key) →
    (∀ p, ({ u with progress := p } : State).bstCommit s.cur (d.dst / 1024) slot key.key bs = some { v with progress := p }) →
    Ends s v h → Finished (.xbst h doff) s v 2 h fun _ => none) ∧
  (∀ (s : State) (h : Hdr) (doff : Nat) (f : InFlight) (d : Xd) (slot : Nat) (key : KeySlot), CopyRuns s f [d.w] → SignalFits s { h with wneed := 0 } →
    d.sas = true → d.dst % 1024 = 0 → s.here.slotOf s.here.vf = some (slot, key) → fget? s.here.keys slot = some key →
    (∀ i tag, i < d.len / 1024 → fget? s.here.tags (d.dst / 1024 + i) = some tag → tag.gen < 2 ^ 48 - 1) →
    ∃ t, exec (.xbst h doff) s = .next t ∧ CommandDone s t 2 { h with wneed := 0 } ∧ t.mem = s.mem ∧ (∀ k, t.here.spByte k = s.here.spByte k) ∧
      ∀ i c, i < d.len / 1024 → c < 64 → t.bstWord s.cur s.here.vf (d.dst / 1024 + i) c = (s.here.spBytes (d.src + 1024 * i + 16 * c) 16, none)) ∧
  (∀ (s : State) (h : Hdr) (doff : Nat) (f : InFlight) (d : Xd) (pages : List Nat), CopyRuns s f (d.w :: 0 :: pages) →
    SignalFits s { h with wneed := 0 } →
    d.das = true → pages = List.replicate d.rows 0 → RowsApart d.dpitch d.rows d.len →
    ∃ t, exec (.xbtab h doff) s = .next t ∧ CopyDone s t h ∧ SpIs s t fun k => (rowByte d.dst d.dpitch d.rows d.len k).map fun _ => 0) ∧
  (∀ (s u : State) (h : Hdr) (doff : Nat) (f : InFlight) (d : Xd) (pages : List (Option Nat)),
    let a := goesOnAs s f
    CopyStarted s f (d.w :: 0 :: pages.map fun p => p.elim 0 (· + 1)) → pages.length = d.rows →
    Does ((pages.zip (List.range d.rows)).flatMap fun (p, t) => match p with
      | some va => [.row (pure false) (fun x n => do
          t3Park a x n
          readHome a true x n) (xeWrite a d.das) (va + d.spitch) (d.dst + t * d.dpitch) d.len]
      | none => (xePut a d.das (d.dst + t * d.dpitch) (List.replicate d.len 0)).map .act) (goingOn s f) u →
    Ends s u h → Finished (.xbtab h doff) s u 2 h fun _ => none) ∧
  (∀ (s s2 s3 : State) (h : Hdr) (doff : Nat) (d : Xd) (k : Kvd) (pages : List (Option Nat)), HasDesc s 2 h doff 64 1 d.w → Unrecorded s3 →
    let a := agentOf s 2
    let dst := rowRanges d.dst d.dpitch d.rows d.len
    d.rows ≠ 0 → d.memb = 0x100 → d.spitch + d.len ≤ 65536 → (d.das = true → d.dst < 2 ^ 21) →
    (∀ y ∈ dst, if d.das then Inside y.1 y.2 else (y.2 = 0 ∨ y.1 + y.2 ≤ 2 ^ 56) ∧ Passes (permOk a y.1 y.2 .w) s2) →
    OnlyFields d.w 512 [(455, 400), (399, 368), (367, 352), (351, 320), (319, 288), (223, 192), (191, 176), (175, 168), (167, 159), (148, 148)] →
    (readKvd (agentOf s 2) d.handle).run (begun s 2 h) = .ok (some k) s2 → d.layer < k.layers → d.first + d.rows ≤ k.ppl →
    (readPages a k d.layer d.first d.rows).run s2 = .ok pages s3 →
    (∀ va, some va ∈ pages → Passes (permOk a (va + d.spitch) d.len .r) s3 ∧ Passes (poisonOk a (va + d.spitch) d.len) s3) →
    s3.cur = s.cur → s3.tick = s.tick → s3.here.asid = s.here.asid →
    ∃ t f, exec (.xbtab h doff) s = .next t ∧ (t.engq s.cur 2).cur = some f ∧ f.desc = d.w :: 0 :: (pages.map fun p => p.elim 0 (· + 1)) ∧
      f.promised = (s.tick + ticksOf ((pages.zip dst).map fun (p, y) =>
        (d.len, p.elim [] (fun va => endCosts s3 false (va + d.spitch) d.len) ++ endCosts s3 d.das y.1 y.2))) % 2 ^ 64) ∧
  (∀ (s : State) (h : Hdr) (doff : Nat) (d : Xd), HasDesc s 2 h doff 64 1 d.w → Unrecorded s →
    OnlyFields d.w 512 [(511, 456), (455, 400), (399, 368), (367, 352), (158, 155), (154, 153), (152, 152), (148, 148)] →
    d.das = true → d.rows = 1 → d.wb ≠ 3 → d.dst < 2 ^ 21 → 4096 ≤ d.len → d.dst + d.len ≤ 0x180000 →
    d.src % 4096 = 0 → d.dst % 4096 = 0 → d.len % 4096 = 0 → d.src + d.len ≤ 2 ^ 56 → Passes (permOk (agentOf s 2) d.src d.len .r) (begun s 2 h) →
    (d.wb ≠ 0 → Passes (permOk (agentOf s 2) d.src d.len .w) (begun s 2 h)) →
    (d.lazy = false → Passes (poisonOk (agentOf s 2) d.src d.len) (begun s 2 h)) →
    CopyStarts (.xmap h doff) s h [d.w] (if d.lazy then 300 else ticksOf [(d.len, endCosts s false d.src d.len)])) ∧
  (∀ (s u : State) (h : Hdr) (doff : Nat) (f : InFlight) (d : Xd),
    let a := goesOnAs s f
    CopyStarted s f [d.w] → d.lazy = false →
    Does ((List.range (d.len / 128)).map fun i => .act do wrSp a (d.dst + 128 * i) (← readHome a true (d.src + 128 * i) 128)) (goingOn s f) u →
    Ends s u h →
    ∃ t, exec (.xmap h doff) s = .next t ∧ CommandDone u t 2 { h with wneed := 0 } ∧ SameButSp u t ∧ SpIs u t (fun _ => none) ∧
      fget? t.here.maps d.xent = some ⟨d.src, d.wb, false, d.len, d.dst, f.seq⟩ ∧
      (∀ l, d.dst / 128 ≤ l → l < d.dst / 128 + d.len / 128 → fget false t.here.mapFilled l = true) ∧
      ∀ c, d.dst ≤ 32 * c → 32 * c < d.dst + d.len → fget false t.here.mapDirty c = false) ∧
  (∀ (s : State) (h : Hdr) (doff : Nat) (d : Xd) (e : MapEntry), HeadReady s 2 h → Unrecorded s →
    (readXd (agentOf s 2) h doff (headCapOf s 2)).run (begun s 2 h) = .ok d (begun s 2 h) → OnlyFields d.w 512 [(158, 155)] →
    fget? s.here.maps d.xent = some e →
    CopyStarts (.xmapUnmap h doff) s h [d.w] (if e.wb = 0 then 300 else ticksOf [(e.len, endCosts s false e.vabase e.len)])) ∧
  (∀ (s u : State) (h : Hdr) (doff : Nat) (f : InFlight) (d : Xd) (e : MapEntry),
    let a := goesOnAs s f
    CopyStarted s f [d.w] → fget? s.here.maps d.xent = some e → e.wb ≠ 0 →
    Does ((s.here.dirtyOf e).map fun sec => .act do if ← writeSector a e sec then meet a.place cPoison) (goingOn s f) u →
    Ends s u h →
    ∃ t, exec (.xmapUnmap h doff) s = .next t ∧ CommandDone u t 2 { h with wneed := 0 } ∧ SameButSp u t ∧ SpIs u t (fun _ => none) ∧
      fget? t.here.maps d.xent = none ∧ ∀ c, e.spbase ≤ 32 * c → 32 * c < e.spbase + e.len → fget false t.here.mapDirty c = false) ∧
  (∀ (s : State) (h : Hdr) (doff : Nat) (f : InFlight) (d : Xd), CopyRuns s f [d.w] → SignalFits s { h with wneed := 0 } → d.lazy = true →
    ∃ t, exec (.xmap h doff) s = .next t ∧ CopyDone s t h ∧ (∀ k, t.here.spByte k = s.here.spByte k) ∧
      fget? t.here.maps d.xent = some ⟨d.src, d.wb, true, d.len, d.dst, f.seq⟩ ∧
      (∀ l, d.dst / 128 ≤ l → l < d.dst / 128 + d.len / 128 → fget false t.here.mapFilled l = false) ∧
      ∀ c, d.dst ≤ 32 * c → 32 * c < d.dst + d.len → fget false t.here.mapDirty c = false) ∧
  (∀ (s : State) (h : Hdr) (doff : Nat) (f : InFlight) (d : Xd) (e : MapEntry), CopyStarted s f [d.w] →
    SignalFits s { h with wneed := 0 } → fget? s.here.maps d.xent = some e → e.wb = 0 →
    ∃ t, exec (.xmapUnmap h doff) s = .next t ∧ CopyDone s t h ∧ fget? t.here.maps d.xent = none ∧ ∀ k, t.here.spByte k = s.here.spByte k) ∧
  (∀ (s s1 : State) (tile sector : Nat) (e : MapEntry), (s.place tile).mapAt (32 * sector) = some e → e.wb = 2 →
    fget false (s.place tile).mapDirty sector = true → (s.place tile).step ≠ none →
    (writeHome { s.cmdAcc tile 2 e.seq with seq := e.seq } (e.vabase + (32 * sector - e.spbase)) ((s.place tile).spBytes (32 * sector) 32)).run s = .ok ⟨⟩ s1 →
    ∃ t, exec (.xmapLazyWriteBack tile sector) s = .next t ∧ fget false (t.place tile).mapDirty sector = false ∧ t.mem = s1.mem ∧ t.home = s1.home ∧ t.held = s1.held)
/-- R338 to R341: gathering, scattering, adding, compacting and the live list, on scratchpad rows.
It rests also on the model's choices of log 21, 22 and 25. -/
def Obligations.IndexEngineCommands : Prop :=
  (∀ (s : State) (h : Hdr) (doff : Nat) (d : Gd), HasDesc s 3 h doff 64 2 d.w → SignalFits s h → IndexReady s d →
    ∃ t, exec (.ggath h doff) s = .next t ∧ CommandDone s t 3 h ∧ SameButSp s t ∧
      (∀ i b, i < d.nidx → b < d.rowb → (isVoid d (indexAt s d i) → t.here.spByte (d.coff + i * d.rowb + b) = 0) ∧
        (¬ isVoid d (indexAt s d i) → t.here.spByte (d.coff + i * d.rowb + b) = s.here.spByte (rowOf d (indexAt s d i) + b))) ∧
      ∀ k, k < d.coff ∨ d.coff + d.rowb * d.nidx ≤ k → t.here.spByte k = s.here.spByte k) ∧
  (∀ (s : State) (h : Hdr) (doff : Nat) (d : Gd), HasDesc s 3 h doff 64 2 d.w → SignalFits s h → IndexReady s d →
    ∃ t, exec (.gscat h doff) s = .next t ∧ CommandDone s t 3 h ∧ SameButSp s t ∧
      (∀ i b, i < d.nidx → b < d.rowb → ¬ isVoid d (indexAt s d i) → (∀ j, i < j → j < d.nidx → indexAt s d j ≠ indexAt s d i) →
        t.here.spByte (rowOf d (indexAt s d i) + b) = s.here.spByte (d.coff + i * d.rowb + b)) ∧
      ∀ k, (∀ i < d.nidx, isVoid d (indexAt s d i) ∨ k < rowOf d (indexAt s d i) ∨ rowOf d (indexAt s d i) + d.rowb ≤ k) →
        t.here.spByte k = s.here.spByte k) ∧
  (∀ (s : State) (h : Hdr) (doff : Nat) (d : Gd), HasDesc s 3 h doff 64 2 d.w → SignalFits s h → IndexReady s d →
    let n := elemBytes d.etyp
    d.etyp < 4 → d.rowb % n = 0 → d.base % n = 0 → d.coff % n = 0 →
    ∃ t, exec (.gscadd h doff) s = .next t ∧ CommandDone s t 3 h ∧ SameButSp s t ∧
      (∀ i x, i < d.nidx → x < d.rowb / n → ¬ isVoid d (indexAt s d i) → (∀ j < d.nidx, j ≠ i → indexAt s d j ≠ indexAt s d i) →
        t.here.spNum (rowOf d (indexAt s d i) + n * x) n =
          elemSum d.etyp (s.here.spNum (rowOf d (indexAt s d i) + n * x) n) (s.here.spNum (d.coff + i * d.rowb + n * x) n)) ∧
      ∀ k, (∀ i < d.nidx, isVoid d (indexAt s d i) ∨ k < rowOf d (indexAt s d i) ∨ rowOf d (indexAt s d i) + d.rowb ≤ k) →
        t.here.spByte k = s.here.spByte k) ∧
  (∀ (s : State) (h : Hdr) (doff : Nat) (d : Gd), HasDesc s 3 h doff 64 2 d.w → SignalFits s h →
    let live := (List.range d.nidx).filter fun i => s.here.spByte (d.ioff + i) ≠ 0
    let out := d.rowb * live.length
    s.progress = [] → d.rsv = 0 → d.nidx ≠ 0 → 1 ≤ d.rowb → d.rowb ≤ 4096 → d.iw = 0 → d.lim = 0 → d.bas = true → Inside d.ioff d.nidx → Inside d.cntoff 8 → Inside d.coff out →
    d.cntoff % 8 = 0 → (∀ i ∈ live, Inside (d.base + i * d.rowb) d.rowb ∧ Apart d.coff out (d.base + i * d.rowb) d.rowb) →
    Apart d.coff out d.ioff d.nidx → Apart d.coff out d.cntoff 8 →
    ∃ t, exec (.gcmpct h doff) s = .next t ∧ CommandDone s t 3 h ∧ SameButSp s t ∧ t.here.spNum d.cntoff 8 = live.length ∧
      (∀ n i b, live[n]? = some i → b < d.rowb → t.here.spByte (d.coff + n * d.rowb + b) = s.here.spByte (d.base + i * d.rowb + b)) ∧
      ∀ k, (k < d.coff ∨ d.coff + out ≤ k) → (k < d.cntoff ∨ d.cntoff + 8 ≤ k) → t.here.spByte k = s.here.spByte k) ∧
  (∀ (s : State) (h : Hdr) (doff : Nat) (d : Gd), HasDesc s 3 h doff 64 2 d.w → SignalFits s h →
    let live (i : Nat) : Bool := (fget 0 s.here.bmask (i / 64)).getLsbD (i % 64)
    let n := d.nidx * d.rpm
    d.rsv = 0 → 1 ≤ d.nidx → d.nidx ≤ 256 → 1 ≤ d.rpm → d.rpm ≤ 16 → n ≤ 4096 → d.first + n ≤ 0xFFFF → d.base = 0 → d.ioff = 0 → d.lim = 0 → d.iw = 0 →
    d.bas = false → Inside d.coff (2 * n) → Inside d.cntoff 8 → d.coff % 2 = 0 → d.cntoff % 8 = 0 → Apart d.coff (2 * n) d.cntoff 8 →
    ∃ t, exec (.glive h doff) s = .next t ∧ CommandDone s t 3 h ∧ SameButSp s t ∧ t.here.spNum d.cntoff 8 = ((List.range d.nidx).filter live).length ∧
      (∀ i r, i < d.nidx → r < d.rpm →
        t.here.spNum (d.coff + 2 * (i * d.rpm + r)) 2 = if live i then d.first + (i * d.rpm + r) else 0xFFFF) ∧
      ∀ k, (k < d.coff ∨ d.coff + 2 * n ≤ k) → (k < d.cntoff ∨ d.cntoff + 8 ≤ k) → t.here.spByte k = s.here.spByte k)
/-- R342 to R345: the link engine's commands to a tile of the package are checked, sent and in flight until they are
answered; the checks that fail each of them, with HDRFMT, SPBOUND and ALIGN.
It rests also on the model's choices of log 20 and 21. -/
def Obligations.LinkEngineCommands : Prop :=
  ∀ (s : State) (h : Hdr) (doff : Nat) (d : Ld), HasDesc s 4 h doff 32 3 d.w →
    let bs := s.here.spBytes d.loff d.len
    (LinkReady s d → LinkSends (.lput h doff) s h (linkMessage s d .put bs) ∧ LinkSends (.lget h doff) s h (linkMessage s d .get [])) ∧
    (LinkReady s d → d.red < 5 →
      let n := if d.red = 1 then 2 else 4
      d.len % n = 0 → d.loff % n = 0 → d.peer % 2 ^ 21 % n = 0 → LinkSends (.lred h doff) s h (linkMessage s d (.red d.red) bs)) ∧
    (d.rsv = 0 → d.peer < 2 ^ 40 → d.peer / 2 ^ 30 = s.pkgNum → Inside d.loff d.len → Inside (d.peer % 2 ^ 21) d.len → LinkSends (.lenq h doff) s h (linkMessage s d (.enq d.idx) bs)) ∧
    (d.rsv = 0 → d.peer < 2 ^ 40 → d.peer / 2 ^ 30 = s.pkgNum → d.scp = 1 ∨ d.scp = 2 → d.cnt ≠ 0 → d.loff = 0 → d.len = 0 → d.bar = 0 →
      d.bv = false → d.red = 0 → Drained s → LinkSends (.lsig h doff) s h (linkMessage s d (.sig d.idx d.cnt) [])) ∧
    let fails (i : Instr) (code : Nat) : Prop := ∃ t, exec i s = .next t ∧ CommandFails s t 4 code h ∧ SameData s t
    let inside := d.peer < 2 ^ 40 ∧ Inside d.loff d.len ∧ Inside (d.peer % 2 ^ 21) d.len
    let bounded := inside ∧ (d.bv = true → Inside d.bar 8)
    let n := if d.red = 1 then 2 else 4
    let aligned := d.len % n = 0 ∧ d.loff % n = 0 ∧ d.peer % 2 ^ 21 % n = 0
    let plain := d.cnt ≠ 0 ∧ d.loff = 0 ∧ d.len = 0 ∧ d.bar = 0 ∧ d.bv = false ∧ d.red = 0
    (d.rsv ≠ 0 → fails (.lput h doff) cHdrfmt ∧ fails (.lget h doff) cHdrfmt ∧ fails (.lenq h doff) cHdrfmt) ∧
    (d.rsv ≠ 0 ∨ 5 ≤ d.red → fails (.lred h doff) cHdrfmt) ∧
    (d.rsv ≠ 0 ∨ (d.scp ≠ 1 ∧ d.scp ≠ 2) ∨ ¬ plain → fails (.lsig h doff) cHdrfmt) ∧
    (d.rsv = 0 → ¬ bounded → fails (.lput h doff) cSpbound ∧ fails (.lget h doff) cSpbound ∧ (d.red < 5 → fails (.lred h doff) cSpbound)) ∧
    (d.rsv = 0 → ¬ inside → fails (.lenq h doff) cSpbound) ∧
    (d.rsv = 0 → d.scp = 1 ∨ d.scp = 2 → plain → 2 ^ 40 ≤ d.peer → fails (.lsig h doff) cSpbound) ∧
    (d.rsv = 0 → bounded → d.bv = true → d.bar % 8 ≠ 0 → fails (.lput h doff) cAlign ∧ fails (.lget h doff) cAlign) ∧
    (d.rsv = 0 → d.red < 5 → bounded → ¬ aligned ∨ (d.bv = true ∧ d.bar % 8 ≠ 0) → fails (.lred h doff) cAlign)
/-- R98 to R103, R349 to R356: the stack engine on one position of an object, given the states that its reads of the object's
table, block table, record and page directory leave, and the one that its writes leave: the attention triple, an appended
record, a score, a copied record, and the bytes of a probe.
It rests also on the model's choices of log 21 and 24. -/
def Obligations.StackEngineCommands : Prop :=
  (∀ (s s1 s2 s3 s4 : State) (h : Hdr) (doff va r : Nat) (d : Sd) (k : Kvd) (off : Bool),
    let a := agentOf s 5
    let l := k.locate 0 0
    let t := if off then emptyTriple k.dim else mergeTriple (emptyTriple k.dim) (recordTriple k (queryOf s d k.dim) r d.kvhead)
    HasDesc s 5 h doff 64 4 d.w → d.memb = 0x100 → d.nq = 1 → d.maxu ≠ 0 → d.qoff % 4 = 0 → d.ooff % 4 = 0 → d.cntoff % 8 = 0 → d.lim ≤ 1 →
    OnlyFields d.w 512 [(511, 480), (367, 347), (346, 326), (325, 305), (304, 289), (288, 281), (280, 274), (273, 269), (268, 260), (259, 259)] →
    Inside d.cntoff 8 → Inside d.qoff (4 * k.dim) → Inside d.ooff (32 + 4 * k.dim) → Apart d.cntoff 8 d.ooff (32 + 4 * k.dim) →
    (readKvd a d.handle).run (begun s 5 h) = .ok (some k) s1 → d.layer < k.layers → d.kvhead < k.heads → k.npos = 1 →
    (readBtes a k d.layer [l.page]).run s1 = .ok [(l.page, some va)] s2 → (splitOff a va).run s2 = .ok off s2 →
    (off = false → (recordsPerm a k d.layer [0] [(l.page, some va)] .r).run s2 = .ok ⟨⟩ s3 ∧
      Passes (recordsOk a k d.layer [0] [(l.page, some va)]) s3 ∧ (readRecord a k d.layer 0 (some va)).run s3 = .ok (some r) s4) →
    (off = true → s3 = s2 ∧ s4 = s3) → Calm s s3 5 h → Calm s s4 5 h →
    Finished (.sattn h doff) s s4 5 h fun x =>
      (bytesAt d.cntoff (bytesOf 4 1 ++ bytesOf 4 (if off then 1 else 0)) x).or (bytesAt d.ooff
        (bytesOf 4 t.m ++ bytesOf 4 t.l ++ bytesOf 8 0 ++ bytesOf 4 1 ++ bytesOf 4 (if off then 1 else 0) ++ bytesOf 8 0 ++ t.o.flatMap (bytesOf 4)) x)) ∧
  (∀ (s s1 s2 s3 s4 : State) (h : Hdr) (doff va : Nat) (d : Sd) (k : Kvd),
    let a := agentOf s 5
    let p := k.npos
    let l := k.locate p d.layer
    let hd := k.heads * k.dim
    let word (i : Nat) : Nat := s.here.spNum (d.qoff + 4 * i) 4
    let bs := (List.range (2 * hd)).flatMap fun i => k.stored (word i) (if i < hd then k.kscale else k.vscale)
    let body := RootOp.put (va + k.recOff l) bs
    let plan := (match l.gen with
      | none => [body]
      | some g => [.put l.gw (bytesOf 4 0xFFFFFFFF), body, .put l.gw (bytesOf 4 g)]) ++ if d.layer + 1 = k.layers then [.npos k.va (p + 1)] else []
    HasDesc s 5 h doff 64 4 d.w → d.memb = 0x100 → d.n = 1 → d.qoff % 4 = 0 →
    OnlyFields d.w 512 [(511, 480), (399, 368), (367, 347), (288, 281), (268, 260)] → Inside d.qoff (8 * hd) →
    (readKvd a d.handle).run (begun s 5 h) = .ok (some k) s1 → d.layer < k.layers → p + 1 ≤ k.sink + k.ring * (2 ^ 32 - 1) →
    (readBtes a k d.layer [l.page]).run s1 = .ok [(l.page, some va)] s2 → (recordsPerm a k d.layer [p] [(l.page, some va)] .w).run s2 = .ok ⟨⟩ s3 →
    RootWrites s s3 s4 plan → Calm s s3 5 h → Calm s s4 5 h → Finished (.skvapp h doff) s s4 5 h fun _ => none) ∧
  (∀ (s s1 s2 s3 s4 : State) (h : Hdr) (doff va r : Nat) (d : Sd) (k : Kvd),
    let a := agentOf s 5
    let l := k.locate d.p0 d.layer
    HasDesc s 5 h doff 64 4 d.w → d.memb = 0x100 → d.nq = 1 → d.n = 1 → d.qoff % 4 = 0 → d.ooff % 4 = 0 →
    OnlyFields d.w 512 [(511, 480), (447, 400), (399, 368), (367, 347), (346, 326), (288, 281), (280, 274), (273, 269), (268, 260)] →
    Inside d.ooff 4 → Inside d.qoff (4 * k.dim) → (readKvd a d.handle).run (begun s 5 h) = .ok (some k) s1 → d.layer < k.layers → d.kvhead < k.heads →
    (k.readRange k.npos).contains d.p0 = true →
    (readBtes a k d.layer [l.page]).run s1 = .ok [(l.page, some va)] s2 →
    (recordsPerm a k d.layer [d.p0] [(l.page, some va)] .r).run s2 = .ok ⟨⟩ s3 → Passes (recordsOk a k d.layer [d.p0] [(l.page, some va)]) s3 →
    (readRecord a k d.layer d.p0 (some va)).run s3 = .ok (some r) s4 → Calm s s3 5 h → Calm s s4 5 h →
    Finished (.sscore h doff) s s4 5 h (bytesAt d.ooff (bytesOf 4 (score k (queryOf s d k.dim) r d.kvhead)))) ∧
  (∀ (s s1 s2 s3 s4 s5 s6 s7 s8 : State) (h : Hdr) (doff va wa r : Nat) (d : Sd) (k l : Kvd),
    let a := agentOf s 5
    let src := k.locate d.p0 0
    let dst := l.locate d.p0 0
    let body := RootOp.put (wa + l.recOff dst) (bytesOf k.rb r)
    let plan := (match dst.gen with
      | none => [body]
      | some g => [.put dst.gw (bytesOf 4 0xFFFFFFFF), body, .put dst.gw (bytesOf 4 g)]) ++ [.raise l.va (d.p0 + 1)]
    HasDesc s 5 h doff 64 4 d.w → d.memb = 0x100 → d.n = 1 → OnlyFields d.w 512 [(511, 480), (479, 448), (447, 400), (399, 368), (268, 260)] →
    (readKvd a d.handle).run (begun s 5 h) = .ok (some k) s1 → (readKvd a d.handle2).run s1 = .ok (some l) s2 → k.agrees l = true → d.p0 + 1 ≤ k.npos →
    k.layers = 1 → (readBtes a k 0 [src.page]).run s2 = .ok [(src.page, some va)] s3 → (readBtes a l 0 [src.page]).run s3 = .ok [(src.page, some wa)] s4 →
    (recordsPerm a k 0 [d.p0] [(src.page, some va)] .r).run s4 = .ok ⟨⟩ s5 → (recordsPerm a l 0 [d.p0] [(src.page, some wa)] .w).run s5 = .ok ⟨⟩ s6 →
    Passes (recordsOk a k 0 [d.p0] [(src.page, some va)]) s6 →
    (readRecord a k 0 d.p0 (some va)).run s6 = .ok (some r) s7 → RootWrites s s7 s8 plan → Calm s s6 5 h → Calm s s7 5 h → Calm s s8 5 h →
    Finished (.scpy h doff) s s8 5 h fun _ => none) ∧
  (∀ (s s1 s2 s3 : State) (h : Hdr) (doff : Nat) (d : Sd) (k : Kvd) (bytes : List Nat),
    let a := agentOf s 5
    HasDesc s 5 h doff 64 4 d.w → 1 ≤ d.n → d.n ≤ 65536 → d.ooff % 4 = 0 → Inside d.ooff d.n →
    OnlyFields d.w 512 [(511, 480), (447, 400), (399, 368), (346, 326), (288, 281)] →
    (readKvd a d.handle).run (begun s 5 h) = .ok (some k) s1 → d.layer < k.layers → d.p0 + d.n ≤ k.ppl →
    (permOk a (k.bte d.layer d.p0) (8 * d.n) .r).run s1 = .ok ⟨⟩ s2 →
    ProbeReads a k d.layer ((List.range d.n).map (d.p0 + ·)) bytes s2 s3 → Calm s s3 5 h →
    Finished (.sprobe h doff) s s3 5 h (bytesAt d.ooff (bytes.map (BitVec.ofNat 8))))

/-- R17 to R23, R47, R409: an MTU completes the request at the head of its ring. It refuses one with its status and no other
change; MAP writes the leaf, the region's entry, the reverse map and the page directory; UNMAP and DESTROY take them away and
hand the frame to zeroing, and DESTROY discards the page's held writes; PROTECT changes the region's permissions.
It rests also on the model's choices of log 1 and 55. -/
def Obligations.MapRequestsComplete : Prop :=
  (∀ (s : State) (mtu pa code : Nat) (r : MapReq), HeadRequest s (mapGroup mtu) 32 pa r.w → mapRefused s r = some code →
    (r.gives = true → s.frameBusy r = false) → (∀ e ∈ s.pgd, e.2.tier ≠ 3) →
    ∃ t, exec (mapInstr r.op mtu) s = .next t ∧ RequestDone s t (mapGroup mtu) pa code ∧ MemBut s t pa 0 0 ∧ t.regions = s.regions ∧ t.pgd = s.pgd) ∧
  (∀ (s : State) (mtu pa : Nat) (r : MapReq), HeadRequest s (mapGroup mtu) 32 pa r.w → r.op = 0 → mapRefused s r = none → s.frameBusy r = false →
    (∀ e ∈ s.pgd, e.2.tier ≠ 3) →
    let done (code : Nat) : Prop := ∃ t, exec (.map mtu) s = .next t ∧ RequestDone s t (mapGroup mtu) pa code ∧ MemBut s t pa 0 0 ∧
      t.regions = s.regions ∧ t.pgd = s.pgd
    let fits : Prop := ∀ v ∈ r.regions, (pageTag r = none → fget? s.regions (regionCode (some r.asid) v) = none) ∧
      (pageTag r ≠ none → s.mapsGlobal r.asid v = false) ∧ ∀ x, fget? s.regions (regionCode (pageTag r) v) = some x → x.perm.list = ptePerms r.pte ∧ (r.absent = false → x.perm.dev = inDev r.frame)
    let vf := bits (s.asd r.asid) 70 64
    (mixes s r → done 3) ∧
    (fits → r.absent = false → s.misplaced r vf (pageTag r) = true → done 8) ∧
    (fits → r.absent = false → s.misplaced r vf (pageTag r) = false → s.synonym r = true → done 2)) ∧
  (∀ (s : State) (mtu pa ea e : Nat) (r : MapReq),
    let tag := pageTag r
    let vf := bits (s.asd r.asid) 70 64
    let old := fget? s.regions (regionCode tag r.va)
    PageRequest s mtu pa r ea e → NoT3 s r → r.op = 0 → s.frameBusy r = false → e.testBit 0 = false → pa / 8192 ≠ r.frame / 8192 →
    (r.absent = false → s.misplaced r vf tag = false ∧ s.synonym r = false) →
    (∀ x, old = some x → x.perm.list = ptePerms r.pte ∧ (r.absent = false → x.perm.dev = inDev r.frame)) →
    (tag = none → fget? s.regions (regionCode (some r.asid) r.va) = none) → (tag ≠ none → s.mapsGlobal r.asid r.va = false) →
    ∃ t x, exec (.map mtu) s = .next t ∧ RequestDone s t (mapGroup mtu) pa 1 ∧ t.memNum ea 8 = r.pte ∧ MemBut s t pa ea 8 ∧
      fget? t.regions (regionCode tag r.va) = some x ∧ x.perm.list = ptePerms r.pte ∧
      (match old with
        | some y => x = { y with count := y.count + 1 }
        | none => x.count = 1 ∧ (x.home, x.path, x.placed) = firstPlace r ∧ x.perm.vf = vf ∧ x.perm.g = tag.isNone) ∧
      (r.absent = false → inDev r.frame = false →
        fget? (t.mtu (mtuOf r.frame)).rmap (r.frame / 8192) = some (r.va / 8192, r.pte.testBit 56, r.asid)) ∧
      (s.gran tag r.va = none → r.absent = true ∨ inDev r.frame = false →
        ∃ p, t.gran tag r.va = some p ∧ p.st = ptePst r.pte ∧ p.frame = r.frame / 8192 ∧ p.tier = tierOf r.frame ∧ p.lv = false)) ∧
  (∀ (s : State) (mtu pa ea e : Nat) (r : MapReq) (destroy : Bool),
    let tag := some r.asid
    PageRequest s mtu pa r ea e → r.op = (if destroy then 2 else 1) → e % 4 = 3 → e.testBit 56 = false → s.inWindow tag r = false →
    ∃ t, exec (mapInstr r.op mtu) s = .next t ∧ RequestDone s t (mapGroup mtu) pa 1 ∧ t.memNum ea 8 = 0 ∧ MemBut s t pa ea 8 ∧ t.gran tag r.va = none ∧
      (∀ x, fget? s.regions (regionCode tag r.va) = some x →
        fget? t.regions (regionCode tag r.va) = if x.count ≤ 1 then none else some { x with count := x.count - 1 }) ∧
      (ptePst e ≠ 2 → inDev (pteFrame e) = false →
        fget? (t.mtu (mtuOf (pteFrame e))).rmap (pteFrame e / 8192) = none ∧ pteFrame e ∈ t.zeroing) ∧
      ∀ h, h ∈ t.held ↔ h ∈ s.held ∧ ¬ (destroy = true ∧ h.key.asid = tag ∧ r.va / 128 ≤ h.key.line ∧ h.key.line < r.va / 128 + 64)) ∧
  (∀ (s : State) (mtu pa ea e : Nat) (r : MapReq) (x : Region),
    let tag := some r.asid
    PageRequest s mtu pa r ea e → NoT3 s r → r.op = 3 → s.frameBusy r = false → e % 4 = 3 → e.testBit 56 = false → r.pte.testBit 56 = false → r.absent = false →
    r.frame = pteFrame e → ptePst e ≠ 2 → fget? s.regions (regionCode tag r.va) = some x → x.perm.dev = inDev r.frame → pa / 8192 ≠ r.frame / 8192 →
    ∃ t y, exec (.protect mtu) s = .next t ∧ RequestDone s t (mapGroup mtu) pa 1 ∧ t.memNum ea 8 = r.pte ∧
      fget? t.regions (regionCode tag r.va) = some y ∧ y.perm.list = ptePerms r.pte ∧ y.perm.vf = x.perm.vf ∧ y.count = x.count ∧
      ∀ p, s.gran tag r.va = some p → ∃ q, t.gran tag r.va = some q ∧ q.st = ptePst r.pte ∧ q.frame = r.frame / 8192)
/-- R25, R29, R40, R43, R45, R47: the fills of a PMC, a TLB and a home partition; a write-back performed or held; held writes
performed when the page is resident; and the record of a deferred fault in its function's ring.
It rests also on the model's choices of log 1, 16, 39 and 72. -/
def Obligations.FillsWriteBacksAndHeldWrites : Prop :=
  (∀ (s : State) (tile va : Nat) (r : Region), va < 2 ^ 56 →
    let asid := (s.place tile).asid
    fget? (s.place tile).pmc (regionCode (some asid) va) = none → fget? (s.place tile).pmc (regionCode none va) = none →
    s.region (some asid) va = some r →
    ∃ t, exec (.pmcFill tile va) s = .next t ∧ fget? (t.place tile).pmc (regionCode r.asid va) = some r.perm ∧ t.mem = s.mem) ∧
  (∀ (s : State) (mtu asid va : Nat), va < 2 ^ 56 → (s.mtu mtu).cached asid va = none →
    (∀ n < 5, fget? (s.mtu mtu).upper (upperKey asid n va) = none) →
    ∃ t, exec (.walk mtu asid va) s = .next t ∧ t.mem = s.mem ∧ match s.walkPage asid va with
      | .leaf e l => if ptePst e = 0 then fget? (t.mtu mtu).tlb (tlbKey (if e.testBit 56 then none else some asid) l va) = some (BitVec.ofNat 64 e)
          else (t.mtu mtu).tlb = (s.mtu mtu).tlb
      | _ => (t.mtu mtu).tlb = (s.mtu mtu).tlb) ∧
  (∀ (s s1 : State) (k : LineKey) (pa e : Nat), s.heldOf k = none → s.homeLine k = none → s.regionOf k ≠ none →
    s.verdict (s.asidFor k) k = (s1, .ok pa e) → s.homeDie k ∉ s.gated → s1.hostAsk k pa false false = none →
    ∀ w, s1.openWay k = some w →
    ∃ t, exec (.mtuFill k) s = .next t ∧ t.homeLine k = some ⟨k, w, some pa, s1.memLine pa, 15, 0, [], 0, false, false, false⟩ ∧ t.mem = s1.mem) ∧
  (∀ (s s1 : State) (k : LineKey) (h : HomeLine) (v : Verdict),
    let p := firstProv h.prov h.dirty
    s.homeLine k = some h → h.key = k → h.dirty ≠ 0 → s.heldOf k = none → h.poisoned = 0 → h.noSa = false → s.verdict (k.asid.getD p.asid) k = (s1, v) →
    (∀ pa e, v = .ok pa e → e.testBit 53 = true → ∃ t, exec (.mtuWriteBack k) s = .next t ∧
      t.memLine pa = blend (secMask h.dirty) (s1.memLine pa) h.data ∧ t.homeLine k = some { h with pa := some pa, dirty := 0, prov := [], noSa := false, waits := false }) ∧
    (∀ code st, HeldFor v (s1.pageNow p.asid k).1 code st → s1.holdRoom (s1.homeDie k) p.vf ≠ none → s.lineBusy k = false → (s.dir k).own = none →
      ∃ t x, exec (.mtuWriteBack k) s = .next t ∧ t.mem = s.mem ∧ t.homeLine k = none ∧ x ∈ t.held ∧
        HeldAs s x k (secMask h.dirty) h.data p code st (fget? h.prov))) ∧
  (∀ (s : State) (k : LineKey) (e l : Nat), s.walkPage (s.asidFor k) k.va = .leaf e l → ptePst e = 0 → e.testBit 53 = true →
    (∀ p, s.gran k.asid k.va = some p → p.st = 0) → s.populated (paOf e l k.va) = true →
    s.targetFails (paOf e l k.va) = false →
    ∃ t, exec (.performHeldWrites k) s = .next t ∧ (∀ x ∈ t.held, ¬ (x.key.asid = k.asid ∧ x.key.line / 64 = k.line / 64)) ∧
      ∀ h, (s.held.filter fun x => x.key.asid == k.asid && x.key.line / 64 == k.line / 64) = [h] → h.poisoned = false → traceOff s h.die →
        (∀ d ∈ s.dfrs, d.vf ≠ h.vf) →
        (∀ slot, s.recordAt (fnReg h.vf 0x1000) (fnReg h.vf 0x1008) (fnReg h.vf 0x1010) (fnReg h.vf 0x1018) 6 64 = some slot →
          s.reverse slot = none ∧ Apart slot 64 (paOf e l h.key.va) 128) →
        t.memLine (paOf e l h.key.va) = blend h.mask (s.memLine (paOf e l h.key.va)) h.data) ∧
  (∀ (s : State) (vf slot : Nat) (d : Dfr), s.dfrs.find? (fun x => x.vf == vf) = some d →
    RingTakes s (fnReg vf 0x1000) (fnReg vf 0x1008) (fnReg vf 0x1010) (fnReg vf 0x1018) 6 64 slot → traceOff s d.die →
    ∃ t, exec (.deferredFaultRecord vf) s = .next t ∧ RecordIn s t (fnReg vf 0x1008) (fnReg vf 0x1010) 64 slot d.word ∧ t.dfrs = s.dfrs.erase d)
/-- R54, R58, R61 to R63, R68: the home directory serves reads and ownership requests, skims and their acknowledgements take
copies away, grants arrive, the mark clears, copies are dropped and written back, and the replication sweep changes degrees.
It rests also on the model's choices of log 1, 16, 17 and 18. -/
def Obligations.DirectoryServesAndSkims : Prop :=
  (∀ (s : State) (tile : Nat) (k : LineKey) (h : HomeLine) (p : Perm), Serves s tile k h → HasL1 s tile k → (s.place tile).step ≠ none → (s.l1 tile k).st = .i →
    (s.l1 tile k).pend = [] → s.keyOf (s.place tile).asid k.va = k → fget? (s.place tile).pmc (regionCode (some (s.place tile).asid) k.va) = some p →
    p.r = true → p.vf = (s.place tile).vf →
    ∃ t, exec (.homeRead tile k) s = .next t ∧ (t.l1 tile k).st = .s ∧ (t.l1 tile k).data = latest s k h ∧ t.mem = s.mem ∧
      (if dieOf tile = s.homeDie k then tile ∈ (t.dir k).l else dieOf tile ∈ (t.dir k).p) ∧ (t.dir k).own = none) ∧
  (∀ (s : State) (tile : Nat) (k : LineKey) (h : HomeLine) (b : Pend),
    let dies := (s.dir k).p.filter fun d => d ≠ dieOf tile ∧ d ≠ s.homeDie k
    Serves s tile k h → (s.l1 tile k).st ≠ .m → (s.l1 tile k).pend.head? = some b → (s.dir k).own = none → (s.dir k).k = [] → s.marked k = false →
    ∃ t, exec (.homeOwnership tile k) s = .next t ∧ Msg.grant tile k h.data 0 0 [] (!dies.isEmpty) ∈ t.msgs ∧
      (∀ d ∈ dies, Msg.skim d k false ∈ t.msgs) ∧ (t.dir k).own = some tile ∧ (t.dir k).l = [] ∧ (t.dir k).p = [] ∧ (t.dir k).q = [] ∧
      (t.dir k).k = dies ∧ t.mem = s.mem) ∧
  (∀ (s : State) (tile o : Nat) (k : LineKey) (h : HomeLine) (b : Pend), Serves s tile k h → (s.l1 tile k).st ≠ .m →
    (s.l1 tile k).pend.head? = some b → (s.dir k).own = some o → o ≠ tile → (s.dir k).k = [] → s.marked k = false →
    ∃ t, exec (.homeOwnership tile k) s = .next t ∧ (t.l1 o k).st = .i ∧ (t.dir k).own = some tile ∧ t.mem = s.mem ∧
      Msg.grant tile k (latest s k h) (s.l1 o k).dirty (s.l1 o k).bad (if (s.l1 o k).dirty = 0 then [] else (s.l1 o k).prov) false ∈ t.msgs) ∧
  (∀ (s s1 : State) (tile : Nat) (k : LineKey) (b : Pend) (v : Verdict) (code st : Nat), KeyedAt s k → s.lineBusy k = false → (s.dir k).k = [] →
    s.marked k = false → (s.l1 tile k).st = .i → (s.l1 tile k).pend = [b] → s.heldOf k = none → s.homeLine k = none → (s.dir k).own = none →
    s.verdict b.prov.asid k = (s1, v) → secsOf b.mask ≠ 0 → HeldFor v (s1.pageNow b.prov.asid k).1 code st →
    s1.holdRoom (s1.homeDie k) b.prov.vf ≠ none →
    s.closed k = false → (∀ e ∈ (s.place tile).l1, e.1 = lineCode e.2.key) →
    ∃ t x, exec (.homeOwnership tile k) s = .next t ∧ x ∈ t.held ∧ HeldAs s x k b.mask (blend b.mask 0 b.data) b.prov code st (fun _ => some b.prov) ∧
      (t.l1 tile k).pend = [] ∧ t.mem = s.mem) ∧
  (∀ (s : State) (die : Nat) (k : LineKey) (only : Bool), KeyedAt s k → Msg.skim die k only ∈ s.msgs → Msg.skim die k (!only) ∉ s.msgs →
    ∃ t, exec (.skim die k) s = .next t ∧ t.replica die k = none ∧ t.msgs = s.msgs.erase (.skim die k only) ++ [.ack die k only] ∧
      ∀ tile, tile < 512 → dieOf tile = die → (t.l1 tile k).pend = (s.l1 tile k).pend ∧ (only = false → (t.l1 tile k).st = .i)) ∧
  (∀ (s : State) (die : Nat) (k : LineKey), KeyedAt s k → Msg.ack die k false ∈ s.msgs → Msg.ack die k true ∉ s.msgs →
    ∃ t, exec (.skimAcknowledgement die k) s = .next t ∧ (t.dir k).k = (s.dir k).k.filter (· ≠ die) ∧
      (die ∈ (s.dir k).k → (t.dir k).k = [] → Msg.done k ∈ t.msgs)) ∧
  (∀ (s : State) (die : Nat) (k : LineKey), KeyedAt s k → Msg.ack die k true ∈ s.msgs → Msg.ack die k false ∉ s.msgs →
    ∃ t, exec (.skimAcknowledgement die k) s = .next t ∧ (t.dir k).k = (s.dir k).k ∧
      (t.dir k).q = if s.replica die k = none then (s.dir k).q.filter (· ≠ die) else (s.dir k).q) ∧
  (∀ (s : State) (k : LineKey) (tile : Nat), KeyedAt s k → Msg.done k ∈ s.msgs → s.markOf k = some tile → s.wLines tile = [] →
    ∃ t, exec (.skimsDone k) s = .next t ∧ (t.l1 tile k).mark = false ∧ (t.l1 tile k).hide = false ∧ (t.l1 tile k).data = (s.l1 tile k).data ∧
      ∀ n d dirty bad prov, Msg.grant n k d dirty bad prov true ∉ t.msgs) ∧
  (∀ (s : State) (die : Nat) (k : LineKey), KeyedAt s k → die ∈ (s.dir k).p → s.lineBusy k = false →
    (∀ tile, tile < 512 → dieOf tile = die → (s.l1 tile k).mark = false ∧ (s.l1 tile k).pend = []) →
    ∃ t, exec (.dropNotice die k) s = .next t ∧ (t.dir k).p = (s.dir k).p.filter (· ≠ die) ∧ (t.dir k).q = (s.dir k).q.filter (· ≠ die) ∧
      t.replica die k = none ∧ ∀ tile, tile < 512 → dieOf tile = die → (t.l1 tile k).st = .i) ∧
  (∀ (s : State) (k : LineKey) (h : HomeLine) (o : Nat), KeyedAt s k → s.homeLine k = some h → (s.dir k).own = some o → (s.dir k).k = [] →
    (s.l1 o k).mark = false → (s.l1 o k).pend = [] → s.homeDie k ∉ s.gated →
    ∃ t g, exec (.ownerWriteBack k) s = .next t ∧ (t.dir k).own = none ∧ (t.l1 o k).st = .i ∧ t.homeLine k = some g ∧ g.data = latest s k h ∧
      g.dirty = h.dirty ||| (s.l1 o k).dirty) ∧
  (∀ (s : State) (tile dirty bad : Nat) (k : LineKey) (d : Line) (prov : FMap Prov) (mark : Bool), KeyedAt s k →
    Msg.grant tile k d dirty bad prov mark ∈ s.msgs →
    (∀ d' n' b' p' m', Msg.grant tile k d' n' b' p' m' ∈ s.msgs → d' = d ∧ n' = dirty ∧ b' = bad ∧ p' = prov ∧ m' = mark) →
    (s.wLines tile = [] → ∃ t, exec (.ownershipGrant tile k) s = .next t ∧ t.msgs = s.msgs.erase (.grant tile k d dirty bad prov mark) ∧
      (t.l1 tile k).st = .m ∧ (t.l1 tile k).data = d ∧ (t.l1 tile k).dirty = dirty ∧ (t.l1 tile k).prov = prov ∧ (t.l1 tile k).mark = mark) ∧
    (∀ b l, (s.place tile).l1 = [(lineCode k, l)] → l.pend = [b] → mark = false →
      ∃ t, exec (.ownershipGrant tile k) s = .next t ∧ (t.l1 tile k).st = .m ∧ (t.l1 tile k).data = blend b.mask d b.data ∧ (t.l1 tile k).pend = [] ∧
        (t.l1 tile k).dirty = dirty ||| secsOf b.mask)) ∧
  (∀ (s : State) (die code : Nat) (r : Region), risingFrom 0 s.regions = true → (code, r) ∈ s.regions → r.home = die → die < 4 →
    s.tick % 2 ^ 20 ≤ 2 ^ 18 → fget 0 s.swept die ≠ s.tick / 2 ^ 20 + 1 →
    ∃ t x, exec (.rctSweep die) s = .next t ∧ fget 0 t.swept die = s.tick / 2 ^ 20 + 1 ∧ (∀ e ∈ t.scrimCounts, e.1 % 4 ≠ die) ∧ fget? t.regions code = some x ∧ x.degree = sweepDegree (s.regN (dieReg die 0x1000)) r ∧ x.share = 0 ∧
      x.skimp = 0 ∧ x.dchg = (if x.degree = r.degree then r.dchg else (r.dchg + 1) % 256) ∧ x.perm = r.perm ∧ t.mem = s.mem) ∧
  (∀ (s : State) (die : Nat), 2 ^ 18 < s.tick % 2 ^ 20 ∨ fget 0 s.swept die = s.tick / 2 ^ 20 + 1 → exec (.rctSweep die) s = .next s) ∧
  (∀ (s : State) (die : Nat),
    let new := s.regN (dieReg die 0x1000) / 256 % 16
    (∀ e ∈ s.home, s.homeDie e.2.key = die → new ≤ e.2.way) → risingFrom 0 s.replicas = true →
    ∃ t, exec (.scrimwaysChange die) s = .next t ∧ t.ways die = new ∧ t.mem = s.mem ∧ t.home = s.home ∧
      ∀ c, fget? t.replicas c = match fget? s.replicas c with
        | some (w, d) => if c % 4 = die ∧ new ≤ w then none else some (w, d)
        | none => none)
/-- R72, R75, R110, R130, R395: what the host's snoops, reads and write-backs and its answers leave, and the writes of the
I/O dies.
It rests also on the model's choices of log 1, 57 and 104. -/
def Obligations.HostAndInboundAccesses : Prop :=
  (∀ (s : State) (pa : Nat) (k : LineKey), CachedLine s pa k → inT3 pa = true →
    (∃ t, exec (.snpData pa) s = .next t ∧ t.mem = s.mem ∧ t.dirs = s.dirs ∧
      t.hostSt pa = match s.hostSt pa with | .e => .s | .m => .o | x => x) ∧
    ∃ t, exec (.snpInv pa) s = .next t ∧ Surrendered s t pa k ∧ t.hostSt pa = .i) ∧
  (∀ (s : State) (pa : Nat), exec (.snpCur pa) s = .next s) ∧
  (∀ (s : State) (pa : Nat) (k : LineKey), CachedLine s pa k → inHbm pa = true ∨ inT2 pa = true →
    (∃ t, exec (.memRdSnpData pa) s = .next t ∧ t.mem = s.mem ∧ t.dirs = s.dirs ∧
      t.hostSt pa = if s.hostSt pa = .i then (if (s.dir k).l = [] ∧ (s.dir k).p = [] then .e else .s) else s.hostSt pa) ∧
    (s.replaysIn k.asid = false → ∃ t, exec (.memRdSnpInv pa) s = .next t ∧ Surrendered s t pa k ∧ t.hostSt pa = .m)) ∧
  (∀ (s : State) (pa : Nat) (d : Line), s.populated pa = true → inT3 pa = false → s.hostSt pa = .m ∨ s.hostSt pa = .o → s.recSlots = [] →
    (s.reverse (pa / 128 * 128) = none →
      ∃ t, exec (.memWr pa d) s = .next t ∧ t.memLine (pa / 128 * 128) = d ∧ t.hostSt pa = .i) ∧
    ∀ k h, s.reverse (pa / 128 * 128) = some k → s.homeLine k = some h → h.key = k → s.homeDie k ∉ s.gated →
      ∃ t g, exec (.memWr pa d) s = .next t ∧ t.homeLine k = some g ∧ g.data = d ∧ g.dirty = 15 ∧ t.mem = s.mem ∧ t.hostSt pa = .i) ∧
  (∀ (s : State) (k : LineKey) (n pa : Nat) (a : HostAns) (h : HState), s.msgs = [.toHost k n] → s.askedPa k = some pa →
    answered n (s.hostSt pa) a = some h → s.recSlots = [] → (s.homeLine k).isSome → s.homeDie k ∉ s.gated →
    ∃ t, exec (.hostAnswer k a) s = .next t ∧ t.msgs = [] ∧ t.hostSt pa = h ∧ t.mem = s.mem) ∧
  (∀ (s : State) (pa : Nat) (bs : List Byte), PlainBytes s pa bs.length →
    KeepsSpaces s pa bs → ∃ t, exec (.inboundWrite pa bs) s = .next t ∧ ∀ a, t.memByte a = if pa ≤ a ∧ a < pa + bs.length then bs.getD (a - pa) 0 else s.memByte a) ∧
  (∀ (s : State) (pa pb : Nat) (bs cs : List Byte), PlainBytes s pa bs.length → PlainBytes s pb cs.length → Apart pa bs.length pb cs.length →
    KeepsSpaces s pa bs → KeepsSpaces s pb cs → ∃ t, exec (.dmaDescriptor [(pa, bs)] (some (pb, cs))) s = .next t ∧ ∀ a, t.memByte a =
      if pa ≤ a ∧ a < pa + bs.length then bs.getD (a - pa) 0 else if pb ≤ a ∧ a < pb + cs.length then cs.getD (a - pb) 0 else s.memByte a)

/-- R86 to R94, R104 to R107, R409: the residency engine evaluates a context, opens and closes the window of a move, notes missed
deadlines, poisons and refetches granules, and hands zeroed frames to the pool of their die.
It rests also on the model's choices of log 1, 29, 58 and 59. -/
def Obligations.ResidencyEngineMoves : Prop :=
  (∀ (s : State) (die f : Nat) (m : RseMove) (p : Pgd), (s.rse die).window = none → (s.regN (dieReg die 0x1008)).testBit 0 = true →
    (s.rse die).queue = [m] → m.promote = true → s.rseHa die (s.granVf m.gran) = false → s.granOf m.gran = some p → p.st = 0 → p.large = false →
    p.tier = 2 → s.freeFrame die m.gran 1 = some f → s.granBusy m.gran = false → Uncached s m.gran →
    WindowOpens (.move die) s die ⟨m.gran, f, 1, some m.owner, false, false⟩ p) ∧
  (∀ (s : State) (die f : Nat) (m : RseMove) (p : Pgd), (s.rse die).window = none → (s.regN (dieReg die 0x1008)).testBit 0 = true →
    (s.rse die).queue = [m] → m.promote = false → s.rseHa die (s.granVf m.gran) = false → s.granOf m.gran = some p → p.st = 0 → p.large = false →
    p.tier = 1 → p.pin = false → (if p.lv then f = p.lframe * 8192 else s.freeFrame die m.gran 2 = some f) → s.granBusy m.gran = false →
    Uncached s m.gran → WindowOpens (.move die) s die ⟨m.gran, f, 2, none, false, false⟩ p) ∧
  (∀ (s : State) (die : Nat) (w : Window) (p : Pgd), (s.rse die).window = some w → w.cmd = false → w.refetch = false → s.granOf w.gran = some p →
    (w.tier = 1 → WindowCloses (.move die) s die w fun t x => x.lv = true ∧ x.lframe = p.frame ∧ x.ltier = p.tier ∧ x.dirty = false ∧ x.sip = false ∧
      (Apart (p.frame * 8192) 8192 w.frame 8192 → TablesApart s (p.frame * 8192) w → FrameCopied s t (p.frame * 8192) w.frame)) ∧
    (w.tier = 2 → WindowCloses (.move die) s die w fun t x => x.lv = false ∧ x.owner = none ∧ p.frame * 8192 ∈ t.zeroing ∧
      (p.lv = false ∨ p.dirty = true ∨ w.frame ≠ p.lframe * 8192 → Apart (p.frame * 8192) 8192 w.frame 8192 → TablesApart s (p.frame * 8192) w →
        FrameCopied s t (p.frame * 8192) w.frame))) ∧
  (∀ (s : State) (c va : Nat) (sink sipok : Bool) (a : Option Nat) (p : Pgd),
    let die := c / 16384 % 4
    let us (hi lo : Nat) : Nat := 1000 * s.regBits (dieReg die 0x1008) hi lo
    let wake := s.ctxd c 191 128
    let home := s.granDie a va
    s.tick % 2 ^ 16 = 0 → s.rseHa die (s.ctxVf c) = false → s.kvGranules c = [(va, sink, sipok)] → s.granAt (s.ctxAsid c) va = some (a, p) → s.movable a va = true →
    (∀ m ∈ (s.rse home).queue, m.gran ≠ granCode a va) →
    (s.ctxState c = 1 ∨ s.ctxState c = 2 ∨ (us 63 48 ≠ 0 ∧ wake ≤ s.tick + us 63 48) → p.tier = 2 → p.st = 0 →
      ∃ t, exec (.rseEvaluate c) s = .next t ∧ (t.rse home).queue = (s.rse home).queue ++ [⟨granCode a va, true, wake - us 31 16, c, false⟩] ∧ t.mem = s.mem) ∧
    (s.ctxState c ≠ 1 → s.ctxState c ≠ 2 → s.tick + us 63 48 + us 47 32 < wake → p.tier = 1 → p.pin = false → sink = false → p.owner = some c →
      ∃ t, exec (.rseEvaluate c) s = .next t ∧ (t.rse home).queue = (s.rse home).queue ++ [⟨granCode a va, false, 0, c, false⟩] ∧ t.mem = s.mem)) ∧
  (∀ (s : State) (die : Nat) (m : RseMove), (∀ d < 4, s.liveContexts d = []) → s.cmdCount (ringGroup die 2) = 0 → (s.rse die).queue = [m] →
    m.promote = true → m.missed = false → m.deadline ≤ s.tick → s.rseHa die (s.granVf m.gran) = true →
    ∃ t, exec (.deadlineMiss die) s = .next t ∧ (t.rse die).queue = [{ m with missed := true }] ∧
      (t.rse die).events = (s.rse die).events ++ [s.tick % 2 ^ 64 * 2 ^ 192 + granVa m.gran * 2 ^ 136 + (granTag m.gran).getD 0 * 2 ^ 120 +
        m.owner % 65536 * 2 ^ 104 + s.granVf m.gran * 2 ^ 97 + 2 ^ 94]) ∧
  (∀ (s : State) (die c va : Nat) (sink sipok : Bool) (a : Option Nat) (p : Pgd), (range 0 4).flatMap s.liveContexts = [c] → s.ctxState c = 1 →
    s.steps = [] → s.kvGranules c = [(va, sink, sipok)] → s.granAt (s.ctxAsid c) va = some (a, p) → p.tier = 3 →
    ∃ t, exec (.deadlineMiss die) s = .next t ∧ t.ctxState c = 3 ∧ t.ctxReason c = 4 ∧ t.ctxd c 1151 1088 = va % 2 ^ 64 ∧ c ∈ t.waiters) ∧
  (∀ (s : State) (pa g : Nat) (p : Pgd), s.pgd = [(g, p)] → (∀ e ∈ s.rses, e.2.window = none) → Uncached s g →
    (p.frame = pa / 8192 → p.st = 0 → ∃ t, exec (.poisonGranule pa) s = .next t ∧ t.granOf g = some { p with st := 3 } ∧ g ∈ t.poisonAsks) ∧
    (p.frame ≠ pa / 8192 → p.lframe = pa / 8192 → p.lv = true →
      ∃ t, exec (.poisonGranule pa) s = .next t ∧ t.granOf g = some { p with lv := false } ∧ t.mem = s.mem)) ∧
  (∀ (s : State) (g ea e : Nat), s.poisonAsks = [g] → s.granBusy g = false → Uncached s g → s.leaves g = [(ea, e)] →
    s.servePoison.memNum ea 8 = setBits e 59 58 3 % 2 ^ 64 ∧ s.servePoison.poisonAsks = []) ∧
  (∀ (s : State) (die : Nat) (k : LineKey) (p : Pgd),
    let g := granCode k.asid k.va
    s.granDie k.asid k.va = die → s.rseHa die (s.granVf g) = false → s.granOf g = some p →
    (∀ f, MayMove s die → (s.rse die).window = none → p.st = 3 → p.lv = true → p.dirty = false → s.granBusy g = false → s.freeFrame die g 1 = some f → Uncached s g →
      WindowOpens (.refetchCleanCopy die k) s die ⟨g, f, 1, p.owner, true, false⟩ p) ∧
    ∀ w, (s.rse die).window = some w → w.gran = g → w.tier = 1 → w.refetch = true → w.cmd = false →
      WindowCloses (.refetchCleanCopy die k) s die w fun t x => x.dirty = false ∧ p.frame * 8192 ∈ (t.rse die).retired ∧
        (Apart (p.lframe * 8192) 8192 w.frame 8192 → TablesApart s (p.lframe * 8192) w → FrameCopied s t (p.lframe * 8192) w.frame)) ∧
  (∀ (s : State) (pa : Nat), pa ∈ s.zeroing →
    let die := if inHbm pa then stackOf pa / 2 else 2 * (mtuOf pa - 8)
    ∃ t, exec (.frameZeroingEnd pa) s = .next t ∧ t.zeroing = s.zeroing.filter (· ≠ pa) ∧
      (∀ a, t.memByte a = if pa ≤ a ∧ a < pa + 8192 then 0 else s.memByte a) ∧ (tierOf pa ≠ 3 → pa ∈ (t.rse die).pool (tierOf pa)))
/-- R106, R107: the commands of a residency ring are performed: PROMOTE, DEMOTE and REFETCH when their window has closed, PIN and
UNPIN at once, each with DONE or LATE; an event of the engine goes to its ring.
It rests also on the model's choices of log 1, 59 and 76. -/
def Obligations.ResidencyCommandsComplete : Prop :=
  (∀ (s : State) (die pa : Nat) (c : RseCmd) (p : Pgd) (w : Window), Performs (.promote die) 0 1 s die pa c p w) ∧
  (∀ (s : State) (die pa : Nat) (c : RseCmd) (p : Pgd) (w : Window), Performs (.demote die) 1 2 s die pa c p w) ∧
  (∀ (s : State) (die pa : Nat) (c : RseCmd) (p : Pgd) (w : Window), Performs (.refetch die) 4 1 s die pa c p w) ∧
  (∀ (s : State) (die pa : Nat) (c : RseCmd) (p : Pgd), RseHead s die pa 2 c → s.granOf c.gran = some p → s.movable c.tag c.va = true → p.st = 0 →
    p.tier ≤ 1 → c.frame = 0 →
    (c.tier = 1 → ∃ t, exec (.pin die) s = .next t ∧ RequestDone s t (ringGroup die 2) pa (performedCode s c) ∧ t.granOf c.gran = some { p with pin := true }) ∧
    (c.tier = 0 → s.pinFull die c.va = true → ∃ t, exec (.pin die) s = .next t ∧ RequestDone s t (ringGroup die 2) pa 6 ∧ t.pgd = s.pgd) ∧
    (c.tier = 0 → s.pinFull die c.va = false → (∀ k ∈ granLines c, ∃ h, s.homeLine k = some h ∧ h.valid = 15 ∧ h.key = k) →
      ∃ t, exec (.pin die) s = .next t ∧ RequestDone s t (ringGroup die 2) pa (performedCode s c) ∧
        t.granOf c.gran = some { p with tier := 0, pin := true } ∧ ∀ k ∈ granLines c, ∃ h, t.homeLine k = some h ∧ h.pinned = true)) ∧
  (∀ (s : State) (die pa : Nat) (c : RseCmd) (p : Pgd), RseHead s die pa 3 c → s.granOf c.gran = some p → s.movable c.tag c.va = true →
    ∃ t, exec (.unpin die) s = .next t ∧ RequestDone s t (ringGroup die 2) pa (performedCode s c) ∧
      t.granOf c.gran = some { p with pin := false, tier := if p.tier = 0 then 1 else p.tier }) ∧
  (∀ (s : State) (die slot w : Nat) (r : List Nat),
    let g := ringGroup die 3
    (s.rse die).events = w :: r → RingTakes s g (g + 8) (g + 0x10) (g + 0x18) 4 32 slot →
    ∃ t, exec (.residencyEvent die) s = .next t ∧ RecordIn s t (g + 8) (g + 0x10) 32 slot w ∧ (t.rse die).events = r)

/-- R160 to R169: a command front end takes doorbells and accepts the packet at the head of a queue: a bad one is answered with
its status, LAUNCH makes a pending step, a packet with a prologue starts the front end's core, a prologue out of time fails it,
FFENCE and SKIP pass, and a template forms a batch.
It rests also on the model's choices of log 1, 60, 100, 101, 102 and 103. -/
def Obligations.PacketsAreAccepted : Prop :=
  (∀ (s : State) (f d q n : Nat), s.lqVf d q = f → s.lqEn d q = true → s.fnEnabled f = true →
    ∃ t, exec (.lqprod f d q n) s = .next t ∧ (t.lq d q).prod = n % 2 ^ 32 ∧ (t.lq d q).cons = (s.lq d q).cons) ∧
  (∀ (s : State) (f d q n : Nat), s.lqVf d q ≠ f ∨ s.lqEn d q = false ∨ s.fnEnabled f = false →
    ∃ t, exec (.lqprod f d q n) s = .next t ∧ t.lqs = s.lqs ∧ (t.mtu 8).vcount = ((s.mtu 8).vcount + 1) % 2 ^ 64) ∧
  (∀ (s : State) (d q pa code : Nat) (p : Packet),
    let vf := s.lqVf d q
    let asid := s.lqAsid d q
    PacketAt s d q p → p.type ≠ 2 → p.type ≠ 3 → (p.type = 1 → p.f 335 280 = 0) →
    (p.bad (s.tileQuota vf) = true ∧ code = 4) ∨ (p.bad (s.tileQuota vf) = false ∧ p.bcount = 0 ∧ s.ctxState (p.ctx % 65536) = 0 ∧ code = 8) ∨
      (p.bad (s.tileQuota vf) = false ∧ p.bcount = 0 ∧ s.ctxState (p.ctx % 65536) ≠ 0 ∧
        (∃ bs, s.fetch asid (some vf) (p.f 391 336) 64 = (s, .ok bs) ∧ lnrLevels (numOf bs) = none) ∧ code = 5) →
    RecordFor s asid vf p.cpl pa →
    ∃ t, exec (.launchPacket d q) s = .next t ∧ Advanced s t d q ∧ RecordWritten s t pa (p.f 127 64) 0 code ∧ t.steps = s.steps) ∧
  (∀ (s s1 : State) (d q : Nat) (p : Packet) (lv : List (Nat × Nat)), PacketAt s d q p → p.type = 1 → p.f 335 280 = 0 →
    Resolves s s1 (s.lqVf d q) (s.lqAsid d q) p lv →
    ∃ t st, exec (.launchPacket d q) s = .next t ∧ t.steps = s1.steps ++ [st] ∧ PendingFrom st p d q (s.lqVf d q) (s.lqAsid d q) lv ∧
      (t.lq d q).cons = ((s1.lq d q).cons + 1) % 2 ^ 32 ∧ (t.lq d q).busy = (s1.lq d q).busy ++ [st.id]) ∧
  (∀ (s : State) (d q : Nat) (p : Packet), PacketAt s d q p → p.type = 2 →
    ((∀ st ∈ s.steps, st.die ≠ d ∨ st.queue ≠ q) → ∃ t, exec (.ffence d q) s = .next t ∧ Advanced s t d q ∧ t.steps = s.steps) ∧
    (∀ st ∈ s.steps, st.template = false → st.direct = false → st.die = d → st.queue = q → exec (.ffence d q) s = .next s)) ∧
  (∀ (s : State) (d q : Nat) (p : Packet), PacketAt s d q p → p.type = 3 →
    ∃ t, exec (.skip d q) s = .next t ∧ Advanced s t d q ∧ t.steps = s.steps ∧ t.mem = s.mem) ∧
  (∀ (s : State) (d q : Nat) (p : Packet), PacketAt s d q p → p.type = 1 → p.f 335 280 ≠ 0 → d < 4 →
    ∃ t, exec (.prologue d q) s = .next t ∧ fget? t.prologues d = some ⟨q, p, s.tick, none⟩ ∧ (t.place (512 + d)).hold = .running ∧ (t.place (512 + d)).cc.pc = BitVec.ofNat 64 (p.f 335 280) ∧
      (t.place (512 + d)).cc.getG 3 = BitVec.ofNat 64 q ∧ (∀ i < 8, (t.place (512 + d)).cc.getG (9 + i) = BitVec.ofNat 64 (p.shape i)) ∧
      (t.place (512 + d)).spBytes 0 128 = bytesOf 128 p.bits ∧ (t.place (512 + d)).vf = s.lqVf d q ∧ (t.place (512 + d)).asid = s.lqAsid d q) ∧
  (∀ (s : State) (d pa : Nat) (pr : Prologue), fget? s.prologues d = some pr → pr.ended = none →
    (s.tick < pr.start + 10000 → exec (.prologueTimeout d) s = .next s) ∧
    (pr.start + 10000 ≤ s.tick → RecordFor s (s.lqAsid d pr.queue) (s.lqVf d pr.queue) pr.packet.cpl pa →
      ∃ t, exec (.prologueTimeout d) s = .next t ∧ fget? t.prologues d = none ∧ RecordWritten s t pa (pr.packet.f 127 64) 0 7 ∧
        (t.lq d pr.queue).cons = ((s.lq d pr.queue).cons + 1) % 2 ^ 32)) ∧
  (∀ (s s1 s2 : State) (d g k vf c : Nat) (bs lb : List Byte) (lv : List (Nat × Nat)) (rest : List Nat),
    let p : Packet := ⟨setBits (numOf bs) 279 168 0, c⟩
    let members := ((c :: rest).filter fun x => s1.ctxVf x = vf ∧ s1.ctxAsid x = s1.ctxAsid c).take p.bcount
    g < s.regBits (dieReg d 0x1070) 15 0 → s.fetch (s.regBits (dieReg d 0x1070) 47 32) none (s.regN (dieReg d 0x1068) + 128 * g) 128 = (s1, .ok bs) →
    s1.byDeadline ((s1.liveContexts d).filter fun x => s1.ctxState x = 1 && s1.ctxd x 975 960 = g && s1.ctxd x 56 55 = k &&
      !s1.steps.any fun st => st.current.contains x) = c :: rest →
    vf = s1.ctxVf c → (s1.regN (dieReg d (if vf < 64 then 0x1020 else 0x1028))).testBit (vf % 64) = false → s1.fnEnabled vf = true → p.bcount ≠ 0 →
    members.length = p.bcount ∨ s1.ctxd c 127 64 ≤ s1.tick + 1000 * s1.regBits (dieReg d (0x1040 + 8 * k)) 47 32 →
    p.bad (s1.tileQuota vf) = false → p.f 8 8 = 0 → p.f 10 10 = 0 → (∀ x ∈ members, x < 65536) → vf ≤ 64 →
    s1.fetch (s1.ctxAsid c) (some vf) (p.f 391 336) 64 = (s2, .ok lb) → lnrLevels (numOf lb) = some lv →
    ∃ t st, exec (.formBatch d g k) s = .next t ∧ t.steps = s2.steps ++ [st] ∧ st.members = members ∧ st.batched = true ∧ st.template = true ∧
      st.vf = vf ∧ st.cls = k ∧ st.deadline = s1.ctxd c 127 64 ∧ st.levels = lv ∧ st.entry = p.f 447 392 ∧ st.started = false)
/-- R145, R168, R170 to R177, R401: the schedulers reserve tiles, start a step, load its kernel, hand out its chains, end it with
its record, write the store log, choose victims and free them, change turns, and serve the commands and events of host-assisted functions.
It rests also on the model's choices of log 1, 32, 60 and 61. -/
def Obligations.StepsArePickedRunAndEnded : Prop :=
  (∀ (s : State) (d : Nat) (st : Step), s.online d = true → s.freeTiles d ≠ [] → s.slicedWork d = [] → (s.cxsOf d).picking = none →
    s.steps.filter (fun x => s.servable x d) = [st] → s.needs st d = true → s.stepOf st.id = some st →
    ∃ t, exec (.pick d) s = .next t ∧ t.stepOf st.id = some { st with
      reserved := st.reserved ++ (s.freeTiles d).take (min (st.gang - st.holds d) (s.allowance st.vf d)) }) ∧
  (∀ (s : State) (d : Nat) (a b : Step), s.online d = true → s.freeTiles d ≠ [] → s.slicedWork d = [] → (s.cxsOf d).picking = none →
    s.steps.filter (fun x => s.servable x d) = [a, b] → a.cls = b.cls → a.id ≠ b.id → s.needs a d = true → s.needs b d = true →
    s.stepOf a.id = some a → s.stepOf b.id = some b → a.deadline < b.deadline → a.die < 256 → a.queue < 256 → a.packet.index < 2 ^ 32 →
    ∃ t, exec (.pick d) s = .next t ∧ t.stepOf b.id = some b ∧ t.stepOf a.id = some { a with
      reserved := a.reserved ++ (s.freeTiles d).take (min (a.gang - a.holds d) (s.allowance a.vf d)) }) ∧
  (∀ (s : State) (d : Nat), (s.cxsOf d).winStart / 2 ^ 20 < s.tick / 2 ^ 20 →
    ∃ t, exec (.windowRestart d) s = .next t ∧ (t.cxsOf d).winStart = s.tick / 2 ^ 20 * 2 ^ 20 ∧ (t.cxsOf d).used = [] ∧ t.steps = s.steps) ∧
  (∀ (s : State) (c n : Nat) (st : Step), s.stepOf st.id = some st → st.started = false → st.failed = none → st.batched = false → st.members = [c] →
    s.fnEnabled st.vf = true → s.eligible st = true → (∀ d ∈ st.mask, st.holds d = st.gang) → st.reserved = [n] → traceOff s st.die →
    (∀ k < 4, (s.regN (recReg (s.ctxVf c) k 0)).testBit 16 = false) → isTile n = true →
    ∃ t x, exec (.stepStart st.id) s = .next t ∧ t.stepOf st.id = some x ∧ x.started = true ∧ x.chief = c ∧ x.reserved = [] ∧
      x.positions = [Position.new (dieOf n) n] ∧ (t.place n).step = some st.id ∧ (t.place n).ctx = c ∧
      (t.place n).gpos = 0 ∧ (t.place n).vf = st.vf ∧ (t.place n).asid = st.asid ∧ t.ctxState c = 2) ∧
  (∀ (s s1 : State) (n kid : Nat) (st : Step) (h : List Byte),
    let fld (o k : Nat) : Nat := numOf h / 2 ^ (8 * o) % 2 ^ (8 * k)
    s.stepAt n = some st → st.failed = none → (∀ p ∈ st.positions, p.point = none) → s.fetch st.asid (some st.vf) (st.entry - 256) 256 = (s1, .ok h) →
    kid = fld 8 8 → (s1.place n).kernel ≠ some ⟨st.vf, st.entry - 256, kid⟩ →
    (fld 0 4 = 0x4B494831 → fld 4 4 = 1 → (∀ o, 16 ≤ o → fld o 1 = 0) →
      ∃ t, exec (.kernelLoad n) s = .next t ∧ (t.place n).kernel = some ⟨st.vf, st.entry - 256, kid⟩ ∧ (t.place n).grants = [] ∧
        ∀ k < 6, fget? (t.place n).rings k = some ⟨0, 0, 0, 8, 0, 0, true, 0x160000 + 0x1000 * k⟩) ∧
    (fld 0 4 ≠ 0x4B494831 ∨ fld 4 4 ≠ 1 → s1.stepOf st.id = some st →
      ∃ t, exec (.kernelLoad n) s = .next t ∧ (t.place n).kernel = none ∧ t.stepOf st.id = some { st with failed := some 9 })) ∧
  (∀ (s : State) (d n c t0 t1 : Nat) (st : Step) (pos : Position),
    let rb := (s.place n).regbnd
    let reg (i v : Nat) (old : Word) : Word := if i < rb then BitVec.ofNat 64 v else old
    (∀ x ∈ s.steps, s.goesOn x d = none) → s.steps.find? (fun x => s.handable x d) = some st → s.stepOf st.id = some st → st.positions = [pos] → pos.die = d → s.idlePosition pos = true →
    pos.tile = some n → (s.place n).firstDone = true → st.levels = [(1, t0), (1, t1)] → fget 0 st.cursor 0 = c → st.direct = false →
    ∃ t x, exec (.handOff d) s = .next t ∧ (t.place n).cc.pc = BitVec.ofNat 64 st.entry ∧ (t.place n).cc.priv = 0 ∧
      (t.place n).cc.getG 2 = reg 2 0x180000 (s.place n |>.cc.getG 2) ∧
      (t.place n).cc.getG 3 = reg 3 (c / t1) ((s.place n).cc.getG 3) ∧ (t.place n).cc.getG 4 = reg 4 (c % t1) ((s.place n).cc.getG 4) ∧
      (∀ i, 2 ≤ i → i < 6 → (t.place n).cc.getG (3 + i) = reg (3 + i) 0 ((s.place n).cc.getG (3 + i))) ∧
      (∀ i < 8, (t.place n).cc.getG (9 + i) = reg (9 + i) (st.packet.shape i) ((s.place n).cc.getG (9 + i))) ∧ (t.place n).point = [c / t1, c % t1] ∧
      t.stepOf st.id = some x ∧ fget 0 x.cursor 0 = c + 1 ∧ x.positions = [{ pos with point := some [c / t1, c % t1], busy := true }]) ∧
  (∀ (s : State) (d n j : Nat) (st : Step) (pt : List Nat), s.steps.findSome? (fun x => (s.goesOn x d).map fun e => (x, e)) = some (st, n, j, pt) →
    (s.place n).firstDone = true →
    ∃ t, exec (.handOff d) s = .next t ∧ (t.place n).cc.pc = BitVec.ofNat 64 st.entry ∧ (t.place n).cc.priv = 0 ∧ (t.place n).point = pt) ∧
  (∀ (s : State) (n : Nat) (st : Step) (pos : Position), s.steps = [st] → st.positions = [pos] → pos.tile = some n → s.stepDone st = false →
    pos.busy = false → pos.saved = false → (s.place n).victim = true → (s.place n).step = some st.id → s.tileRests n = true → (s.place n).switch = none →
    ((s.freeVictims).place n).step = none ∧ ∃ x, s.freeVictims.stepOf st.id = some x ∧ ∀ q ∈ x.positions, q.tile = none ∧ q.point = pos.point) ∧
  (∀ (s : State) (pa : Nat) (st : Step), s.stepOf st.id = some st → s.stepDone st = true → s.cplReady st = true → traceOff s st.die →
    (∀ p ∈ st.positions, p.tile = none) → st.causalD = st.trialBase → (∀ c ∈ st.active st.map, s.ctxState c ≠ 2) → RecordFor s st.asid st.vf st.packet.cpl pa →
    ∃ t, exec (.completionRecord st.id) s = .next t ∧ t.stepOf st.id = none ∧
      RecordWritten s t pa (st.packet.f 127 64) st.map (match st.failed with | some f => f | none => if st.aborted then 2 else 1)) ∧
  (∀ (s : State) (n : Nat) (st : Step), s.stepOf st.id = some st → s.stepDone st = true → s.cplReady st = true → (∃ p ∈ st.positions, p.tile = some n) →
    ∃ t, exec (.completionRecord st.id) s = .next t ∧ t.stepOf st.id = none ∧ (t.place n).step = none ∧ (t.place n).frozen = false) ∧
  (∀ (s : State) (id : Nat) (st : Step), s.stepOf id = some st → s.stepDone st = false → exec (.completionRecord id) s = .next s) ∧
  (∀ (s : State) (n c slot q pa : Nat) (pc : Word),
    let va := s.ctxd c 439 384 + 16 * slot
    (s.place n).slogBusy = some (c, [(slot, q, pc)]) → RecordPage s (s.ctxAsid c) va pa →
    ∃ t, exec (.storeLogWriteDone n) s = .next t ∧ (t.place n).slogBusy = none ∧ t.memRead pa 16 = bytesOf 8 q ++ bytesOf 8 pc.toNat) ∧
  (∀ (s : State) (d : Nat) (p v : Step), s.steps = [p, v] → pendsOn s p d → s.inTurn p.vf d = true → s.needs v d = false →
    p.deadline ≤ s.tick + 1000 * s.regBits (dieReg d (0x1040 + 8 * p.cls)) 47 32 → v.started = true → v.vf = p.vf → v.onDie d ≠ 0 →
    p.cls < v.cls → (∃ x ∈ v.positions, ∃ n, x.tile = some n ∧ (s.place n).victim = false) → OnTiles s v → p.started = false → (∀ e ∈ s.places, e.2.victim = false) →
    p.holds d + (s.freeTiles d).length < p.gang → ∃ t, exec (.deadlineLeadReached d) s = .next t ∧ Victims t v) ∧
  (∀ (s : State) (d f g : Nat), (s.cxsOf d).sliceFn = some f → (s.cxsOf d).sliceEnd ≤ s.tick → s.slicedWork d = [f, g] ∨ s.slicedWork d = [g, f] → f ≠ g →
    s.hostHeld d f = false → (∀ st ∈ s.steps, OnTiles s st) → ∃ t, exec (.timeSliceEnd d) s = .next t ∧ (t.cxsOf d).sliceFn = some g ∧
      (t.cxsOf d).sliceEnd = s.tick + bits (s.limits g) 15 8 * s.regBits 0x30 15 0 * 1000 ∧
      ∀ st ∈ s.steps, st.started = true → st.vf = f → st.onDie d ≠ 0 → Victims t st) ∧
  (∀ (i : Instr) (s : State) (d pa : Nat) (c : SchedCmd), HeadRequest s (schedGroup d 4) 16 pa c.w → SchedRuns c.op d i →
    (s.stepOf c.step = none → ∃ t, exec i s = .next t ∧ RequestDone s t (schedGroup d 4) pa 5 ∧ t.steps = s.steps) ∧
    ∀ st, s.stepOf c.step = some st →
      (s.hostHeld d st.vf = false ∨ (c.op = 0 ∧ st.started = true ∧ st.away = false) ∨ (c.op = 1 ∧ st.started = false) ∨ (c.op = 2 ∧ st.started = true) →
        ∃ t, exec i s = .next t ∧ RequestDone s t (schedGroup d 4) pa 4 ∧ t.steps = s.steps) ∧
      (s.hostHeld d st.vf = true → c.op = 1 → st.started = true → OnTiles s st →
        ∃ t, exec i s = .next t ∧ RequestDone s t (schedGroup d 4) pa 1 ∧ Victims t st) ∧
      (s.hostHeld d st.vf = true → c.op = 2 → st.started = false → st.packet.cpl = 0 →
        ∃ t, exec i s = .next t ∧ RequestDone s t (schedGroup d 4) pa 1 ∧ t.stepOf c.step = none) ∧
      (s.hostHeld d st.vf = true → c.op = 0 → st.started = false → (∀ e ∈ st.mask, s.needs st e = false ∧ st.holds e = st.gang) →
        ∃ t, exec i s = .next t ∧ RequestDone s t (schedGroup d 4) pa 1) ∧
      ∀ u x, s.hostHeld d st.vf = true → c.op = 0 → st.started = true → st.away = true → s.resumeAll st = u → u.stepOf c.step = some x → x.started = true →
        x.away = false → st.id = c.step → u.reverse pa = none → ∃ t, exec i s = .next t ∧ RequestDone u t (schedGroup d 4) pa 1) ∧
  (∀ (s : State) (d slot w : Nat) (r : List Nat),
    let g := schedGroup d 5
    (∀ st ∈ s.steps, s.hostHeld d st.vf = false ∨ st.die ≠ d ∨ st.started = true ∨ (st.posted = true ∧ st.told = true)) → (s.cxsOf d).events = w :: r →
    RingTakes s g (g + 8) (g + 0x10) (g + 0x18) 4 32 slot →
    ∃ t, exec (.schedulingEvent d) s = .next t ∧ RecordIn s t (g + 8) (g + 0x10) 32 slot w ∧ (t.cxsOf d).events = r)

/-- R80, R128, R150, R158, R249, R252, R257, R258, R327, R343, R344, R357, R364, R371, R413, R424: what happens at a tile without
an instruction of its core: stalls that end, the watchdog, a pending cause taken at a boundary, arrivals from peers, phases,
the zeroing of rows of a killed key, causal pauses and parity errors.
It rests also on the model's choices of log 1, 42, 47, 62, 66, 70 and 71. -/
def Obligations.TileEventsHappen : Prop :=
  (∀ (s : State) (p a : Nat), let u := atPlace s p
    s.stalledAt p = some (.sleepu a) → u.inBound [a] [] → u.unarmed → (u.g a).toNat ≤ s.tick →
      Completes (.sleepuTickReached p) s u (u.pc + 8)) ∧
  (∀ (s : State) (p a b o dl : Nat), let u := atPlace s p
    s.stalledAt p = some (.tbwait a b) → notSteward u → u.inBound [a, b] [] → (u.g a).toNat % 8 = 0 → (u.g a).toNat + 8 ≤ spSize p →
    let w := watching u (u.g a).toNat (u.g b).toNat
    Passes (orderRead 15) w → Passes (spTouch u.acc (u.g a).toNat 8) w → u.here.spBad (u.g a).toNat 8 = false →
    u.here.tb = some (o, dl, false) → 0 < dl → dl ≤ s.tick →
      (u.here.spNum (u.g a).toNat 8 ≠ 0 → exec (.tbwaitTimeout p) s = .next (u.raise cBarorphan 0xFFFFFFFF)) ∧
      (u.here.spNum (u.g a).toNat 8 = 0 → u.unarmed → Completes (.tbwaitTimeout p) s w (u.pc + 8))) ∧
  (∀ (s : State) (p a : Nat), let u := atPlace s p
    let x := (u.g a).toNat % 2 ^ 32
    s.stalledAt p = some (.prmwait a) → notSteward u → u.inBound [a] [] → copyRuns u x → promised u x < s.tick →
    fget false (u.engq p 2).reported x = false →
      exec (.promise p) s = .next ((u.setEngq p 2 { u.engq p 2 with reported := fput x true (u.engq p 2).reported }).raise cPromise x)) ∧
  (∀ (s : State) (p : Nat), s.stalledAt p = none → ∀ i ∈ [Instr.sleepuTickReached p, .tbwaitTimeout p, .promise p], exec i s = .next s) ∧
  (∀ (s : State) (n : Nat), let b := s.ctxd (s.place n).ctx 1023 992
    ((s.place n).step = none ∨ b = 0 ∨ (s.place n).wdogGt < 1000 * b → exec (.watchdog n) s = .next s) ∧
    ((s.place n).step ≠ none → (s.place n).hold ≠ .escalated → b ≠ 0 → 1000 * b ≤ (s.place n).wdogGt →
      ((s.place n).switch = none → ∃ t, exec (.watchdog n) s = .next t ∧ (t.place n).wdogGt = 0 ∧ t.mem = s.mem ∧
        (t.place n).async = (s.place n).async ++ [⟨cWatchdog, b, none⟩] ∧ (t.place n).cc = (s.place n).cc ∧ ∀ m, m ≠ n → t.place m = s.place m) ∧
      ((s.place n).switch ≠ none → ∃ t, exec (.watchdog n) s = .next t ∧ (t.place n).hold = .escalated))) ∧
  (∀ (s : State) (n h : Nat) (a : Async), let u := atPlace s n
    s.iterating n = true → u.here.switch = none → u.here.amoWait = none → u.here.hold = .running → u.here.frozen = false →
    (u.here.stallSince = none ∨ a.code = cWatchdog) → u.here.entering = none → u.here.async = [a] → a.queue = none → a.code < 256 →
    traceOff s (dieOf n) → HandlerIs u a.code h → h ≠ 0 → h % 8 = 0 → h < 2 ^ 56 →
      ∃ t, exec (.trapEntry n) s = .next t ∧ HandlerBegun u (atPlace t n) a.code a.detail h u.here.cc.pc ∧ (t.place n).async = []) ∧
  (∀ (s : State) (n : Nat) (f : InFlight), (s.engq n 2).cur = some f → (s.place n).frozen = true → abandonable f.word = true → f.killed = false →
    let h := hdrOf f.word
    ∃ t, exec (.xeAbandon n) s = .next t ∧ (t.engq n 2).cur = none ∧ t.ring n 2 = s.ring n 2 ∧ t.mem = s.mem ∧
      ∀ x, (t.place n).getSem x = (s.place n).getSem x + if x = h.wsem then h.wneed else 0) ∧
  -- arrivals
  (∀ (s : State) (d : Delivery) (m : PeerMsg), Arrives s d m → s.admits m = true → PlainTile s m.toTile → m.kind = .put → m.data.length = m.len →
    (m.bar = none → ∃ t, exec (.peerTransferArrival d) s = .next t ∧ Answered s t d m none ∧
      ∀ k, (t.place m.toTile).spByte k = overwritten (s.place m.toTile) m.offset m.data k) ∧
    (∀ b, m.bar = some b → Apart b 8 m.offset m.len → (s.place m.toTile).spBad b 8 = false → ∃ t, exec (.peerTransferArrival d) s = .next t ∧ Answered s t d m none ∧
      (t.place m.toTile).spNum b 8 = (counted (BitVec.ofNat 64 ((s.place m.toTile).spNum b 8)) m.len).toNat ∧
      ∀ k, k < b ∨ b + 8 ≤ k → (t.place m.toTile).spByte k = overwritten (s.place m.toTile) m.offset m.data k)) ∧
  (∀ (s : State) (d : Delivery) (m : PeerMsg), Arrives s d m → s.admits m = true → PlainTile s m.toTile → PlainTile s m.tile → m.kind = .get →
    m.pkg = s.pkgNum → m.bar = none → (s.place m.toTile).spPoison = [] →
    ∃ t, exec (.peerTransferArrival d) s = .next t ∧ Answered s t d m none ∧
      ∀ k, (t.place m.tile).spByte k = overwritten (s.place m.tile) m.loff ((s.place m.toTile).spBytes m.offset m.len) k) ∧
  (∀ (s : State) (d : Delivery) (m : PeerMsg), Arrives s d m → s.admits m = true → PlainTile s m.toTile → m.kind = .red 2 → m.len = 4 →
    m.data.length = 4 → m.bar = none → (s.place m.toTile).spBad m.offset 4 = false →
    let old := (s.place m.toTile).spNum m.offset 4
    ∃ t, exec (.peerTransferArrival d) s = .next t ∧ Answered s t d m none ∧
      ∀ k, (t.place m.toTile).spByte k = overwritten (s.place m.toTile) m.offset (bytesOf 4 ((old + numOf m.data) % 2 ^ 32)) k) ∧
  (∀ (s : State) (d : Delivery) (m : PeerMsg) (sem n : Nat), Arrives s d m → s.admits m = true → m.kind = .sig sem n →
    let v := (s.place m.toTile).getSem sem + n
    (v ≤ 65535 → m.queue = none ∨ m.pkg ≠ s.pkgNum → ∃ t, exec (.signalArrival d) s = .next t ∧ Answered s t d m none ∧
      ∀ x, (t.place m.toTile).getSem x = if x = sem then v else (s.place m.toTile).getSem x) ∧
    (v ≤ 65535 → ∀ f, m.pkg = s.pkgNum → Awaits s m f → m.tile ≠ m.toTile → ∃ t, exec (.signalArrival d) s = .next t ∧ Answered s t d m none ∧
      ∀ x, (t.place m.toTile).getSem x = if x = sem then v else (s.place m.toTile).getSem x) ∧
    (65535 < v → ∃ t, exec (.signalArrival d) s = .next t ∧ Answered s t d m (some cSemovf) ∧
      ∀ x, (t.place m.toTile).getSem x = (s.place m.toTile).getSem x)) ∧
  (∀ (s : State) (d : Delivery) (m : PeerMsg) (q : Nat), Arrives s d m → s.admits m = true → PlainTile s m.toTile → m.kind = .enq q →
    let r := s.ring m.toTile q
    r.v = true → 8 ≤ q → q ≤ 63 → m.len = 16 * (r.sszm + 1) → m.data.length = m.len →
    (r.filled < r.size → r.claimed = 0 → (m.pkg = s.pkgNum → Passes (releaseBy leAgent allClasses r.scope) { s with cur := m.tile }) →
      ∃ t, exec (.lenqArrival d) s = .next t ∧ Answered s t d m none ∧
      t.ring m.toTile q = { r with tail := (r.tail + 1) % 65536 } ∧
      ∀ k, (t.place m.toTile).spByte k = overwritten (s.place m.toTile) (r.slot r.tail) m.data k) ∧
    (r.claimed ≠ 0 → r.filled + r.claimed < r.size → (m.pkg = s.pkgNum → Passes (releaseBy leAgent allClasses r.scope) { s with cur := m.tile }) →
      let slot := (r.tail + r.claimed) % 65536
      ∃ t id, exec (.lenqArrival d) s = .next t ∧ t.peers = (s.take d).peers ∧ t.ring m.toTile q = { r with claimed := r.claimed + 1 } ∧
        (s.place m.toTile).step = some id ∧ t.pushes = s.pushes ++ [⟨id, (s.place m.toTile).gpos, q, slot, m⟩] ∧
        ∀ k, (t.place m.toTile).spByte k = overwritten (s.place m.toTile) (r.slot slot) m.data k) ∧
    (r.size ≤ r.filled + r.claimed → ∀ f, m.pkg = s.pkgNum → Awaits s m f → f.killed = false → ∃ t, exec (.lenqArrival d) s = .next t ∧ t.peers = (s.take d).peers ∧
      (t.engq m.tile 4).cur = none ∧ t.ring m.tile 4 = s.ring m.tile 4 ∧ t.ring m.toTile q = r)) ∧
  (∀ (s : State) (d : Delivery) (m : PeerMsg), Arrives s d m → s.admits m = false →
    ∀ i, (i = .peerTransferArrival d ∧ (m.kind = .put ∨ m.kind = .get ∨ ∃ op, m.kind = .red op)) ∨ (i = .signalArrival d ∧ ∃ x n, m.kind = .sig x n) ∨
      (i = .lenqArrival d ∧ ∃ q, m.kind = .enq q) →
    ∃ t, exec i s = .next t ∧ Answered s t d m (some cGrant) ∧ (t.place m.toTile).vcount = ((s.place m.toTile).vcount + 1) % 2 ^ 64 ∧
      (∀ k, (t.place m.toTile).spByte k = (s.place m.toTile).spByte k) ∧
      ∀ x n, m.kind = .sig x n → m.queue = none → m.pkg = s.pkgNum → (s.place m.tile).step ≠ none → (s.place m.tile).ctx = m.ctx →
        (t.place m.tile).async = (s.place m.tile).async ++ [⟨cGrant, 256 * m.toTile + x, none⟩]) ∧
  -- rows, phases, time
  (∀ (s : State) (n slot rows r : Nat) (k : KeySlot), fget? (s.place n).keys slot = some k → k.zeroing = some r →
    (∀ e ∈ (s.place n).tags, fget? (s.place n).tags e.1 = some e.2) →
    let e := min (r + rows) 12288
    ∃ t, exec (.keySlotZeroing n slot rows) s = .next t ∧
      (∀ row x, r ≤ row → row < e → fget? (s.place n).tags row = some x → x.slot = slot → fget? (t.place n).tags row = none ∧
        ∀ o, o / 1024 = row → fget 0 (t.place n).bst o = 0) ∧
      (∀ row, (row < r ∨ e ≤ row ∨ ∀ x, fget? (s.place n).tags row = some x → x.slot ≠ slot) →
        fget? (t.place n).tags row = fget? (s.place n).tags row ∧ ∀ o, o / 1024 = row → fget 0 (t.place n).bst o = fget 0 (s.place n).bst o) ∧
      (e = 12288 → fget? (t.place n).keys slot = none) ∧ (e < 12288 → fget? (t.place n).keys slot = some { k with zeroing := some e })) ∧
  (∀ (s : State) (n j k : Nat) (st : Step) (p : Position), s.stepAt n = some st → k < 4 → nth? st.positions j = some p →
    ∃ t, exec (.phaseUpdate n j k) s = .next t ∧
      fget 0 (t.place n).nbPhase (4 * j + k) = fget 0 (match p.tile with | some m => (s.place m).phase | none => p.phases) k ∧ ∀ x, x ≠ 4 * j + k → fget 0 (t.place n).nbPhase x = fget 0 (s.place n).nbPhase x) ∧
  (∀ (s : State) (n : Nat), (s.owes n = true → ∃ t, exec (.causalPause n) s = .next t ∧ t.tick = (s.tick + 1) % 2 ^ 64 ∧
      (s.scrimDue = [] → (s.tick + 1) % 2 ^ 16 ≠ 0 → s.traces = [] → (∀ e ∈ s.places, e.2.maps = [] ∧ e.2.mapSince = []) →
        (∀ st ∈ s.steps, ∃ x, (st.positions.head?.bind (·.tile)) = some x) → t.mem = s.mem)) ∧
    (s.owes n = false → exec (.causalPause n) s = .next s)) ∧
  (∀ (s : State) (n : Nat), isTile n = true → (s.place n).step ≠ none → ∃ t, exec (.parityError n) s = .next t ∧ (t.place n).hold = .escalated) ∧
  (∀ (s : State) (n : Nat), (s.place n).step = none → exec (.parityError n) s = .next s)

/-- R83, R149, R270, R375, R391 to R414, R418, R420 to R423: writes of the device registers, quotas and enables, the mailbox and resets,
operations on contexts, cores and dies, queries, recording, and function-level reset.
It rests also on the model's choices of log 1, 6, 12, 15, 30, 48, 64, 65, 75, 92 and 96. -/
def Obligations.FirmwareAndHostEvents : Prop :=
  -- registers
  (∀ (s : State) (off size v : Nat) (w : Who), ¬ oneRegister off size → ∃ t, exec (.registerWrite off size v w) s = .next t ∧ LoggedOnly s t) ∧
  (∀ (s : State) (d o size k v : Nat) (w : Who) (wr : Writers) (mask : Nat), d < 4 → 0x1008 ≤ o → o < 0x2180 → o % 8 = 0 → k < 8 → oneRegister k size →
    o ≠ 0x1078 → o ≠ 0x1090 → o ≠ 0x1100 →
    let i := Instr.registerWrite (dieReg d o + k) size v w
    (dieEntry o = ⟨1, wr, mask⟩ → mayWrite w wr = true → ∃ t, exec i s = .next t ∧
      t.regN (dieReg d o) = (setBits (s.regN (dieReg d o)) (8 * k + 8 * size - 1) (8 * k) v &&& mask) ||| (s.regN (dieReg d o) &&& (2 ^ 64 - 1 - mask)) ∧
      (∀ x, x ≠ dieReg d o → t.reg x = s.reg x) ∧ t.mem = s.mem ∧ t.places = s.places) ∧
    (dieEntry o = ⟨1, wr, mask⟩ → mayWrite w wr = false → ∃ t, exec i s = .next t ∧ LoggedOnly s t) ∧
    ((dieEntry o).acc = 0 → w ≠ .plugin → exec i s = .next s) ∧
    ((dieEntry o).acc = 2 → mayWrite w (dieEntry o).w = true → exec i s = .next s) ∧
    ((dieEntry o).acc = 0 ∨ (dieEntry o).acc = 2 → w = .plugin → ∃ t, exec i s = .next t ∧ LoggedOnly s t) ∧
    ((dieEntry o).acc = 2 → mayWrite w (dieEntry o).w = false → ∃ t, exec i s = .next t ∧ LoggedOnly s t)) ∧
  (∀ (s : State) (w : Who), mayWrite w .s = true →
    (∀ v, v < 2 ^ 64 → v ≠ 1 → exec (.qcommit v w) s = .next s) ∧
    (s.quotaCheck = 1 → ∃ t, exec (.qcommit 1 w) s = .next t ∧ t.regN 0x28 = 1 ∧ ∀ f < 65, t.quota f = s.staging f) ∧
    (∀ c, s.quotaCheck = c → c ≠ 1 → ∃ t, exec (.qcommit 1 w) s = .next t ∧ t.regN 0x28 = c ∧ ∀ f, t.quota f = s.quota f) ∧
    ((∀ f < 65, s.staging f = 0) → s.regN 0x10 = 0 → s.regN 0x18 = 0 → s.quotaCheck = 1) ∧
    (∀ f g, f < g → g < 65 → (s.staging f).testBit 0 = true → (s.staging g).testBit 0 = true →
      s.staging f / 2 ^ 384 % 2 ^ 128 &&& s.staging g / 2 ^ 384 % 2 ^ 128 ≠ 0 → s.quotaCheck ≠ 1)) ∧
  (∀ (s : State) (w : Who) (v : Nat), mayWrite w .s = true →
    (∃ t, exec (.vfen 0 v w) s = .next t ∧ (∀ i < 64, (t.regN 0x10).testBit i = (v.testBit i && s.quotaValid i)) ∧
      ∀ i < 64, (s.regN 0x10).testBit i = true → (t.regN 0x10).testBit i = false → ∀ d < 4, ∀ q < 64, s.lqVf d q = i → t.lqEn d q = false) ∧
    (∃ t, exec (.vfen 1 v w) s = .next t ∧ (t.regN 0x18).testBit 0 = (v.testBit 0 && s.quotaValid 64) ∧
      ((s.regN 0x18).testBit 0 = true → (t.regN 0x18).testBit 0 = false → ∀ d < 4, ∀ q < 64, s.lqVf d q = 64 → t.lqEn d q = false))) ∧
  (∀ (s : State) (on : Bool), ∃ t, exec (.srIovVfEnable on) s = .next t ∧ t = { s with vfEnable := on } ∧ (on = false → ∀ f, f ≠ 0 → t.fnEnabled f = false)) ∧
  -- mailbox, resets, start-up
  (∀ (s : State), ∃ t, exec .status s = .next t ∧ t.regN 0x9008 = 1 ∧ (∀ x, x ≠ 0x9008 → x < 0x8040 ∨ 0x8080 ≤ x → t.reg x = s.reg x) ∧ t.mem = s.mem) ∧
  (∀ (s : State),
    let img := s.memRead (s.regN 0x8008) (min (s.regN 0x8010) (1024 + 64 * 2 ^ 20))
    (s.minimal = false → s.regN 0x10 ≠ 0 ∨ s.regN 0x18 ≠ 0 → ∃ t, exec .recover s = .next t ∧ t.regN 0x9008 = 0x82 ∧ t.flashB = s.flashB ∧ t.steps = s.steps) ∧
    (s.minimal = true ∨ (s.regN 0x10 = 0 ∧ s.regN 0x18 = 0) → ∃ t, exec .recover s = .next t ∧
      match imageError s.svnMin img with
      | none => t.regN 0x9008 = 1 ∧ t.flashB = img ∧ t.flashA = s.flashA ∧ ResetTo t
      | some _ => t.regN 0x9008 = 0x81 ∧ t.flashB = s.flashB ∧ t.steps = s.steps)) ∧
  (∀ (s : State), ∀ i ∈ [Instr.reset, .conventionalReset, .powerGood], ∃ t, exec i s = .next t ∧ ResetTo t ∧ t.flashA = s.flashA ∧ t.flashB = s.flashB ∧
    t.fusedSvn = s.fusedSvn ∧ t.tick = if i = .powerGood then 0 else s.tick) ∧
  (∀ (s : State),
    (s.regBits 0x8 3 0 = 1 → s.minimal = false → StageBEnds s (s.outside .stageB)) ∧ (s.regBits 0x8 3 0 ≠ 1 → s.outside .stageB = s) ∧
    (∀ st, s.regBits 0x8 3 0 = st → st = 2 ∨ st = 3 ∨ st = 4 → s.fusedSvn ≤ (s.outside .fuse).fusedSvn ∧
      numOf (((if s.regBits 0x8 24 24 = 1 then s.flashB else s.flashA).drop 8).take 4) ≤ (s.outside .fuse).fusedSvn ∧
      (s.outside .fuse).svnMin = max s.svnMin (s.outside .fuse).fusedSvn)) ∧
  (∀ (s : State) (d : Nat) (passed : Bool),
    let st := s.regBits 0x8 3 0
    (st = 2 ∨ st = 3 → d = s.tested → d < 4 → ∃ t, exec (.dieOnline d passed) s = .next t ∧ t.tested = d + 1 ∧
      t.regBits 0x8 3 0 = (if d = 3 then 4 else 3) ∧ (passed = true → t.regBits 0x8 (4 + d) (4 + d) = 1) ∧
      (passed = false → s.regBits 0x8 23 16 = 0 → t.regBits 0x8 23 16 = 0x28 + d)) ∧
    ((st ≠ 2 ∧ st ≠ 3) ∨ d ≠ s.tested ∨ 4 ≤ d → exec (.dieOnline d passed) s = .next s)) ∧
  (∀ (s : State) (v : Nat),
    ((s.regBits 0x8 3 0 = 1 ∨ s.regBits 0x8 3 0 = 2) → s.regBits 0x8 7 4 = 0 → exec (.tickadj v) s = .next { s with tick := (s.tick + v) % 2 ^ 64 }) ∧
    ((s.regBits 0x8 3 0 ≠ 1 ∧ s.regBits 0x8 3 0 ≠ 2) ∨ s.regBits 0x8 7 4 ≠ 0 → exec (.tickadj v) s = .next s)) ∧
  (∀ (s : State),
    ((s.regN 0xA008).testBit 0 = true → s.regN 0xA000 ≤ s.tick → s.stopped = false →
      exec .stop s = .next { s with stopped := true, stopTick := some s.tick }) ∧
    ((s.regN 0xA008).testBit 0 = false ∨ s.tick < s.regN 0xA000 ∨ s.stopped = true → exec .stop s = .next s)) ∧
  -- contexts
  (∀ (s : State) (d h : Nat), h < 65536 → d < 4 → (h / 16384 ≠ d → ∀ i ∈ [Instr.create d h, .free d h, .swapout d h, .swapin d h, .retrysave d h],
    ∃ t, exec i s = .next t ∧ ctxStatus t d = 4 ∧ t.mem = s.mem)) ∧
  (∀ (s : State) (d h : Nat), h < 65536 → h / 16384 = d → s.ctxd h 775 768 = 0 → traceOff s d →
    let live := ((s.liveContexts d).filter fun c => s.ctxVf c == s.ctxVf h).length
    let bound := s.limits (s.ctxVf h) / 2 ^ (76 + 15 * d) % 2 ^ 15
    let area := s.regN (dieReg d 0x1080)
    (s.ctxState h ≠ 0 → ∃ t, exec (.create d h) s = .next t ∧ ctxStatus t d = 4 ∧ t.mem = s.mem) ∧
    (s.ctxState h = 0 → bound ≤ live → ∃ t, exec (.create d h) s = .next t ∧ ctxStatus t d = 3 ∧ t.mem = s.mem) ∧
    (s.ctxState h = 0 → live < bound → ∃ t, exec (.create d h) s = .next t ∧ ctxStatus t d = 1 ∧ t.ctxState h = (if area = 0 then 1 else 4) ∧
      t.ctxReason h = 0 ∧ t.ctxd h 15 0 = h) ∧
    (s.ctxState h ≠ 2 → ∃ t, exec (.free d h) s = .next t ∧ ctxStatus t d = 1 ∧ t.ctxState h = 0 ∧ t.ctxd h 15 0 = h ∧ h ∉ t.waiters) ∧
    (s.ctxState h = 2 → s.frozenTile h = none → ∃ t, exec (.free d h) s = .next t ∧ ctxStatus t d = 2 ∧ t.mem = s.mem) ∧
    (∀ n, s.ctxState h = 2 → s.frozenTile h = some n → ∃ t, exec (.free d h) s = .next t ∧ ctxStatus t d = 1 ∧ t.ctxState h = 0 ∧
      (t.place n).step = none ∧ ∀ k, (t.place n).spByte k = 0) ∧
    (s.ctxState h = 1 ∨ s.ctxState h = 3 → inT2 area = true ∨ inT3 area = true → s.moveAsks h false ≠ [] →
      ∃ t, exec (.swapout d h) s = .next t ∧ ctxStatus t d = 2 ∧ t.mem = s.mem) ∧
    (s.ctxState h = 1 ∨ s.ctxState h = 3 → inT2 area = true ∨ inT3 area = true → s.moveAsks h false = [] →
      ∃ t, exec (.swapout d h) s = .next t ∧ ctxStatus t d = 1 ∧ t.ctxState h = 4) ∧
    (s.ctxState h ≠ 1 ∧ s.ctxState h ≠ 3 → ∃ t, exec (.swapout d h) s = .next t ∧ ctxStatus t d = 4 ∧ t.mem = s.mem) ∧
    (s.ctxState h ≠ 4 → ∃ t, exec (.swapin d h) s = .next t ∧ ctxStatus t d = 4 ∧ t.mem = s.mem) ∧
    (s.ctxState h = 4 → area = 0 → ∃ t, exec (.swapin d h) s = .next t ∧ ctxStatus t d = 1 ∧
      t.ctxState h = (if s.ctxReason h = 0 then 1 else 3) ∧ t.ctxReason h = s.ctxReason h) ∧
    (s.frozenTile h = none → ∃ t, exec (.retrysave d h) s = .next t ∧ ctxStatus t d = 4 ∧ t.mem = s.mem) ∧
    (∀ n s1, s.frozenTile h = some n → (s.place n).switch = none → (s.place n).frozen = true →
      s.saveAsks n false = [] → s.saveImage n (s.place n).gpos (eretPc (s.place n).epc) none = some s1 → s1.ctxd h 775 768 = 0 → traceOff s1 d → (s1.place n).cnt = [] →
      ∃ t, exec (.retrysave d h) s = .next t ∧ ctxStatus t d = 1 ∧ t.ctxState h = 1 ∧ t.ctxd h 53 53 = 0 ∧ (t.place n).step = none)) ∧
  -- cores, dies, links
  (∀ (s : State) (p pc : Nat), isTile p = true ∨ isSteward p = true → pc < 2 ^ 64 →
    ((s.place p).hold = .halted → ∃ t, exec (.restart p pc) s = .next t ∧ (t.place p).hold = .running ∧
      (t.place p).core.pc = BitVec.ofNat 64 (pc / 8 * 8) ∧ t.mem = s.mem ∧ ∀ m, m ≠ p → t.place m = s.place m) ∧
    ((s.place p).hold ≠ .halted → ∃ t, exec (.restart p pc) s = .next t ∧ ∀ m, t.place m = s.place m) ∧
    ((s.place p).hold = .idle → ∃ t, exec (.coreWake p) s = .next t ∧ t.place p = { s.place p with hold := .running } ∧ ∀ m, m ≠ p → t.place m = s.place m) ∧
    ((s.place p).hold ≠ .idle → ∃ t, exec (.coreWake p) s = .next t ∧ ∀ m, t.place m = s.place m)) ∧
  (∀ (s : State) (d : Nat) (retain : Bool), d < 4 →
    (s.gated = [] → fget? s.gating d = none → s.mayGate d = true → DieAtRest s d → ∃ t, exec (.dieGating (2 ^ d) retain) s = .next t ∧ d ∈ t.gated ∧
      ∀ n, n < 512 → dieOf n = d → (t.place n).l1 = [] ∧ (∀ e ∈ (t.place n).keys, e.2.zeroing ≠ none) ∧ (t.place n).kernel = none ∧
        (retain = false → (t.place n).tags = [] ∧ (t.place n).bst = []) ∧
        (retain = true → (t.place n).tags = (s.place n).tags ∧ (t.place n).bst = (s.place n).bst)) ∧
    (∀ n, s.gated = [] → fget? s.gating d = none → s.mayGate d = true → n < 512 → dieOf n = d → (s.place n).step ≠ none →
      ∃ t, exec (.dieGating (2 ^ d) retain) s = .next t ∧ t.gated = [] ∧ fget? t.gating d = some retain ∧ t.places = s.places ∧
        ∀ r < 4, t.regBits (dieReg r 0x1090) d d = 1) ∧
    (s.gated = [] → fget? s.gating d = none → s.mayGate d = false →
      ∃ t, exec (.dieGating (2 ^ d) retain) s = .next t ∧ t.gated = [] ∧ t.places = s.places ∧
        ∀ r < 4, t.regBits (dieReg r 0x1090) d d = 0) ∧
    (s.gated = [d] → ∃ t, exec (.dieGating 0 retain) s = .next t ∧ t.gated = [])) ∧
  (∀ (s : State) (k : Nat), (∃ t, exec (.thermalThrottle k) s = .next t ∧ k ∈ t.throttled ∧ t = { s with throttled := t.throttled }) ∧
    exec (.linkRetry k) s = .next s) ∧
  (∀ (s : State) (k : Nat),
    let ctl := iodReg 0 (0x6000 + 0x100 * (k - 516))
    let b := s.regBits ctl 15 4
    (isSteward k = true → (s.place k).cc.priv = 1 → (s.place k).hold ≠ .halted → 1000 * b < (s.place k).wdogGt →
      ∃ t, exec (.pluginBudgetExpiry k) s = .next t ∧ (t.place k).cc.priv = 2 ∧ (t.place k).wdogGt = 0 ∧ (t.place k).epc = (s.place k).cc.pc ∧
        (t.place k).cc.pc = BitVec.ofNat 64 (s.regN ctl / 2 ^ 16 * 256 + 8 * cWatchdog) ∧ CauseIs (t.place k).cause cWatchdog b ∧ t.regBits ctl 3 2 = 1) ∧
    ((s.place k).cc.priv ≠ 1 ∨ (s.place k).wdogGt ≤ 1000 * b → exec (.pluginBudgetExpiry k) s = .next s)) ∧
  -- queries, recording
  (∀ (s : State) (d : Nat), d < 4 →
    let tag := s.regN (dieReg d 0x1110)
    let asid := if tag.testBit 16 then none else some (tag % 65536)
    let va := s.regN (dieReg d 0x1108)
    let answers (i : Instr) (w : Option Nat) : Prop := ∃ t, exec i s = .next t ∧ match w with
      | some x => t.regN (dieReg d 0x1118) = 1 ∧ ∀ j < 4, t.reg (dieReg d (0x1140 + 8 * j)) = BitVec.ofNat 64 (x / 2 ^ (64 * j))
      | none => t.regN (dieReg d 0x1118) = 5
    answers (.rctQuery d) ((fget? s.regions (regionCode asid va)).map rctBits) ∧ answers (.pgdQuery d) ((s.gran asid va).map pgdBits) ∧
      answers (.rhtQuery d) ((fget? s.regions (regionCode asid va)).map rhtBits)) ∧
  (∀ (s : State) (f k : Nat),
    let c := s.regBits (recReg f k 0) 15 0
    (k ∈ s.recording c → s.ctxVf c = f → s.recMode f k = 0 → 2 ^ s.recN f k < s.recUsed f k + 96 → ∃ t, exec (.horizon f k) s = .next t ∧
      t.regN (recReg f k 0x28) = s.tick % 2 ^ 64 ∧ t.regBits (recReg f k 0) 16 16 = 0 ∧ fget false t.recSlots (4 * f + k) = false) ∧
    (s.recMode f k ≠ 0 ∨ s.recUsed f k + 96 ≤ 2 ^ s.recN f k → exec (.horizon f k) s = .next s)) ∧
  (∀ (s : State) (f k c n h : Nat) (bs : List Byte), Replays s f k c n h bs →
    (s.instrs c n < h / 2 ^ 128 % 2 ^ 64 → exec (.replayInput f k) s = .next s) ∧
    (h / 2 ^ 128 % 2 ^ 64 ≤ s.instrs c n → h / 2 ^ 48 % 2 ^ 8 = 4 → (s.place n).maps = [] → (s.place n).tb = none → ∃ t, exec (.replayInput f k) s = .next t ∧
      (∀ x, (t.place n).spByte x = overwritten (s.place n) (h / 2 ^ 72 % 2 ^ 56) bs x) ∧
      t.regN (recReg f k 0x20) = (s.regN (recReg f k 0x20) + (32 + (bs.length + 31) / 32 * 32)) % 2 ^ 64)) ∧
  -- function-level reset
  (∀ (s : State) (f : Nat), ∃ t, exec (.functionLevelReset f) s = .next t ∧ (∀ st ∈ t.steps, st.vf ≠ f) ∧
    (∀ d < 4, ∀ q < 64, s.lqVf d q = f → t.lqEn d q = false) ∧ (∀ h ∈ t.held, ∀ e ∈ h.prov, e.2.vf ≠ f) ∧
    (∀ n < 512, (s.place n).owner = f → (t.place n).step = none ∧ ∀ k, (t.place n).spByte k = 0) ∧
    ∀ d < 4, ∀ c ∈ s.liveContexts d, s.ctxVf c = f → t.ctxState c = 0)

/-- R184, R186, R198, R231, R280, R305, R325: the decoder reads these words as the instructions they stand for, and refuses a
word of CLS 0b111, an unlisted OP and a non-zero must-be-zero field. -/
def Obligations.DecodeSpecWords : Prop :=
  (∀ x ∈ specWords, decodeTableWord 64 x.1 = some x.2) ∧
  (∀ x ∈ [7 * 2 ^ 61, 0x1FE0000000000000, 1, 0x0020000000000001], decodeTableWord 64 x = none)
/-- R184 to R187, R231, R280: the encoding drops nothing: the word of a legal instruction has 64 bits and decodes to that
instruction, with every operand at every value that the encoding admits. -/
def Obligations.DecodeEncodeRoundTrip : Prop :=
  ∀ (i : Instr) (w : Nat), instrWf i = true → legal i = true → encodeWord i = some w → w < 2 ^ 64 ∧ decodeWord w = .ok i
/-- R138, R178, R151, R182, R198, R366, R406, R408, R418: a core's turn executes the word at its pc, or raises ILLEGAL or the
cause of its fetch; an engine's turn serves the command at the head of its queue; an event happens; before stage B and in minimal
safe function few events do; a stopped package does nothing more but what its link and power do; then the schedulers look at the parked contexts.
It rests also on the model's choices of log 1, 6, 50 and 63. -/
def Obligations.StepRunsDecodedWord : Prop :=
  (∀ (s u u1 : State) (p w : Nat), TurnOf s u (.core p) p → MayIssue u p → fetchWord.run u = .ok w u1 → NoBreakpoint u1 u1.cur → u1.here.victim = false →
    (∀ i, decodeWord w = .ok i → wordClass w = 0 → i ≠ .eretResume ∨ isTile u1.cur = false → step s = settled (exec i u1)) ∧
    (∀ i, decodeWord w = .ok i → 1 ≤ wordClass w → step s = settled (exec (.dispatch w) u1)) ∧
    (decodeWord w = .ok .eretResume → wordClass w = 0 → isTile u1.cur = true → step s = settled (exec (eretAct u1.here.epc.toNat) u1)) ∧
    (∀ e, decodeWord w = .error e → step s = settled (.next (u1.raise cIllegal 0)))) ∧
  (∀ (s u u1 : State) (p c d : Nat), TurnOf s u (.core p) p → MayIssue u p → fetchWord.run u = .error (.trap c d) u1 →
    step s = settled (.next ({ u with mtus := u1.mtus }.raise c d))) ∧
  (∀ (s u : State) (n q : Nat) (i : Instr), TurnOf s u (.engine n q) n → n < 512 → 1 ≤ q → q < 6 → (u.engq n q).cur = none →
    (u.ring n q).filled ≠ 0 → u.owes n = false → u.recFull n = false → engineQueue (u.headWord n q) = some q → decodeWord (u.headWord n q) = .ok i →
    step s = settled (exec i u)) ∧
  (∀ (s u u1 : State) (n : Nat) (i : Instr), TurnOf s u (.engine n 0) n → n < 512 → (u.place n).veIssued = false → (u.engq n 0).cur = none →
    (u.ring n 0).filled ≠ 0 → u.owes n = false → u.recFull n = false → engineQueue (u.headWord n 0) = some 0 → decodeWord (u.headWord n 0) = .ok i →
    exec i u = .next u1 → (u1.place n).veRuns = true → (u1.place n).veIssued = true ∨ (u1.place n).landing = [] → step s = settled (.next u1)) ∧
  (∀ (s u : State) (i : Instr), TurnOf s u (.event i) s.cur → step s = settled (exec i u)) ∧
  (∀ (s : State) (a : Agenda) (r : List Agenda), s.stopped = false → (s.regN 0xA008).testBit 0 = false → s.early = true → s.agenda = a :: r →
    ((∃ p, a = .core p) ∨ (∃ n q, a = .engine n q) ∨ (∃ d q n, a = .fetchAhead d q n) ∨ (∃ i, a = .event i ∧ actsEarly i = false) →
      step s = settled (.next { s with agenda := r })) ∧
    ∀ i, a = .event i → actsEarly i = true → step s = settled (exec i { s with agenda := r })) ∧
  (∀ (s : State) (a : Agenda) (r : List Agenda), s.stopped = true → s.agenda = a :: r →
    ((∃ p, a = .core p) ∨ (∃ n q, a = .engine n q) → step s = .next { s with agenda := r }) ∧
    (∀ i, a = .event i → step s = if actsStopped i then exec i { s with agenda := r } else .next { s with agenda := r }) ∧
    (∀ n, a = .advance n → step s = .next { s with agenda := r, tick := (s.tick + n) % 2 ^ 64 }))
/-- R192, R194, R404, R409: after reset every core's registers read zero but `sys.regbnd`, 64, and `sys.srseed`, 1; tick, queues, semaphores,
ring state, memory and scratchpad are empty; (log 3) registers that the spec gives no reset value read zero.
It rests also on the model's choices of log 3 and 4. -/
def Obligations.ResetState : Prop :=
  let s := State.reset
  (∀ p, let t := s.place p
    t.regbnd = 64 ∧ t.srseed = 1 ∧ t.ctx = 0 ∧ t.asid = 0 ∧ t.vf = 0 ∧ t.lead = 0 ∧ t.cause = 0 ∧ t.epc = 0 ∧ t.tvec = 0 ∧ t.exc = 0 ∧
    (∀ k, fget 0 t.bmask k = 0) ∧ (∀ k, fget 0 t.phase k = 0) ∧ (∀ r, t.cc.getG r = 0 ∧ t.sc.getG r = 0 ∧ t.cc.getF r = 0 ∧ t.sc.getF r = 0) ∧
    (∀ n, t.getSem n = 0) ∧ (∀ q, (s.ring p q).v = false ∧ (s.ring p q).filled = 0) ∧ (∀ k, t.spByte k = 0) ∧ t.frozen = false) ∧
  s.tick = 0 ∧ s.steps = [] ∧ s.held = [] ∧ (∀ a, s.memByte a = 0) ∧ memWf s.mem = true ∧
  (s.place 516).cc.priv = 3 ∧ LegalModes s
/-- No instruction stops the machine: each answers a next state in every state, and a step ends in a fault only where the agenda
names an agent that the package does not have (log 1). -/
def Obligations.EveryInstructionAnswers : Prop :=
  (∀ (i : Instr) (s : State), ∃ t, exec i s = .next t) ∧
  (∀ (s : State), (∃ t, step s = .next t) ∨ ∃ n, step s = .fault (.noSuchAgent n))
/-- R194, R357, R366, R404: every step keeps the privileges legal.
It rests also on the model's choices of log 1. -/
def Obligations.StepsKeepLegalModes : Prop := ∀ (s t : State), LegalModes s → step s = .next t → LegalModes t
/-- R106: the commands of a residency ring that their fields or their page refuse are answered with their codes, and those that
move a granule open its window.
It rests also on the model's choices of log 1, 59 and 76. -/
def Obligations.ResidencyCommandsBeginOrAreRefused : Prop :=
  (∀ (i : Instr) (s : State) (die pa : Nat) (c : RseCmd), RseRuns c.op die i → HeadRequest s (ringGroup die 2) 32 pa c.w → c.bad = true →
    ∃ t, exec i s = .next t ∧ RequestDone s t (ringGroup die 2) pa 4 ∧ t.pgd = s.pgd) ∧
  (∀ (i : Instr) (s : State) (die pa : Nat) (c : RseCmd), RseRuns c.op die i → RseHead s die pa c.op c → (s.rse die).window = none → s.granOf c.gran = none →
    ∃ t, exec i s = .next t ∧ RequestDone s t (ringGroup die 2) pa 5 ∧ t.pgd = s.pgd) ∧
  (∀ (i : Instr) (s : State) (die pa : Nat) (c : RseCmd) (p : Pgd) (up : Bool), RseRuns c.op die i → RseHead s die pa (if up then 0 else 1) c →
    MayMove s die → (s.rse die).window = none → s.granOf c.gran = some p → s.rseHa die (s.granVf c.gran) = true → s.movable c.tag c.va = true → p.st = 0 →
    c.tier = (if up then 1 else 2) → p.tier = (if up then 2 else 1) → (up = false → p.pin = false) → FrameFits s c c.tier → s.granBusy c.gran = false →
    Uncached s c.gran → WindowOpens i s die ⟨c.gran, c.frame, c.tier, none, false, true⟩ p) ∧
  (∀ (i : Instr) (s : State) (die pa : Nat) (c : RseCmd) (p : Pgd), RseRuns c.op die i → RseHead s die pa c.op c → c.op ≠ 2 → c.op ≠ 3 → (s.rse die).window = none →
    s.granOf c.gran = some p → p.st ≠ 1 → s.rseHa die (s.granVf c.gran) = false →
    ∃ t, exec i s = .next t ∧ RequestDone s t (ringGroup die 2) pa 4 ∧ t.pgd = s.pgd) ∧
  (∀ (s : State) (die pa : Nat) (c : RseCmd) (p : Pgd), RseHead s die pa 4 c → (s.rse die).window = none → s.granOf c.gran = some p →
    s.rseHa die (s.granVf c.gran) = true → s.movable c.tag c.va = true → p.st = 3 →
    (c.frame = 0 ∨ FrameFits s c 1 → p.lv = false ∨ p.dirty = true →
      ∃ t, exec (.refetch die) s = .next t ∧ RequestDone s t (ringGroup die 2) pa 7 ∧ t.pgd = s.pgd) ∧
    (MayMove s die → FrameFits s c 1 → p.lv = true → p.dirty = false → s.granBusy c.gran = false → Uncached s c.gran →
      WindowOpens (.refetch die) s die ⟨c.gran, c.frame, 1, p.owner, true, true⟩ p))
end

