-- ==== Sys2Proof/Laws/Exec.lean ====
section
/-! SUPPORT. `exec`, arm by arm, so that no proof unfolds it. -/
namespace Sys2Proof.Machine

@[simp] theorem exec_nop (s : State) : exec (.nop) s = execNop s := rfl
@[simp] theorem exec_add d a b (s : State) : exec (.add d a b) s = execAdd d a b s := rfl
@[simp] theorem exec_sub d a b (s : State) : exec (.sub d a b) s = execSub d a b s := rfl
@[simp] theorem exec_and d a b (s : State) : exec (.and d a b) s = execAnd d a b s := rfl
@[simp] theorem exec_or d a b (s : State) : exec (.or d a b) s = execOr d a b s := rfl
@[simp] theorem exec_xor d a b (s : State) : exec (.xor d a b) s = execXor d a b s := rfl
@[simp] theorem exec_andn d a b (s : State) : exec (.andn d a b) s = execAndn d a b s := rfl
@[simp] theorem exec_sll d a b (s : State) : exec (.sll d a b) s = execSll d a b s := rfl
@[simp] theorem exec_srl d a b (s : State) : exec (.srl d a b) s = execSrl d a b s := rfl
@[simp] theorem exec_sra d a b (s : State) : exec (.sra d a b) s = execSra d a b s := rfl
@[simp] theorem exec_mul d a b (s : State) : exec (.mul d a b) s = execMul d a b s := rfl
@[simp] theorem exec_mulh d a b (s : State) : exec (.mulh d a b) s = execMulh d a b s := rfl
@[simp] theorem exec_mulhu d a b (s : State) : exec (.mulhu d a b) s = execMulhu d a b s := rfl
@[simp] theorem exec_div d a b (s : State) : exec (.div d a b) s = execDiv d a b s := rfl
@[simp] theorem exec_divu d a b (s : State) : exec (.divu d a b) s = execDivu d a b s := rfl
@[simp] theorem exec_rem d a b (s : State) : exec (.rem d a b) s = execRem d a b s := rfl
@[simp] theorem exec_remu d a b (s : State) : exec (.remu d a b) s = execRemu d a b s := rfl
@[simp] theorem exec_min d a b (s : State) : exec (.min d a b) s = execMin d a b s := rfl
@[simp] theorem exec_max d a b (s : State) : exec (.max d a b) s = execMax d a b s := rfl
@[simp] theorem exec_minu d a b (s : State) : exec (.minu d a b) s = execMinu d a b s := rfl
@[simp] theorem exec_maxu d a b (s : State) : exec (.maxu d a b) s = execMaxu d a b s := rfl
@[simp] theorem exec_clz d a (s : State) : exec (.clz d a) s = execClz d a s := rfl
@[simp] theorem exec_ctz d a (s : State) : exec (.ctz d a) s = execCtz d a s := rfl
@[simp] theorem exec_popc d a (s : State) : exec (.popc d a) s = execPopc d a s := rfl
@[simp] theorem exec_bswap d a (s : State) : exec (.bswap d a) s = execBswap d a s := rfl
@[simp] theorem exec_seq d a b (s : State) : exec (.seq d a b) s = execSeq d a b s := rfl
@[simp] theorem exec_slt d a b (s : State) : exec (.slt d a b) s = execSlt d a b s := rfl
@[simp] theorem exec_sltu d a b (s : State) : exec (.sltu d a b) s = execSltu d a b s := rfl
@[simp] theorem exec_sel d a b c (s : State) : exec (.sel d a b c) s = execSel d a b c s := rfl
@[simp] theorem exec_bfx d a b (s : State) : exec (.bfx d a b) s = execBfx d a b s := rfl
@[simp] theorem exec_bfxu d a b (s : State) : exec (.bfxu d a b) s = execBfxu d a b s := rfl
@[simp] theorem exec_bfi d a b c (s : State) : exec (.bfi d a b c) s = execBfi d a b c s := rfl
@[simp] theorem exec_addi d a imm (s : State) : exec (.addi d a imm) s = execAddi d a imm s := rfl
@[simp] theorem exec_andi d a imm (s : State) : exec (.andi d a imm) s = execAndi d a imm s := rfl
@[simp] theorem exec_ori d a imm (s : State) : exec (.ori d a imm) s = execOri d a imm s := rfl
@[simp] theorem exec_xori d a imm (s : State) : exec (.xori d a imm) s = execXori d a imm s := rfl
@[simp] theorem exec_slli d a imm (s : State) : exec (.slli d a imm) s = execSlli d a imm s := rfl
@[simp] theorem exec_srli d a imm (s : State) : exec (.srli d a imm) s = execSrli d a imm s := rfl
@[simp] theorem exec_srai d a imm (s : State) : exec (.srai d a imm) s = execSrai d a imm s := rfl
@[simp] theorem exec_slti d a imm (s : State) : exec (.slti d a imm) s = execSlti d a imm s := rfl
@[simp] theorem exec_sltui d a imm (s : State) : exec (.sltui d a imm) s = execSltui d a imm s := rfl
@[simp] theorem exec_seqi d a imm (s : State) : exec (.seqi d a imm) s = execSeqi d a imm s := rfl
@[simp] theorem exec_movi d imm (s : State) : exec (.movi d imm) s = execMovi d imm s := rfl
@[simp] theorem exec_movhi d a imm (s : State) : exec (.movhi d a imm) s = execMovhi d a imm s := rfl
@[simp] theorem exec_lea d a imm sh (s : State) : exec (.lea d a imm sh) s = execLea d a imm sh s := rfl
@[simp] theorem exec_addpc d imm (s : State) : exec (.addpc d imm) s = execAddpc d imm s := rfl
@[simp] theorem exec_fadd d a b fn (s : State) : exec (.fadd d a b fn) s = execFadd d a b fn s := rfl
@[simp] theorem exec_fsub d a b fn (s : State) : exec (.fsub d a b fn) s = execFsub d a b fn s := rfl
@[simp] theorem exec_fmul d a b fn (s : State) : exec (.fmul d a b fn) s = execFmul d a b fn s := rfl
@[simp] theorem exec_fdiv d a b fn (s : State) : exec (.fdiv d a b fn) s = execFdiv d a b fn s := rfl
@[simp] theorem exec_fsqrt d a fn (s : State) : exec (.fsqrt d a fn) s = execFsqrt d a fn s := rfl
@[simp] theorem exec_ffma d a b c fn (s : State) : exec (.ffma d a b c fn) s = execFfma d a b c fn s := rfl
@[simp] theorem exec_fmin d a b fn (s : State) : exec (.fmin d a b fn) s = execFmin d a b fn s := rfl
@[simp] theorem exec_fmax d a b fn (s : State) : exec (.fmax d a b fn) s = execFmax d a b fn s := rfl
@[simp] theorem exec_fcmp d a b fn (s : State) : exec (.fcmp d a b fn) s = execFcmp d a b fn s := rfl
@[simp] theorem exec_fclass d a fn (s : State) : exec (.fclass d a fn) s = execFclass d a fn s := rfl
@[simp] theorem exec_fcvt d a code fn (s : State) : exec (.fcvt d a code fn) s = execFcvt d a code fn s := rfl
@[simp] theorem exec_fmvg d a fn (s : State) : exec (.fmvg d a fn) s = execFmvg d a fn s := rfl
@[simp] theorem exec_fmvf d a fn (s : State) : exec (.fmvf d a fn) s = execFmvf d a fn s := rfl
@[simp] theorem exec_fsgn d a b fn (s : State) : exec (.fsgn d a b fn) s = execFsgn d a b fn s := rfl
@[simp] theorem exec_frnd d a fn (s : State) : exec (.frnd d a fn) s = execFrnd d a fn s := rfl
@[simp] theorem exec_b a b cond off (s : State) : exec (.b a b cond off) s = execB a b cond off s := rfl
@[simp] theorem exec_bz a cond off (s : State) : exec (.bz a cond off) s = execBz a cond off s := rfl
@[simp] theorem exec_j off (s : State) : exec (.j off) s = execJ off s := rfl
@[simp] theorem exec_jal d off (s : State) : exec (.jal d off) s = execJal d off s := rfl
@[simp] theorem exec_jalr d a imm (s : State) : exec (.jalr d a imm) s = execJalr d a imm s := rfl
@[simp] theorem exec_ret a (s : State) : exec (.ret a) s = execRet a s := rfl
@[simp] theorem exec_jtab a imm n (s : State) : exec (.jtab a imm n) s = execJtab a imm n s := rfl
@[simp] theorem exec_ecatch d off (s : State) : exec (.ecatch d off) s = execEcatch d off s := rfl
@[simp] theorem exec_edrop (s : State) : exec (.edrop) s = execEdrop s := rfl
@[simp] theorem exec_throw a (s : State) : exec (.throw a) s = execThrow a s := rfl
@[simp] theorem exec_ld d m (s : State) : exec (.ld d m) s = execLd d m s := rfl
@[simp] theorem exec_st d m (s : State) : exec (.st d m) s = execSt d m s := rfl
@[simp] theorem exec_stn d m (s : State) : exec (.stn d m) s = execStn d m s := rfl
@[simp] theorem exec_ldp d m (s : State) : exec (.ldp d m) s = execLdp d m s := rfl
@[simp] theorem exec_stp d m (s : State) : exec (.stp d m) s = execStp d m s := rfl
@[simp] theorem exec_pref m (s : State) : exec (.pref m) s = execPref m s := rfl
@[simp] theorem exec_clean m (s : State) : exec (.clean m) s = execClean m s := rfl
@[simp] theorem exec_czero m (s : State) : exec (.czero m) s = execCzero m s := rfl
@[simp] theorem exec_cdrop m (s : State) : exec (.cdrop m) s = execCdrop m s := rfl
@[simp] theorem exec_amo d aop m (s : State) : exec (.amo d aop m) s = execAmo d aop m s := rfl
@[simp] theorem exec_acas d m (s : State) : exec (.acas d m) s = execAcas d m s := rfl
@[simp] theorem exec_fence mask scope (s : State) : exec (.fence mask scope) s = execFence mask scope s := rfl
@[simp] theorem exec_semwait a c (s : State) : exec (.semwait a c) s = execSemwait a c s := rfl
@[simp] theorem exec_semsig a c (s : State) : exec (.semsig a c) s = execSemsig a c s := rfl
@[simp] theorem exec_semset a c (s : State) : exec (.semset a c) s = execSemset a c s := rfl
@[simp] theorem exec_semrd d idx (s : State) : exec (.semrd d idx) s = execSemrd d idx s := rfl
@[simp] theorem exec_semrsig a b c scp (s : State) : exec (.semrsig a b c scp) s = execSemrsig a b c scp s := rfl
@[simp] theorem exec_rcfg a b idx (s : State) : exec (.rcfg a b idx) s = execRcfg a b idx s := rfl
@[simp] theorem exec_rclm d a c (s : State) : exec (.rclm d a c) s = execRclm d a c s := rfl
@[simp] theorem exec_rpub a c (s : State) : exec (.rpub a c) s = execRpub a c s := rfl
@[simp] theorem exec_rwait d a c (s : State) : exec (.rwait d a c) s = execRwait d a c s := rfl
@[simp] theorem exec_rrel a c (s : State) : exec (.rrel a c) s = execRrel a c s := rfl
@[simp] theorem exec_rstat d idx opt (s : State) : exec (.rstat d idx opt) s = execRstat d idx opt s := rfl
@[simp] theorem exec_tbset a b (s : State) : exec (.tbset a b) s = execTbset a b s := rfl
@[simp] theorem exec_tbwait a b (s : State) : exec (.tbwait a b) s = execTbwait a b s := rfl
@[simp] theorem exec_barj idx (s : State) : exec (.barj idx) s = execBarj idx s := rfl
@[simp] theorem exec_bara idx (s : State) : exec (.bara idx) s = execBara idx s := rfl
@[simp] theorem exec_barw idx (s : State) : exec (.barw idx) s = execBarw idx s := rfl
@[simp] theorem exec_barx idx (s : State) : exec (.barx idx) s = execBarx idx s := rfl
@[simp] theorem exec_phase k (s : State) : exec (.phase k) s = execPhase k s := rfl
@[simp] theorem exec_qseq d idx opt (s : State) : exec (.qseq d idx opt) s = execQseq d idx opt s := rfl
@[simp] theorem exec_qdrain mask (s : State) : exec (.qdrain mask) s = execQdrain mask s := rfl
@[simp] theorem exec_mcfg a idx (s : State) : exec (.mcfg a idx) s = execMcfg a idx s := rfl
@[simp] theorem exec_mcfgrd d idx opt (s : State) : exec (.mcfgrd d idx opt) s = execMcfgrd d idx opt s := rfl
@[simp] theorem exec_mhset a idx (s : State) : exec (.mhset a idx) s = execMhset a idx s := rfl
@[simp] theorem exec_tick d (s : State) : exec (.tick d) s = execTick d s := rfl
@[simp] theorem exec_sleepu a (s : State) : exec (.sleepu a) s = execSleepu a s := rfl
@[simp] theorem exec_prmget d a (s : State) : exec (.prmget d a) s = execPrmget d a s := rfl
@[simp] theorem exec_prmwait a (s : State) : exec (.prmwait a) s = execPrmwait a s := rfl
@[simp] theorem exec_movxr d a imm (s : State) : exec (.movxr d a imm) s = execMovxr d a imm s := rfl
@[simp] theorem exec_movxw d a imm (s : State) : exec (.movxw d a imm) s = execMovxw d a imm s := rfl
@[simp] theorem exec_fmovxr d a imm (s : State) : exec (.fmovxr d a imm) s = execFmovxr d a imm s := rfl
@[simp] theorem exec_fmovxw d a imm (s : State) : exec (.fmovxw d a imm) s = execFmovxw d a imm s := rfl
@[simp] theorem exec_ctxsw d a opt (s : State) : exec (.ctxsw d a opt) s = execCtxsw d a opt s := rfl
@[simp] theorem exec_yield d (s : State) : exec (.yield d) s = execYield d s := rfl
@[simp] theorem exec_node a b imm (s : State) : exec (.node a b imm) s = execNode a b imm s := rfl
@[simp] theorem exec_park opt (s : State) : exec (.park opt) s = execPark opt s := rfl
@[simp] theorem exec_wake a (s : State) : exec (.wake a) s = execWake a s := rfl
@[simp] theorem exec_ctxrd d a w (s : State) : exec (.ctxrd d a w) s = execCtxrd d a w s := rfl
@[simp] theorem exec_ctxwr a b w (s : State) : exec (.ctxwr a b w) s = execCtxwr a b w s := rfl
@[simp] theorem exec_launch d a b (s : State) : exec (.launch d a b) s = execLaunch d a b s := rfl
@[simp] theorem exec_iter d sel (s : State) : exec (.iter d sel) s = execIter d sel s := rfl
@[simp] theorem exec_bucket d sel (s : State) : exec (.bucket d sel) s = execBucket d sel s := rfl
@[simp] theorem exec_exit (s : State) : exec (.exit) s = execExit s := rfl
@[simp] theorem exec_kill (s : State) : exec (.kill) s = execKill s := rfl
@[simp] theorem exec_trap a code (s : State) : exec (.trap a code) s = execTrap a code s := rfl
@[simp] theorem exec_syscall imm (s : State) : exec (.syscall imm) s = execSyscall imm s := rfl
@[simp] theorem exec_eretResume (s : State) : exec (.eretResume) s = execEretResume s := rfl
@[simp] theorem exec_eretStep (s : State) : exec (.eretStep) s = execEretStep s := rfl
@[simp] theorem exec_eretQstep (s : State) : exec (.eretQstep) s = execEretQstep s := rfl
@[simp] theorem exec_eretParkPromise (s : State) : exec (.eretParkPromise) s = execEretParkPromise s := rfl
@[simp] theorem exec_eretParkExplicit (s : State) : exec (.eretParkExplicit) s = execEretParkExplicit s := rfl
@[simp] theorem exec_eretReady (s : State) : exec (.eretReady) s = execEretReady s := rfl
@[simp] theorem exec_eretKill (s : State) : exec (.eretKill) s = execEretKill s := rfl
@[simp] theorem exec_eretEscalate (s : State) : exec (.eretEscalate) s = execEretEscalate s := rfl
@[simp] theorem exec_sysrd d num (s : State) : exec (.sysrd d num) s = execSysrd d num s := rfl
@[simp] theorem exec_syswr a num (s : State) : exec (.syswr a num) s = execSyswr a num s := rfl
@[simp] theorem exec_halt (s : State) : exec (.halt) s = execHalt s := rfl
@[simp] theorem exec_bkpt imm (s : State) : exec (.bkpt imm) s = execBkpt imm s := rfl
@[simp] theorem exec_idle (s : State) : exec (.idle) s = execIdle s := rfl
@[simp] theorem exec_shoot d a b opt (s : State) : exec (.shoot d a b opt) s = execShoot d a b opt s := rfl
@[simp] theorem exec_replset a deg pin (s : State) : exec (.replset a deg pin) s = execReplset a deg pin s := rfl
@[simp] theorem exec_keyload d a b slot (s : State) : exec (.keyload d a b slot) s = execKeyload d a b slot s := rfl
@[simp] theorem exec_keykill a slot (s : State) : exec (.keykill a slot) s = execKeykill a slot s := rfl
@[simp] theorem exec_zerosp a b (s : State) : exec (.zerosp a b) s = execZerosp a b s := rfl
@[simp] theorem exec_mark k (s : State) : exec (.mark k) s = execMark k s := rfl
@[simp] theorem exec_causal a b k delay (s : State) : exec (.causal a b k delay) s = execCausal a b k delay s := rfl
@[simp] theorem exec_cntrd d a (s : State) : exec (.cntrd d a) s = execCntrd d a s := rfl
@[simp] theorem exec_qreset a opt (s : State) : exec (.qreset a opt) s = execQreset a opt s := rfl
@[simp] theorem exec_dispatch word (s : State) : exec (.dispatch word) s = execDispatch word s := rfl
@[simp] theorem exec_vnop h (s : State) : exec (.vnop h) s = execVnop h s := rfl
@[simp] theorem exec_vadd h x (s : State) : exec (.vadd h x) s = execVadd h x s := rfl
@[simp] theorem exec_vsub h x (s : State) : exec (.vsub h x) s = execVsub h x s := rfl
@[simp] theorem exec_vmul h x (s : State) : exec (.vmul h x) s = execVmul h x s := rfl
@[simp] theorem exec_vfma h x (s : State) : exec (.vfma h x) s = execVfma h x s := rfl
@[simp] theorem exec_vfms h x (s : State) : exec (.vfms h x) s = execVfms h x s := rfl
@[simp] theorem exec_vmin h x (s : State) : exec (.vmin h x) s = execVmin h x s := rfl
@[simp] theorem exec_vmax h x (s : State) : exec (.vmax h x) s = execVmax h x s := rfl
@[simp] theorem exec_vabs h x (s : State) : exec (.vabs h x) s = execVabs h x s := rfl
@[simp] theorem exec_vneg h x (s : State) : exec (.vneg h x) s = execVneg h x s := rfl
@[simp] theorem exec_vrcp h x (s : State) : exec (.vrcp h x) s = execVrcp h x s := rfl
@[simp] theorem exec_vrsq h x (s : State) : exec (.vrsq h x) s = execVrsq h x s := rfl
@[simp] theorem exec_vexp2 h x (s : State) : exec (.vexp2 h x) s = execVexp2 h x s := rfl
@[simp] theorem exec_vlog2 h x (s : State) : exec (.vlog2 h x) s = execVlog2 h x s := rfl
@[simp] theorem exec_vtanh h x (s : State) : exec (.vtanh h x) s = execVtanh h x s := rfl
@[simp] theorem exec_vcvt h x (s : State) : exec (.vcvt h x) s = execVcvt h x s := rfl
@[simp] theorem exec_vand h x (s : State) : exec (.vand h x) s = execVand h x s := rfl
@[simp] theorem exec_vor h x (s : State) : exec (.vor h x) s = execVor h x s := rfl
@[simp] theorem exec_vxor h x (s : State) : exec (.vxor h x) s = execVxor h x s := rfl
@[simp] theorem exec_vshl h x (s : State) : exec (.vshl h x) s = execVshl h x s := rfl
@[simp] theorem exec_vshr h x (s : State) : exec (.vshr h x) s = execVshr h x s := rfl
@[simp] theorem exec_vcmp h x (s : State) : exec (.vcmp h x) s = execVcmp h x s := rfl
@[simp] theorem exec_vsel h x (s : State) : exec (.vsel h x) s = execVsel h x s := rfl
@[simp] theorem exec_vred h x (s : State) : exec (.vred h x) s = execVred h x s := rfl
@[simp] theorem exec_vscan h x (s : State) : exec (.vscan h x) s = execVscan h x s := rfl
@[simp] theorem exec_vperm h x (s : State) : exec (.vperm h x) s = execVperm h x s := rfl
@[simp] theorem exec_vbcast h x (s : State) : exec (.vbcast h x) s = execVbcast h x s := rfl
@[simp] theorem exec_viota h x (s : State) : exec (.viota h x) s = execViota h x s := rfl
@[simp] theorem exec_vpack h x (s : State) : exec (.vpack h x) s = execVpack h x s := rfl
@[simp] theorem exec_vunpk h x (s : State) : exec (.vunpk h x) s = execVunpk h x s := rfl
@[simp] theorem exec_vqnt h x (s : State) : exec (.vqnt h x) s = execVqnt h x s := rfl
@[simp] theorem exec_vdqnt h x (s : State) : exec (.vdqnt h x) s = execVdqnt h x s := rfl
@[simp] theorem exec_vld h x (s : State) : exec (.vld h x) s = execVld h x s := rfl
@[simp] theorem exec_vst h x (s : State) : exec (.vst h x) s = execVst h x s := rfl
@[simp] theorem exec_vldx h x (s : State) : exec (.vldx h x) s = execVldx h x s := rfl
@[simp] theorem exec_vstx h x (s : State) : exec (.vstx h x) s = execVstx h x s := rfl
@[simp] theorem exec_vmovc h vd lane pair (s : State) : exec (.vmovc h vd lane pair) s = execVmovc h vd lane pair s := rfl
@[simp] theorem exec_vmsk h md ma mb mop (s : State) : exec (.vmsk h md ma mb mop) s = execVmsk h md ma mb mop s := rfl
@[simp] theorem exec_vtbld h sel typ vd va (s : State) : exec (.vtbld h sel typ vd va) s = execVtbld h sel typ vd va s := rfl
@[simp] theorem exec_vsmx h dlog vd va vb (s : State) : exec (.vsmx h dlog vd va vb) s = execVsmx h dlog vd va vb s := rfl
@[simp] theorem exec_veLanding tile (s : State) : exec (.veLanding tile) s = execVeLanding tile s := rfl
@[simp] theorem exec_mnop h (s : State) : exec (.mnop h) s = execMnop h s := rfl
@[simp] theorem exec_mgo h (s : State) : exec (.mgo h) s = execMgo h s := rfl
@[simp] theorem exec_mmul h nsub z (s : State) : exec (.mmul h nsub z) s = execMmul h nsub z s := rfl
@[simp] theorem exec_mgath h nsub z nrow (s : State) : exec (.mgath h nsub z nrow) s = execMgath h nsub z nrow s := rfl
@[simp] theorem exec_mlut h nsub z kb gsz (s : State) : exec (.mlut h nsub z kb gsz) s = execMlut h nsub z kb gsz s := rfl
@[simp] theorem exec_mzero h (s : State) : exec (.mzero h) s = execMzero h s := rfl
@[simp] theorem exec_mdrain h x (s : State) : exec (.mdrain h x) s = execMdrain h x s := rfl
@[simp] theorem exec_xnop h (s : State) : exec (.xnop h) s = execXnop h s := rfl
@[simp] theorem exec_xcpy h doff (s : State) : exec (.xcpy h doff) s = execXcpy h doff s := rfl
@[simp] theorem exec_xbtab h doff (s : State) : exec (.xbtab h doff) s = execXbtab h doff s := rfl
@[simp] theorem exec_xsgl h doff (s : State) : exec (.xsgl h doff) s = execXsgl h doff s := rfl
@[simp] theorem exec_xfill h doff (s : State) : exec (.xfill h doff) s = execXfill h doff s := rfl
@[simp] theorem exec_xbst h doff (s : State) : exec (.xbst h doff) s = execXbst h doff s := rfl
@[simp] theorem exec_xmap h doff (s : State) : exec (.xmap h doff) s = execXmap h doff s := rfl
@[simp] theorem exec_xmapUnmap h doff (s : State) : exec (.xmapUnmap h doff) s = execXmapUnmap h doff s := rfl
@[simp] theorem exec_xmapLazyWriteBack tile sector (s : State) : exec (.xmapLazyWriteBack tile sector) s = execXmapLazyWriteBack tile sector s := rfl
@[simp] theorem exec_gnop h (s : State) : exec (.gnop h) s = execGnop h s := rfl
@[simp] theorem exec_ggath h doff (s : State) : exec (.ggath h doff) s = execGgath h doff s := rfl
@[simp] theorem exec_gscat h doff (s : State) : exec (.gscat h doff) s = execGscat h doff s := rfl
@[simp] theorem exec_gscadd h doff (s : State) : exec (.gscadd h doff) s = execGscadd h doff s := rfl
@[simp] theorem exec_gcmpct h doff (s : State) : exec (.gcmpct h doff) s = execGcmpct h doff s := rfl
@[simp] theorem exec_glive h doff (s : State) : exec (.glive h doff) s = execGlive h doff s := rfl
@[simp] theorem exec_lnop h (s : State) : exec (.lnop h) s = execLnop h s := rfl
@[simp] theorem exec_lput h doff (s : State) : exec (.lput h doff) s = execLput h doff s := rfl
@[simp] theorem exec_lget h doff (s : State) : exec (.lget h doff) s = execLget h doff s := rfl
@[simp] theorem exec_lenq h doff (s : State) : exec (.lenq h doff) s = execLenq h doff s := rfl
@[simp] theorem exec_lsig h doff (s : State) : exec (.lsig h doff) s = execLsig h doff s := rfl
@[simp] theorem exec_lred h doff (s : State) : exec (.lred h doff) s = execLred h doff s := rfl
@[simp] theorem exec_snop h (s : State) : exec (.snop h) s = execSnop h s := rfl
@[simp] theorem exec_sattn h doff (s : State) : exec (.sattn h doff) s = execSattn h doff s := rfl
@[simp] theorem exec_skvapp h doff (s : State) : exec (.skvapp h doff) s = execSkvapp h doff s := rfl
@[simp] theorem exec_sscore h doff (s : State) : exec (.sscore h doff) s = execSscore h doff s := rfl
@[simp] theorem exec_scpy h doff (s : State) : exec (.scpy h doff) s = execScpy h doff s := rfl
@[simp] theorem exec_sprobe h doff (s : State) : exec (.sprobe h doff) s = execSprobe h doff s := rfl
@[simp] theorem exec_map mtu (s : State) : exec (.map mtu) s = execMap mtu s := rfl
@[simp] theorem exec_unmap mtu (s : State) : exec (.unmap mtu) s = execUnmap mtu s := rfl
@[simp] theorem exec_destroy mtu (s : State) : exec (.destroy mtu) s = execDestroy mtu s := rfl
@[simp] theorem exec_protect mtu (s : State) : exec (.protect mtu) s = execProtect mtu s := rfl
@[simp] theorem exec_pmcFill tile va (s : State) : exec (.pmcFill tile va) s = execPmcFill tile va s := rfl
@[simp] theorem exec_walk mtu asid va (s : State) : exec (.walk mtu asid va) s = execWalk mtu asid va s := rfl
@[simp] theorem exec_mtuFill k (s : State) : exec (.mtuFill k) s = execMtuFill k s := rfl
@[simp] theorem exec_mtuWriteBack k (s : State) : exec (.mtuWriteBack k) s = execMtuWriteBack k s := rfl
@[simp] theorem exec_performHeldWrites k (s : State) : exec (.performHeldWrites k) s = execPerformHeldWrites k s := rfl
@[simp] theorem exec_deferredFaultRecord vf (s : State) : exec (.deferredFaultRecord vf) s = execDeferredFaultRecord vf s := rfl
@[simp] theorem exec_homeRead tile k (s : State) : exec (.homeRead tile k) s = execHomeRead tile k s := rfl
@[simp] theorem exec_homeOwnership tile k (s : State) : exec (.homeOwnership tile k) s = execHomeOwnership tile k s := rfl
@[simp] theorem exec_skim die k (s : State) : exec (.skim die k) s = execSkim die k s := rfl
@[simp] theorem exec_skimAcknowledgement die k (s : State) : exec (.skimAcknowledgement die k) s = execSkimAcknowledgement die k s := rfl
@[simp] theorem exec_skimsDone k (s : State) : exec (.skimsDone k) s = execSkimsDone k s := rfl
@[simp] theorem exec_dropNotice die k (s : State) : exec (.dropNotice die k) s = execDropNotice die k s := rfl
@[simp] theorem exec_ownerWriteBack k (s : State) : exec (.ownerWriteBack k) s = execOwnerWriteBack k s := rfl
@[simp] theorem exec_ownershipGrant tile k (s : State) : exec (.ownershipGrant tile k) s = execOwnershipGrant tile k s := rfl
@[simp] theorem exec_rctSweep die (s : State) : exec (.rctSweep die) s = execRctSweep die s := rfl
@[simp] theorem exec_scrimwaysChange die (s : State) : exec (.scrimwaysChange die) s = execScrimwaysChange die s := rfl
@[simp] theorem exec_snpData pa (s : State) : exec (.snpData pa) s = execSnpData pa s := rfl
@[simp] theorem exec_snpInv pa (s : State) : exec (.snpInv pa) s = execSnpInv pa s := rfl
@[simp] theorem exec_snpCur pa (s : State) : exec (.snpCur pa) s = execSnpCur pa s := rfl
@[simp] theorem exec_memRdSnpData pa (s : State) : exec (.memRdSnpData pa) s = execMemRdSnpData pa s := rfl
@[simp] theorem exec_memRdSnpInv pa (s : State) : exec (.memRdSnpInv pa) s = execMemRdSnpInv pa s := rfl
@[simp] theorem exec_memWr pa d (s : State) : exec (.memWr pa d) s = execMemWr pa d s := rfl
@[simp] theorem exec_inboundWrite pa data (s : State) : exec (.inboundWrite pa data) s = execInboundWrite pa data s := rfl
@[simp] theorem exec_dmaDescriptor writes done (s : State) : exec (.dmaDescriptor writes done) s = execDmaDescriptor writes done s := rfl
@[simp] theorem exec_rseEvaluate ctx (s : State) : exec (.rseEvaluate ctx) s = execRseEvaluate ctx s := rfl
@[simp] theorem exec_move die (s : State) : exec (.move die) s = execMove die s := rfl
@[simp] theorem exec_deadlineMiss die (s : State) : exec (.deadlineMiss die) s = execDeadlineMiss die s := rfl
@[simp] theorem exec_poisonGranule pa (s : State) : exec (.poisonGranule pa) s = execPoisonGranule pa s := rfl
@[simp] theorem exec_refetchCleanCopy die k (s : State) : exec (.refetchCleanCopy die k) s = execRefetchCleanCopy die k s := rfl
@[simp] theorem exec_promote die (s : State) : exec (.promote die) s = execPromote die s := rfl
@[simp] theorem exec_demote die (s : State) : exec (.demote die) s = execDemote die s := rfl
@[simp] theorem exec_pin die (s : State) : exec (.pin die) s = execPin die s := rfl
@[simp] theorem exec_unpin die (s : State) : exec (.unpin die) s = execUnpin die s := rfl
@[simp] theorem exec_refetch die (s : State) : exec (.refetch die) s = execRefetch die s := rfl
@[simp] theorem exec_residencyEvent die (s : State) : exec (.residencyEvent die) s = execResidencyEvent die s := rfl
@[simp] theorem exec_lqprod f die q n (s : State) : exec (.lqprod f die q n) s = execLqprod f die q n s := rfl
@[simp] theorem exec_launchPacket die q (s : State) : exec (.launchPacket die q) s = execLaunchPacket die q s := rfl
@[simp] theorem exec_ffence die q (s : State) : exec (.ffence die q) s = execFfence die q s := rfl
@[simp] theorem exec_skip die q (s : State) : exec (.skip die q) s = execSkip die q s := rfl
@[simp] theorem exec_prologue die q (s : State) : exec (.prologue die q) s = execPrologue die q s := rfl
@[simp] theorem exec_prologueTimeout die (s : State) : exec (.prologueTimeout die) s = execPrologueTimeout die s := rfl
@[simp] theorem exec_formBatch die group cls (s : State) : exec (.formBatch die group cls) s = execFormBatch die group cls s := rfl
@[simp] theorem exec_pick die (s : State) : exec (.pick die) s = execPick die s := rfl
@[simp] theorem exec_windowRestart die (s : State) : exec (.windowRestart die) s = execWindowRestart die s := rfl
@[simp] theorem exec_stepStart step (s : State) : exec (.stepStart step) s = execStepStart step s := rfl
@[simp] theorem exec_kernelLoad tile (s : State) : exec (.kernelLoad tile) s = execKernelLoad tile s := rfl
@[simp] theorem exec_handOff die (s : State) : exec (.handOff die) s = execHandOff die s := rfl
@[simp] theorem exec_completionRecord step (s : State) : exec (.completionRecord step) s = execCompletionRecord step s := rfl
@[simp] theorem exec_timeSliceEnd die (s : State) : exec (.timeSliceEnd die) s = execTimeSliceEnd die s := rfl
@[simp] theorem exec_start die (s : State) : exec (.start die) s = execStart die s := rfl
@[simp] theorem exec_preempt die (s : State) : exec (.preempt die) s = execPreempt die s := rfl
@[simp] theorem exec_drop die (s : State) : exec (.drop die) s = execDrop die s := rfl
@[simp] theorem exec_schedulingEvent die (s : State) : exec (.schedulingEvent die) s = execSchedulingEvent die s := rfl
@[simp] theorem exec_phaseUpdate tile nb k (s : State) : exec (.phaseUpdate tile nb k) s = execPhaseUpdate tile nb k s := rfl
@[simp] theorem exec_tbwaitTimeout tile (s : State) : exec (.tbwaitTimeout tile) s = execTbwaitTimeout tile s := rfl
@[simp] theorem exec_promise tile (s : State) : exec (.promise tile) s = execPromise tile s := rfl
@[simp] theorem exec_watchdog tile (s : State) : exec (.watchdog tile) s = execWatchdog tile s := rfl
@[simp] theorem exec_trapEntry tile (s : State) : exec (.trapEntry tile) s = execTrapEntry tile s := rfl
@[simp] theorem exec_xeAbandon tile (s : State) : exec (.xeAbandon tile) s = execXeAbandon tile s := rfl
@[simp] theorem exec_peerTransferArrival m (s : State) : exec (.peerTransferArrival m) s = execPeerTransferArrival m s := rfl
@[simp] theorem exec_signalArrival m (s : State) : exec (.signalArrival m) s = execSignalArrival m s := rfl
@[simp] theorem exec_lenqArrival m (s : State) : exec (.lenqArrival m) s = execLenqArrival m s := rfl
@[simp] theorem exec_keySlotZeroing tile slot rows (s : State) : exec (.keySlotZeroing tile slot rows) s = execKeySlotZeroing tile slot rows s := rfl
@[simp] theorem exec_qcommit value who (s : State) : exec (.qcommit value who) s = execQcommit value who s := rfl
@[simp] theorem exec_vfen hi value who (s : State) : exec (.vfen hi value who) s = execVfen hi value who s := rfl
@[simp] theorem exec_status (s : State) : exec (.status) s = execStatus s := rfl
@[simp] theorem exec_recover (s : State) : exec (.recover) s = execRecover s := rfl
@[simp] theorem exec_reset (s : State) : exec (.reset) s = execReset s := rfl
@[simp] theorem exec_create die handle (s : State) : exec (.create die handle) s = execCreate die handle s := rfl
@[simp] theorem exec_free die handle (s : State) : exec (.free die handle) s = execFree die handle s := rfl
@[simp] theorem exec_swapout die handle (s : State) : exec (.swapout die handle) s = execSwapout die handle s := rfl
@[simp] theorem exec_swapin die handle (s : State) : exec (.swapin die handle) s = execSwapin die handle s := rfl
@[simp] theorem exec_retrysave die handle (s : State) : exec (.retrysave die handle) s = execRetrysave die handle s := rfl
@[simp] theorem exec_restart place pc (s : State) : exec (.restart place pc) s = execRestart place pc s := rfl
@[simp] theorem exec_coreWake place (s : State) : exec (.coreWake place) s = execCoreWake place s := rfl
@[simp] theorem exec_dieGating value retain (s : State) : exec (.dieGating value retain) s = execDieGating value retain s := rfl
@[simp] theorem exec_tickadj v (s : State) : exec (.tickadj v) s = execTickadj v s := rfl
@[simp] theorem exec_stop (s : State) : exec (.stop) s = execStop s := rfl
@[simp] theorem exec_rctQuery die (s : State) : exec (.rctQuery die) s = execRctQuery die s := rfl
@[simp] theorem exec_pgdQuery die (s : State) : exec (.pgdQuery die) s = execPgdQuery die s := rfl
@[simp] theorem exec_rhtQuery die (s : State) : exec (.rhtQuery die) s = execRhtQuery die s := rfl
@[simp] theorem exec_horizon f k (s : State) : exec (.horizon f k) s = execHorizon f k s := rfl
@[simp] theorem exec_replayInput f k (s : State) : exec (.replayInput f k) s = execReplayInput f k s := rfl
@[simp] theorem exec_causalPause tile (s : State) : exec (.causalPause tile) s = execCausalPause tile s := rfl
@[simp] theorem exec_functionLevelReset f (s : State) : exec (.functionLevelReset f) s = execFunctionLevelReset f s := rfl
@[simp] theorem exec_powerGood (s : State) : exec (.powerGood) s = execPowerGood s := rfl
@[simp] theorem exec_dieOnline die passed (s : State) : exec (.dieOnline die passed) s = execDieOnline die passed s := rfl
@[simp] theorem exec_thermalThrottle island (s : State) : exec (.thermalThrottle island) s = execThermalThrottle island s := rfl
@[simp] theorem exec_linkRetry link (s : State) : exec (.linkRetry link) s = execLinkRetry link s := rfl
@[simp] theorem exec_parityError tile (s : State) : exec (.parityError tile) s = execParityError tile s := rfl
@[simp] theorem exec_registerWrite off size value who (s : State) : exec (.registerWrite off size value who) s = execRegisterWrite off size value who s := rfl
@[simp] theorem exec_sleepuTickReached tile (s : State) : exec (.sleepuTickReached tile) s = execSleepuTickReached tile s := rfl
@[simp] theorem exec_hostAnswer k a (s : State) : exec (.hostAnswer k a) s = execHostAnswer k a s := rfl
@[simp] theorem exec_srIovVfEnable on (s : State) : exec (.srIovVfEnable on) s = execSrIovVfEnable on s := rfl
@[simp] theorem exec_conventionalReset (s : State) : exec (.conventionalReset) s = execConventionalReset s := rfl
@[simp] theorem exec_pluginBudgetExpiry core (s : State) : exec (.pluginBudgetExpiry core) s = execPluginBudgetExpiry core s := rfl
@[simp] theorem exec_deadlineLeadReached die (s : State) : exec (.deadlineLeadReached die) s = execDeadlineLeadReached die s := rfl
@[simp] theorem exec_frameZeroingEnd pa (s : State) : exec (.frameZeroingEnd pa) s = execFrameZeroingEnd pa s := rfl
@[simp] theorem exec_storeLogWriteDone tile (s : State) : exec (.storeLogWriteDone tile) s = execStoreLogWriteDone tile s := rfl

end Sys2Proof.Machine
end

