-- ==== Sys2Proof/Laws/Map.lean ====
section
/-! SUPPORT. Laws of sparse tables: what a key reads as after each update, for any table whatever, and
that updates keep the canonical form. -/
namespace Sys2Proof.Machine

-- ## Reading after an update

@[simp] theorem fget?_nil {α} (k : Nat) : fget? ([] : FMap α) k = none := rfl

theorem fget?_append {α} (a b : FMap α) (k : Nat) : fget? (a ++ b) k = (fget? a k).or (fget? b k) := by
  induction a with
  | nil => rfl
  | cons e r ih =>
    obtain ⟨j, x⟩ := e
    by_cases h : k = j <;> simp [fget?, h, ih]

theorem fget?_filter {α} (p : Nat → Bool) (m : FMap α) (k : Nat) :
    fget? (m.filter fun e => p e.1) k = if p k then fget? m k else none := by
  induction m with
  | nil => simp
  | cons e r ih =>
    obtain ⟨j, x⟩ := e
    by_cases hk : k = j
    · subst hk; by_cases hp : p k <;> simp [fget?, hp, ih]
    · by_cases hp : p j <;> simp [fget?, hp, hk, ih]

@[simp] theorem fget?_fput {α} (k : Nat) (a : α) (m : FMap α) (j : Nat) :
    fget? (fput k a m) j = if j = k then some a else fget? m j := by
  induction m with
  | nil => by_cases h : j = k <;> simp [fput, fget?, h]
  | cons e r ih =>
    obtain ⟨i, x⟩ := e
    unfold fput
    split
    · by_cases h : j = k <;> simp [fget?, h]
    · split
      · rename_i h
        subst h; by_cases hj : j = k <;> simp [fget?, hj]
      · rename_i h1 h2
        by_cases hi : j = i
        · subst hi; simp [fget?, Ne.symm h2]
        · simp [fget?, hi, ih]

@[simp] theorem fget?_fdel {α} (k : Nat) (m : FMap α) (j : Nat) :
    fget? (fdel k m) j = if j = k then none else fget? m j := by
  have h := fget?_filter (fun i => i != k) m j
  unfold fdel
  rw [h]
  by_cases hj : j = k <;> simp [hj]

@[simp] theorem fget_fput {α} (d : α) (k : Nat) (a : α) (m : FMap α) (j : Nat) :
    fget d (fput k a m) j = if j = k then a else fget d m j := by
  by_cases h : j = k <;> simp [fget, h]

@[simp] theorem fget_fdel {α} (d : α) (k : Nat) (m : FMap α) (j : Nat) :
    fget d (fdel k m) j = if j = k then d else fget d m j := by
  by_cases h : j = k <;> simp [fget, h]

@[simp] theorem fget_fset {α} [DecidableEq α] (d : α) (m : FMap α) (k : Nat) (a : α) (j : Nat) :
    fget d (fset d m k a) j = if j = k then a else fget d m j := by
  unfold fset
  split
  · rename_i h; subst h; simp
  · simp

@[simp] theorem fget_fmod {α} [DecidableEq α] (d : α) (m : FMap α) (k : Nat) (f : α → α) (j : Nat) :
    fget d (fmod d m k f) j = if j = k then f (fget d m k) else fget d m j := by simp [fmod]

@[simp] theorem fget_nil {α} (d : α) (k : Nat) : fget d [] k = d := rfl

theorem fget?_fclear {α} (m : FMap α) (p : Nat → Bool) (k : Nat) :
    fget? (fclear m p) k = if p k then none else fget? m k := by
  have h := fget?_filter (fun i => !p i) m k
  unfold fclear
  rw [h]; by_cases hp : p k <;> simp [hp]

theorem fget_fclear {α} (d : α) (m : FMap α) (p : Nat → Bool) (k : Nat) :
    fget d (fclear m p) k = if p k then d else fget d m k := by
  by_cases hp : p k <;> simp [fget, fget?_fclear, hp]

/-- A slice answers for its own keys. -/
theorem fget_fslice {α} (d : α) (a n : Nat) (m : FMap α) (k : Nat) (h : a ≤ k) (h' : k < a + n) :
    fget d (fslice a n m) k = fget d m k := by
  have hf := fget?_filter (fun i => decide (a ≤ i) && decide (i < a + n)) m k
  simp only [fget, fslice]
  rw [show (m.filter fun e => decide (a ≤ e.1) && decide (e.1 < a + n)) = m.filter (fun e => (fun i => decide (a ≤ i) && decide (i < a + n)) e.1) from rfl, hf]
  simp [h, h']

-- ## Numbered bytes

/-- Leaving the first entry out renumbers the others. -/
theorem numbered_tail {α} (a : Nat) (x : α) (r : List α) (k : Nat) (h : k ≠ a) :
    (if a + 1 ≤ k ∧ k < a + 1 + r.length then r[k - (a + 1)]? else none) =
      if a ≤ k ∧ k < a + (x :: r).length then (x :: r)[k - a]? else none := by
  have hb : (a + 1 ≤ k ∧ k < a + 1 + r.length) ↔ (a ≤ k ∧ k < a + (x :: r).length) := by rw [List.length_cons]; omega
  by_cases hk : a + 1 ≤ k ∧ k < a + 1 + r.length
  · rw [if_pos hk, if_pos (hb.1 hk), show k - a = k - (a + 1) + 1 by omega, List.getElem?_cons_succ]
  · rw [if_neg hk, if_neg fun h => hk (hb.2 h)]

theorem fget?_fnumber {α} (a : Nat) (l : List α) (k : Nat) :
    fget? (fnumber a l) k = if a ≤ k ∧ k < a + l.length then l[k - a]? else none := by
  induction l generalizing a with
  | nil => simp [fnumber]
  | cons x r ih =>
    by_cases h : k = a
    · subst h; simp [fnumber, fget?]
    · rw [fnumber, fget?, if_neg h, ih, numbered_tail a x r k h]

theorem fget?_fnumber_ge {α} (a : Nat) (l : List α) (k : Nat) (p : α → Bool) (h : k < a) :
    fget? ((fnumber a l).filter fun e => p e.2) k = none := by
  induction l generalizing a with
  | nil => rfl
  | cons x r ih =>
    have hr := ih (a + 1) (by omega)
    have hn : k ≠ a := by omega
    by_cases hx : p x <;> simp [fnumber, fget?, hx, hn, hr]

/-- Entries that an unlisted key reads as may be left out. -/
theorem fget_fnumber_sparse {α} [DecidableEq α] (d : α) (a : Nat) (l : List α) (k : Nat) :
    fget d ((fnumber a l).filter fun e => e.2 != d) k = fget d (fnumber a l) k := by
  induction l generalizing a with
  | nil => rfl
  | cons x r ih =>
    have hr := ih (a + 1)
    have hlow := fget?_fnumber_ge (a + 1) r a (fun v => v != d) (by omega)
    by_cases hk : k = a
    · subst hk; by_cases hx : x = d <;> simp [fnumber, fget, fget?, hx, hlow]
    · by_cases hx : x = d <;> simpa [fnumber, fget, fget?, hx, hk] using hr

/-- Numbered entries without those that an unlisted key reads as. -/
theorem fget_fnumber_filter {α} [DecidableEq α] (d : α) (a : Nat) (l : List α) (k : Nat) :
    fget d ((fnumber a l).filter fun e => e.2 != d) k = if a ≤ k ∧ k < a + l.length then l[k - a]?.getD d else d := by
  rw [fget_fnumber_sparse, fget, fget?_fnumber]
  by_cases h : a ≤ k ∧ k < a + l.length <;> simp [h]

/-- A splice replaces exactly its keys. -/
theorem fget?_fsplice {α} (a n : Nat) (r m : FMap α) (k : Nat) (hr : ∀ j, ¬(a ≤ j ∧ j < a + n) → fget? r j = none) :
    fget? (fsplice a n r m) k = if a ≤ k ∧ k < a + n then fget? r k else fget? m k := by
  rw [fsplice, fget?_append, fget?_append, fget?_filter fun i => decide (i < a), fget?_filter fun i => decide (a + n ≤ i)]
  by_cases inside : a ≤ k ∧ k < a + n
  · rw [if_neg (by simp; omega), if_neg (by simp; omega), if_pos inside, Option.none_or, Option.or_none]
  · rw [if_neg inside, hr k inside, Option.or_none]
    obtain low | high : k < a ∨ a + n ≤ k := by omega
    · rw [if_pos (by simpa), if_neg (by simp; omega), Option.or_none]
    · rw [if_neg (by simp; omega), if_pos (by simpa), Option.none_or]

theorem fget_fsplice {α} (d : α) (a n : Nat) (r m : FMap α) (k : Nat) (hr : ∀ j, ¬(a ≤ j ∧ j < a + n) → fget? r j = none) :
    fget d (fsplice a n r m) k = if a ≤ k ∧ k < a + n then fget d r k else fget d m k := by
  rw [fget, fget?_fsplice a n r m k hr]; split <;> rfl

theorem mem_of_fget? {α} {m : FMap α} {k : Nat} {x : α} (h : fget? m k = some x) : (k, x) ∈ m := by
  induction m with
  | nil => cases h
  | cons e r ih => obtain ⟨j, y⟩ := e; rw [fget?] at h; split at h <;> simp_all

/-- A key that nothing lists has no entry after a filter either. -/
theorem fget?_filter_none {α} (p : Nat × α → Bool) (m : FMap α) (k : Nat) (h : ∀ x, (k, x) ∉ m) : fget? (m.filter p) k = none :=
  Option.eq_none_iff_forall_ne_some.2 fun x hx => h x (List.mem_filter.1 (mem_of_fget? hx)).1

theorem mem_fnumber {α} (a : Nat) (l : List α) (e : Nat × α) (h : e ∈ fnumber a l) : a ≤ e.1 ∧ e.1 < a + l.length := by
  induction l generalizing a with
  | nil => simp [fnumber] at h
  | cons x r ih =>
    simp only [fnumber, List.mem_cons] at h
    rcases h with rfl | h
    · simp
    · have := ih (a + 1) h; simp; omega

-- ## Canonical form

theorem risingFrom_mono {α} {lo hi : Nat} {m : FMap α} (h : risingFrom hi m = true) (hl : lo ≤ hi) : risingFrom lo m = true := by
  cases m with
  | nil => rfl
  | cons e r => simp [risingFrom] at *; exact ⟨by omega, h.2⟩

theorem risingFrom_filter {α} (p : Nat × α → Bool) {lo : Nat} {m : FMap α} (h : risingFrom lo m = true) :
    risingFrom lo (m.filter p) = true := by
  induction m generalizing lo with
  | nil => rfl
  | cons e r ih =>
    simp only [risingFrom, Bool.and_eq_true, decide_eq_true_eq] at h
    rw [List.filter_cons]
    split
    · simp [risingFrom, h.1, ih h.2]
    · exact risingFrom_mono (ih h.2) (by omega)

theorem risingFrom_fput {α} {lo k : Nat} {a : α} {m : FMap α} (h : risingFrom lo m = true) (hk : lo ≤ k) :
    risingFrom lo (fput k a m) = true := by
  induction m generalizing lo with
  | nil => simp [fput, risingFrom, hk]
  | cons e r ih =>
    obtain ⟨j, x⟩ := e
    simp only [risingFrom, Bool.and_eq_true, decide_eq_true_eq] at h
    unfold fput
    split
    · rename_i h1; simp [risingFrom, hk, h.2]; omega
    · split
      · rename_i h2; subst h2; simp [risingFrom, h.1, h.2]
      · rename_i h1 h2; simp [risingFrom, h.1, ih h.2 (by omega)]

/-- Changing a byte keeps the canonical form. -/
theorem fwf_fset {α} [DecidableEq α] (d : α) {m : FMap α} (k : Nat) (a : α) (h : fwf d m = true) : fwf d (fset d m k a) = true := by
  simp only [fwf, Bool.and_eq_true] at *
  unfold fset
  split
  · exact ⟨risingFrom_filter _ h.1, by
      rw [List.all_eq_true] at *; intro x hx; exact h.2 x ((List.mem_filter.1 hx).1)⟩
  · rename_i ha
    refine ⟨risingFrom_fput h.1 (Nat.zero_le _), ?_⟩
    have hm : ∀ (m : FMap α), (m.all fun e => e.2 != d) = true → ((fput k a m).all fun e => e.2 != d) = true := by
      intro m
      induction m with
      | nil => intro _; simp [fput, ha]
      | cons e r ih =>
        obtain ⟨j, x⟩ := e
        intro hall
        simp only [List.all_cons, Bool.and_eq_true] at hall
        unfold fput
        split
        · simp [ha]; simpa using hall
        · split
          · simp [ha]; simpa using hall.2
          · simp only [List.all_cons, Bool.and_eq_true]; exact ⟨hall.1, ih hall.2⟩
    exact hm m h.2

theorem fwf_filter {α} [DecidableEq α] (d : α) {m : FMap α} (p : Nat × α → Bool) (h : fwf d m = true) : fwf d (m.filter p) = true := by
  simp only [fwf, Bool.and_eq_true, List.all_eq_true] at *
  exact ⟨risingFrom_filter _ h.1, fun x hx => h.2 x ((List.mem_filter.1 hx).1)⟩

theorem fwf_fclear {α} [DecidableEq α] (d : α) {m : FMap α} (p : Nat → Bool) (h : fwf d m = true) : fwf d (fclear m p) = true :=
  fwf_filter d _ h

theorem risingFrom_append {α} {lo mid : Nat} {a b : FMap α} (ha : risingFrom lo a = true) (hb : risingFrom mid b = true)
    (hl : lo ≤ mid) (h : ∀ e ∈ a, e.1 < mid) : risingFrom lo (a ++ b) = true := by
  induction a generalizing lo with
  | nil => exact risingFrom_mono hb hl
  | cons e r ih =>
    simp only [List.cons_append, risingFrom, Bool.and_eq_true, decide_eq_true_eq] at *
    have he := h e (by simp)
    exact ⟨ha.1, ih ha.2 (by omega) (fun x hx => h x (by simp [hx]))⟩

theorem risingFrom_ge {α} {lo : Nat} {m : FMap α} (h : ∀ e ∈ m, lo ≤ e.1) (h0 : risingFrom 0 m = true) : risingFrom lo m = true := by
  cases m with
  | nil => rfl
  | cons e r =>
    simp only [risingFrom, Bool.and_eq_true, decide_eq_true_eq] at *
    exact ⟨h e (by simp), h0.2⟩

/-- A splice of entries that lie in the gap, rise and list nothing in vain keeps the canonical form. -/
theorem fwf_fsplice {α} [DecidableEq α] (d : α) {m r : FMap α} (a n : Nat) (h : fwf d m = true) (hr : fwf d r = true)
    (hk : ∀ e ∈ r, a ≤ e.1 ∧ e.1 < a + n) : fwf d (fsplice a n r m) = true := by
  have hlo : fwf d (m.filter fun e => decide (e.1 < a)) = true := fwf_filter d _ h
  have hhi : fwf d (m.filter fun e => decide (a + n ≤ e.1)) = true := fwf_filter d _ h
  simp only [fwf, Bool.and_eq_true] at hlo hhi hr ⊢
  unfold fsplice
  constructor
  · refine risingFrom_append (mid := a + n) (risingFrom_append (mid := a) hlo.1 ?_ (Nat.zero_le _) ?_) ?_ (Nat.zero_le _) ?_
    · exact risingFrom_ge (fun e he => (hk e he).1) hr.1
    · intro e he; simpa using (List.mem_filter.1 he).2
    · exact risingFrom_ge (fun e he => by simpa using (List.mem_filter.1 he).2) hhi.1
    · intro e he
      rcases List.mem_append.1 he with he | he
      · have := (List.mem_filter.1 he).2; simp at this; omega
      · exact (hk e he).2
  · simp only [List.all_append, Bool.and_eq_true]
    exact ⟨⟨hlo.2, hr.2⟩, hhi.2⟩

theorem risingFrom_fnumber {α} (a : Nat) (l : List α) : risingFrom a (fnumber a l) = true := by
  induction l generalizing a with
  | nil => rfl
  | cons x r ih => simp [fnumber, risingFrom, ih]

theorem fwf_fnumber_filter {α} [DecidableEq α] (d : α) (a : Nat) (l : List α) :
    fwf d ((fnumber a l).filter fun e => e.2 != d) = true := by
  simp only [fwf, Bool.and_eq_true, List.all_eq_true]
  exact ⟨risingFrom_mono (risingFrom_filter _ (risingFrom_fnumber a l)) (Nat.zero_le _), fun x hx => (List.mem_filter.1 hx).2⟩

-- ## Ranges

@[simp] theorem length_range (a n : Nat) : (range a n).length = n := by
  induction n generalizing a with
  | zero => rfl
  | succ n ih => simp [range, ih]

theorem mem_range (a n k : Nat) : k ∈ range a n ↔ a ≤ k ∧ k < a + n := by
  induction n generalizing a with
  | zero => simp [range]
  | succ n ih => simp [range, ih]; omega

theorem getElem?_range (a n i : Nat) : (range a n)[i]? = if i < n then some (a + i) else none := by
  induction n generalizing a i with
  | zero => simp [range]
  | succ n ih =>
    cases i with
    | zero => simp [range]
    | succ i =>
      simp only [range, List.getElem?_cons_succ, ih]
      by_cases h : i < n
      · simp [h]; omega
      · simp [h]

end Sys2Proof.Machine
end

