-- ==== Sys2Proof/Laws/PerInstr.lean ====
section
/-! SUPPORT. One lemma per constructor of Instr about its encoding: the word of a legal instruction has 64 bits (R178, R179),
and an event or DISPATCH has no word. -/
namespace Sys2Proof.Laws

/-- Fields that fit their widths pack into a number of the summed width. -/
theorem packF_lt (l : List (Nat × Nat)) (h : ∀ p ∈ l, p.2 < 2 ^ p.1) : packF l < 2 ^ (l.map (·.1)).sum := by
  induction l with
  | nil => simp [packF]
  | cons p r ih =>
    have hp := h p (by simp)
    have hr := ih fun q hq => h q (by simp [hq])
    simp only [packF, List.map_cons, List.sum_cons, Nat.pow_add]
    calc p.2 + 2 ^ p.1 * packF r < 2 ^ p.1 * 1 + 2 ^ p.1 * packF r := by omega
      _ = 2 ^ p.1 * (packF r + 1) := by rw [Nat.mul_add, Nat.add_comm]
      _ ≤ 2 ^ p.1 * 2 ^ (r.map (·.1)).sum := Nat.mul_le_mul_left _ hr

-- ## Formats

theorem bodyCR_lt {fn c b a d : Nat} (hn : fn < 32 ∧ c < 64 ∧ b < 64 ∧ a < 64 ∧ d < 64) : bodyCR fn c b a d < 2 ^ 53 := by
  exact packF_lt [(24, 0), (5, fn), (6, c), (6, b), (6, a), (6, d)] (by simp; omega)
theorem bodyCI_lt {fn imm a d : Nat} (hn : fn < 512 ∧ imm < 4294967296 ∧ a < 64 ∧ d < 64) : bodyCI fn imm a d < 2 ^ 53 := by
  exact packF_lt [(9, fn), (32, imm), (6, a), (6, d)] (by simp; omega)
theorem bodyCM_lt {d : Nat} {m : CM} (hm : m.wf = true) (hn : d < 64) : bodyCM d m < 2 ^ 53 := by
  simp only [CM.wf, decide_eq_true_eq] at hm
  exact packF_lt [(16, m.disp), (2, m.hint), (1, m.hv), (2, m.sh), (2, m.scope), (2, m.sem), (1, m.sx), (3, m.sz), (2, m.as), (4, m.oc), (6, m.b), (6, m.a), (6, d)] (by simp; omega)
theorem bodyCB_lt {off cond b a : Nat} (hn : off < 137438953472 ∧ cond < 16 ∧ b < 64 ∧ a < 64) : bodyCB off cond b a < 2 ^ 53 := by
  exact packF_lt [(37, off), (4, cond), (6, b), (6, a)] (by simp; omega)
theorem bodyCJ_lt {off d : Nat} (hn : off < 140737488355328 ∧ d < 64) : bodyCJ off d < 2 ^ 53 := by
  exact packF_lt [(47, off), (6, d)] (by simp; omega)
theorem bodyCS_lt {opt scp rg imm idx b a d : Nat} (hn : opt < 4 ∧ scp < 4 ∧ rg < 2 ∧ imm < 65536 ∧ idx < 256 ∧ b < 64 ∧ a < 64 ∧ d < 64) : bodyCS opt scp rg imm idx b a d < 2 ^ 53 := by
  exact packF_lt [(2, opt), (6, 0), (2, scp), (1, rg), (16, imm), (8, idx), (6, b), (6, a), (6, d)] (by simp; omega)
theorem bodyFENCE_lt {scope mask b a d : Nat} (hn : scope < 4 ∧ mask < 65536 ∧ b < 64 ∧ a < 64 ∧ d < 64) : bodyFENCE scope mask b a d < 2 ^ 53 := by
  exact packF_lt [(17, 0), (2, scope), (16, mask), (6, b), (6, a), (6, d)] (by simp; omega)
theorem bodySYS_lt {num b a d : Nat} (hn : num < 4096 ∧ b < 64 ∧ a < 64 ∧ d < 64) : bodySYS num b a d < 2 ^ 53 := by
  exact packF_lt [(23, 0), (12, num), (6, b), (6, a), (6, d)] (by simp; omega)
theorem bodyRSET_lt {pin deg b a d : Nat} (hn : pin < 2 ∧ deg < 4 ∧ b < 64 ∧ a < 64 ∧ d < 64) : bodyRSET pin deg b a d < 2 ^ 53 := by
  exact packF_lt [(32, 0), (1, pin), (2, deg), (6, b), (6, a), (6, d)] (by simp; omega)
theorem eofVR_lt {x : VR} (hx : x.wf = true) : eofVR x < 2 ^ 24 := by
  simp only [VR.wf, decide_eq_true_eq] at hx
  exact packF_lt [(1, x.z), (1, x.m1), (3, x.msk), (5, x.vb), (5, x.va), (5, x.vd), (4, x.typ)] (by simp; omega)
theorem eofVC_lt {x : VC} (hx : x.wf = true) : eofVC x < 2 ^ 30 := by
  simp only [VC.wf, decide_eq_true_eq] at hx
  exact packF_lt [(1, x.z), (1, x.m1), (3, x.msk), (5, x.vb), (5, x.va), (5, x.vd), (4, x.typ), (1, x.x2), (1, x.x1), (1, x.sr), (3, x.part)] (by simp; omega)
theorem eofVM_lt {x : VM} (hx : x.wf = true) : eofVM x < 2 ^ 24 := by
  simp only [VM.wf, decide_eq_true_eq] at hx
  exact packF_lt [(15, x.disp), (3, x.msk), (5, x.vr), (1, x.as)] (by simp; omega)
theorem eofVX_lt {x : VX} (hx : x.wf = true) : eofVX x < 2 ^ 24 := by
  simp only [VX.wf, decide_eq_true_eq] at hx
  exact packF_lt [(8, 0), (2, x.sc), (3, x.msk), (5, x.vi), (5, x.vr), (1, x.as)] (by simp; omega)
theorem eofVMOVC_lt {vd lane pair : Nat} (hn : vd < 32 ∧ lane < 64 ∧ pair < 2) : eofVMOVC vd lane pair < 2 ^ 24 := by
  exact packF_lt [(1, pair), (8, 0), (6, lane), (5, vd), (4, 0)] (by simp; omega)
theorem eofVMSK_lt {md ma mb mop : Nat} (hn : md < 8 ∧ ma < 8 ∧ mb < 8 ∧ mop < 8) : eofVMSK md ma mb mop < 2 ^ 24 := by
  exact packF_lt [(3, mop), (8, 0), (3, mb), (3, ma), (3, md), (4, 0)] (by simp; omega)
theorem eofVTBLD_lt {sel typ vd va : Nat} (hn : sel < 8 ∧ typ < 16 ∧ vd < 32 ∧ va < 32) : eofVTBLD sel typ vd va < 2 ^ 30 := by
  exact packF_lt [(10, 0), (5, va), (5, vd), (4, typ), (3, 0), (3, sel)] (by simp; omega)
theorem eofVSMX_lt {dlog vd va vb : Nat} (hn : dlog < 4 ∧ vd < 32 ∧ va < 32 ∧ vb < 32) : eofVSMX dlog vd va vb < 2 ^ 24 := by
  exact packF_lt [(5, 0), (5, vb), (5, va), (5, vd), (2, 0), (2, dlog)] (by simp; omega)
theorem eofM2_lt {nsub z : Nat} (hn : nsub < 4 ∧ z < 2) : eofM2 nsub z < 2 ^ 24 := by
  exact packF_lt [(21, 0), (1, z), (2, nsub)] (by simp; omega)
theorem eofMG_lt {nsub z nrow : Nat} (hn : nsub < 4 ∧ z < 2 ∧ nrow < 512) : eofMG nsub z nrow < 2 ^ 24 := by
  exact packF_lt [(12, 0), (9, nrow), (1, z), (2, nsub)] (by simp; omega)
theorem eofML_lt {nsub z kb gsz : Nat} (hn : nsub < 4 ∧ z < 2 ∧ kb < 4 ∧ gsz < 4) : eofML nsub z kb gsz < 2 ^ 24 := by
  exact packF_lt [(17, 0), (2, gsz), (2, kb), (1, z), (2, nsub)] (by simp; omega)
theorem eofMD_lt {x : Drain} (hx : x.wf = true) : eofMD x < 2 ^ 24 := by
  simp only [Drain.wf, decide_eq_true_eq] at hx
  exact packF_lt [(15, 0), (1, x.sr), (1, x.sat), (1, x.bias), (2, x.act), (1, x.sct), (1, x.keep), (2, x.nsub)] (by simp; omega)
theorem eofD_lt {doff u : Nat} (hn : doff < 65536 ∧ u < 2) : eofD doff u < 2 ^ 24 := by
  exact packF_lt [(16, doff), (1, u), (7, 0)] (by simp; omega)
theorem bodyCF_lt {fn : FN} {c b a d : Nat} (hfn : fn.wf = true) (hn : c < 64 ∧ b < 64 ∧ a < 64 ∧ d < 64) :
    bodyCF fn c b a d < 2 ^ 53 := by
  simp only [FN.wf, decide_eq_true_eq] at hfn
  exact bodyCR_lt ⟨packF_lt [(1, fn.pr), (3, fn.rm), (1, fn.fx)] (by simp; omega), hn⟩
theorem withReg_lt {h : Hdr} {e : Nat} (hw : h.wf = true) (he : e < 2 ^ 24) : withReg h e < 2 ^ 30 := by
  simp only [Hdr.wf, decide_eq_true_eq] at hw
  exact packF_lt [(24, e), (6, h.creg)] (by simp; omega)

-- ## Words

/-- The word of a legal instruction has 64 bits. -/
def Width.Statement (i : Instr) : Prop := instrWf i = true → legal i = true → ∀ w, encodeWord i = some w → w < 2 ^ 64

theorem width_of_control {i : Instr} (op body : Nat) (h : encodeControl i = some (op, body)) (ho : op < 2 ^ 8) (hb : body < 2 ^ 53) :
    ∀ w, encodeWord i = some w → w < 2 ^ 64 := by
  intro w hw
  simp only [encodeWord, h, Option.some.injEq] at hw
  subst hw
  exact packF_lt [(53, body), (8, op), (3, 0)] (by simp; omega)
theorem width_of_engine {i : Instr} (cls eop eof : Nat) (hd : Hdr) (h0 : encodeControl i = none)
    (h : encodeEngine i = some (cls, eop, hd, eof)) (hc : cls < 2 ^ 3) (he : eop < 2 ^ 6) (hw : hd.wf = true) (hf : eof < 2 ^ 30) :
    ∀ w, encodeWord i = some w → w < 2 ^ 64 := by
  intro w hw'
  simp only [encodeWord, h0, h, Option.some.injEq] at hw'
  subst hw'
  simp only [Hdr.wf, decide_eq_true_eq] at hw
  exact packF_lt [(30, eof), (1, hd.cap), (6, eop), (4, hd.sinc), (8, hd.ssem), (4, hd.wneed), (8, hd.wsem), (3, cls)] (by simp; omega)
theorem width_of_none {i : Instr} (h : encodeWord i = none) : ∀ w, encodeWord i = some w → w < 2 ^ 64 := by simp [h]

theorem Width.nop : Width.Statement (.nop) := fun _ _ => width_of_control 0x00 (bodyCR 0 0 0 0 0) rfl (by decide) (bodyCR_lt (by omega))
theorem Width.add (d a b : Nat) : Width.Statement (.add d a b) := fun hi _ => let ⟨h0, h1, h2⟩ := of_decide_eq_true hi; width_of_control 0x01 (bodyCR 0 0 b a d) rfl (by decide) (bodyCR_lt (by omega))
theorem Width.sub (d a b : Nat) : Width.Statement (.sub d a b) := fun hi _ => let ⟨h0, h1, h2⟩ := of_decide_eq_true hi; width_of_control 0x02 (bodyCR 0 0 b a d) rfl (by decide) (bodyCR_lt (by omega))
theorem Width.and (d a b : Nat) : Width.Statement (.and d a b) := fun hi _ => let ⟨h0, h1, h2⟩ := of_decide_eq_true hi; width_of_control 0x03 (bodyCR 0 0 b a d) rfl (by decide) (bodyCR_lt (by omega))
theorem Width.or (d a b : Nat) : Width.Statement (.or d a b) := fun hi _ => let ⟨h0, h1, h2⟩ := of_decide_eq_true hi; width_of_control 0x04 (bodyCR 0 0 b a d) rfl (by decide) (bodyCR_lt (by omega))
theorem Width.xor (d a b : Nat) : Width.Statement (.xor d a b) := fun hi _ => let ⟨h0, h1, h2⟩ := of_decide_eq_true hi; width_of_control 0x05 (bodyCR 0 0 b a d) rfl (by decide) (bodyCR_lt (by omega))
theorem Width.andn (d a b : Nat) : Width.Statement (.andn d a b) := fun hi _ => let ⟨h0, h1, h2⟩ := of_decide_eq_true hi; width_of_control 0x06 (bodyCR 0 0 b a d) rfl (by decide) (bodyCR_lt (by omega))
theorem Width.sll (d a b : Nat) : Width.Statement (.sll d a b) := fun hi _ => let ⟨h0, h1, h2⟩ := of_decide_eq_true hi; width_of_control 0x07 (bodyCR 0 0 b a d) rfl (by decide) (bodyCR_lt (by omega))
theorem Width.srl (d a b : Nat) : Width.Statement (.srl d a b) := fun hi _ => let ⟨h0, h1, h2⟩ := of_decide_eq_true hi; width_of_control 0x08 (bodyCR 0 0 b a d) rfl (by decide) (bodyCR_lt (by omega))
theorem Width.sra (d a b : Nat) : Width.Statement (.sra d a b) := fun hi _ => let ⟨h0, h1, h2⟩ := of_decide_eq_true hi; width_of_control 0x09 (bodyCR 0 0 b a d) rfl (by decide) (bodyCR_lt (by omega))
theorem Width.mul (d a b : Nat) : Width.Statement (.mul d a b) := fun hi _ => let ⟨h0, h1, h2⟩ := of_decide_eq_true hi; width_of_control 0x0A (bodyCR 0 0 b a d) rfl (by decide) (bodyCR_lt (by omega))
theorem Width.mulh (d a b : Nat) : Width.Statement (.mulh d a b) := fun hi _ => let ⟨h0, h1, h2⟩ := of_decide_eq_true hi; width_of_control 0x0B (bodyCR 0 0 b a d) rfl (by decide) (bodyCR_lt (by omega))
theorem Width.mulhu (d a b : Nat) : Width.Statement (.mulhu d a b) := fun hi _ => let ⟨h0, h1, h2⟩ := of_decide_eq_true hi; width_of_control 0x0C (bodyCR 0 0 b a d) rfl (by decide) (bodyCR_lt (by omega))
theorem Width.div (d a b : Nat) : Width.Statement (.div d a b) := fun hi _ => let ⟨h0, h1, h2⟩ := of_decide_eq_true hi; width_of_control 0x0D (bodyCR 0 0 b a d) rfl (by decide) (bodyCR_lt (by omega))
theorem Width.divu (d a b : Nat) : Width.Statement (.divu d a b) := fun hi _ => let ⟨h0, h1, h2⟩ := of_decide_eq_true hi; width_of_control 0x0E (bodyCR 0 0 b a d) rfl (by decide) (bodyCR_lt (by omega))
theorem Width.rem (d a b : Nat) : Width.Statement (.rem d a b) := fun hi _ => let ⟨h0, h1, h2⟩ := of_decide_eq_true hi; width_of_control 0x0F (bodyCR 0 0 b a d) rfl (by decide) (bodyCR_lt (by omega))
theorem Width.remu (d a b : Nat) : Width.Statement (.remu d a b) := fun hi _ => let ⟨h0, h1, h2⟩ := of_decide_eq_true hi; width_of_control 0x10 (bodyCR 0 0 b a d) rfl (by decide) (bodyCR_lt (by omega))
theorem Width.min (d a b : Nat) : Width.Statement (.min d a b) := fun hi _ => let ⟨h0, h1, h2⟩ := of_decide_eq_true hi; width_of_control 0x11 (bodyCR 0 0 b a d) rfl (by decide) (bodyCR_lt (by omega))
theorem Width.max (d a b : Nat) : Width.Statement (.max d a b) := fun hi _ => let ⟨h0, h1, h2⟩ := of_decide_eq_true hi; width_of_control 0x12 (bodyCR 0 0 b a d) rfl (by decide) (bodyCR_lt (by omega))
theorem Width.minu (d a b : Nat) : Width.Statement (.minu d a b) := fun hi _ => let ⟨h0, h1, h2⟩ := of_decide_eq_true hi; width_of_control 0x13 (bodyCR 0 0 b a d) rfl (by decide) (bodyCR_lt (by omega))
theorem Width.maxu (d a b : Nat) : Width.Statement (.maxu d a b) := fun hi _ => let ⟨h0, h1, h2⟩ := of_decide_eq_true hi; width_of_control 0x14 (bodyCR 0 0 b a d) rfl (by decide) (bodyCR_lt (by omega))
theorem Width.clz (d a : Nat) : Width.Statement (.clz d a) := fun hi _ => let ⟨h0, h1⟩ := of_decide_eq_true hi; width_of_control 0x15 (bodyCR 0 0 0 a d) rfl (by decide) (bodyCR_lt (by omega))
theorem Width.ctz (d a : Nat) : Width.Statement (.ctz d a) := fun hi _ => let ⟨h0, h1⟩ := of_decide_eq_true hi; width_of_control 0x16 (bodyCR 0 0 0 a d) rfl (by decide) (bodyCR_lt (by omega))
theorem Width.popc (d a : Nat) : Width.Statement (.popc d a) := fun hi _ => let ⟨h0, h1⟩ := of_decide_eq_true hi; width_of_control 0x17 (bodyCR 0 0 0 a d) rfl (by decide) (bodyCR_lt (by omega))
theorem Width.bswap (d a : Nat) : Width.Statement (.bswap d a) := fun hi _ => let ⟨h0, h1⟩ := of_decide_eq_true hi; width_of_control 0x18 (bodyCR 0 0 0 a d) rfl (by decide) (bodyCR_lt (by omega))
theorem Width.seq (d a b : Nat) : Width.Statement (.seq d a b) := fun hi _ => let ⟨h0, h1, h2⟩ := of_decide_eq_true hi; width_of_control 0x19 (bodyCR 0 0 b a d) rfl (by decide) (bodyCR_lt (by omega))
theorem Width.slt (d a b : Nat) : Width.Statement (.slt d a b) := fun hi _ => let ⟨h0, h1, h2⟩ := of_decide_eq_true hi; width_of_control 0x1A (bodyCR 0 0 b a d) rfl (by decide) (bodyCR_lt (by omega))
theorem Width.sltu (d a b : Nat) : Width.Statement (.sltu d a b) := fun hi _ => let ⟨h0, h1, h2⟩ := of_decide_eq_true hi; width_of_control 0x1B (bodyCR 0 0 b a d) rfl (by decide) (bodyCR_lt (by omega))
theorem Width.sel (d a b c : Nat) : Width.Statement (.sel d a b c) := fun hi _ => let ⟨h0, h1, h2, h3⟩ := of_decide_eq_true hi; width_of_control 0x1C (bodyCR 0 c b a d) rfl (by decide) (bodyCR_lt (by omega))
theorem Width.bfx (d a b : Nat) : Width.Statement (.bfx d a b) := fun hi _ => let ⟨h0, h1, h2⟩ := of_decide_eq_true hi; width_of_control 0x1D (bodyCR 0 0 b a d) rfl (by decide) (bodyCR_lt (by omega))
theorem Width.bfxu (d a b : Nat) : Width.Statement (.bfxu d a b) := fun hi _ => let ⟨h0, h1, h2⟩ := of_decide_eq_true hi; width_of_control 0x1E (bodyCR 0 0 b a d) rfl (by decide) (bodyCR_lt (by omega))
theorem Width.bfi (d a b c : Nat) : Width.Statement (.bfi d a b c) := fun hi _ => let ⟨h0, h1, h2, h3⟩ := of_decide_eq_true hi; width_of_control 0x1F (bodyCR 0 c b a d) rfl (by decide) (bodyCR_lt (by omega))
theorem Width.addi (d a imm : Nat) : Width.Statement (.addi d a imm) := fun hi _ => let ⟨h0, h1, h2⟩ := of_decide_eq_true hi; width_of_control 0x20 (bodyCI 0 imm a d) rfl (by decide) (bodyCI_lt (by omega))
theorem Width.andi (d a imm : Nat) : Width.Statement (.andi d a imm) := fun hi _ => let ⟨h0, h1, h2⟩ := of_decide_eq_true hi; width_of_control 0x21 (bodyCI 0 imm a d) rfl (by decide) (bodyCI_lt (by omega))
theorem Width.ori (d a imm : Nat) : Width.Statement (.ori d a imm) := fun hi _ => let ⟨h0, h1, h2⟩ := of_decide_eq_true hi; width_of_control 0x22 (bodyCI 0 imm a d) rfl (by decide) (bodyCI_lt (by omega))
theorem Width.xori (d a imm : Nat) : Width.Statement (.xori d a imm) := fun hi _ => let ⟨h0, h1, h2⟩ := of_decide_eq_true hi; width_of_control 0x23 (bodyCI 0 imm a d) rfl (by decide) (bodyCI_lt (by omega))
theorem Width.slli (d a imm : Nat) : Width.Statement (.slli d a imm) := fun hi _ => let ⟨h0, h1, h2⟩ := of_decide_eq_true hi; width_of_control 0x24 (bodyCI 0 imm a d) rfl (by decide) (bodyCI_lt (by omega))
theorem Width.srli (d a imm : Nat) : Width.Statement (.srli d a imm) := fun hi _ => let ⟨h0, h1, h2⟩ := of_decide_eq_true hi; width_of_control 0x25 (bodyCI 0 imm a d) rfl (by decide) (bodyCI_lt (by omega))
theorem Width.srai (d a imm : Nat) : Width.Statement (.srai d a imm) := fun hi _ => let ⟨h0, h1, h2⟩ := of_decide_eq_true hi; width_of_control 0x26 (bodyCI 0 imm a d) rfl (by decide) (bodyCI_lt (by omega))
theorem Width.slti (d a imm : Nat) : Width.Statement (.slti d a imm) := fun hi _ => let ⟨h0, h1, h2⟩ := of_decide_eq_true hi; width_of_control 0x27 (bodyCI 0 imm a d) rfl (by decide) (bodyCI_lt (by omega))
theorem Width.sltui (d a imm : Nat) : Width.Statement (.sltui d a imm) := fun hi _ => let ⟨h0, h1, h2⟩ := of_decide_eq_true hi; width_of_control 0x28 (bodyCI 0 imm a d) rfl (by decide) (bodyCI_lt (by omega))
theorem Width.seqi (d a imm : Nat) : Width.Statement (.seqi d a imm) := fun hi _ => let ⟨h0, h1, h2⟩ := of_decide_eq_true hi; width_of_control 0x29 (bodyCI 0 imm a d) rfl (by decide) (bodyCI_lt (by omega))
theorem Width.movi (d imm : Nat) : Width.Statement (.movi d imm) := fun hi _ => let ⟨h0, h1⟩ := of_decide_eq_true hi; width_of_control 0x2A (bodyCI 0 imm 0 d) rfl (by decide) (bodyCI_lt (by omega))
theorem Width.movhi (d a imm : Nat) : Width.Statement (.movhi d a imm) := fun hi _ => let ⟨h0, h1, h2⟩ := of_decide_eq_true hi; width_of_control 0x2B (bodyCI 0 imm a d) rfl (by decide) (bodyCI_lt (by omega))
theorem Width.lea (d a imm sh : Nat) : Width.Statement (.lea d a imm sh) := fun hi _ => let ⟨h0, h1, h2, h3⟩ := of_decide_eq_true hi; width_of_control 0x2C (bodyCI sh imm a d) rfl (by decide) (bodyCI_lt (by omega))
theorem Width.addpc (d imm : Nat) : Width.Statement (.addpc d imm) := fun hi _ => let ⟨h0, h1⟩ := of_decide_eq_true hi; width_of_control 0x2D (bodyCI 0 imm 0 d) rfl (by decide) (bodyCI_lt (by omega))
theorem Width.fadd (d a b : Nat) (fn : FN) : Width.Statement (.fadd d a b fn) := fun hi _ => let ⟨h0, h1, h2, h3⟩ := of_decide_eq_true hi; width_of_control 0x30 (bodyCF fn 0 b a d) rfl (by decide) (bodyCF_lt h3 (by omega))
theorem Width.fsub (d a b : Nat) (fn : FN) : Width.Statement (.fsub d a b fn) := fun hi _ => let ⟨h0, h1, h2, h3⟩ := of_decide_eq_true hi; width_of_control 0x31 (bodyCF fn 0 b a d) rfl (by decide) (bodyCF_lt h3 (by omega))
theorem Width.fmul (d a b : Nat) (fn : FN) : Width.Statement (.fmul d a b fn) := fun hi _ => let ⟨h0, h1, h2, h3⟩ := of_decide_eq_true hi; width_of_control 0x32 (bodyCF fn 0 b a d) rfl (by decide) (bodyCF_lt h3 (by omega))
theorem Width.fdiv (d a b : Nat) (fn : FN) : Width.Statement (.fdiv d a b fn) := fun hi _ => let ⟨h0, h1, h2, h3⟩ := of_decide_eq_true hi; width_of_control 0x33 (bodyCF fn 0 b a d) rfl (by decide) (bodyCF_lt h3 (by omega))
theorem Width.fsqrt (d a : Nat) (fn : FN) : Width.Statement (.fsqrt d a fn) := fun hi _ => let ⟨h0, h1, h2⟩ := of_decide_eq_true hi; width_of_control 0x34 (bodyCF fn 0 0 a d) rfl (by decide) (bodyCF_lt h2 (by omega))
theorem Width.ffma (d a b c : Nat) (fn : FN) : Width.Statement (.ffma d a b c fn) := fun hi _ => let ⟨h0, h1, h2, h3, h4⟩ := of_decide_eq_true hi; width_of_control 0x35 (bodyCF fn c b a d) rfl (by decide) (bodyCF_lt h4 (by omega))
theorem Width.fmin (d a b : Nat) (fn : FN) : Width.Statement (.fmin d a b fn) := fun hi _ => let ⟨h0, h1, h2, h3⟩ := of_decide_eq_true hi; width_of_control 0x36 (bodyCF fn 0 b a d) rfl (by decide) (bodyCF_lt h3 (by omega))
theorem Width.fmax (d a b : Nat) (fn : FN) : Width.Statement (.fmax d a b fn) := fun hi _ => let ⟨h0, h1, h2, h3⟩ := of_decide_eq_true hi; width_of_control 0x37 (bodyCF fn 0 b a d) rfl (by decide) (bodyCF_lt h3 (by omega))
theorem Width.fcmp (d a b : Nat) (fn : FN) : Width.Statement (.fcmp d a b fn) := fun hi _ => let ⟨h0, h1, h2, h3⟩ := of_decide_eq_true hi; width_of_control 0x38 (bodyCF fn 0 b a d) rfl (by decide) (bodyCF_lt h3 (by omega))
theorem Width.fclass (d a : Nat) (fn : FN) : Width.Statement (.fclass d a fn) := fun hi _ => let ⟨h0, h1, h2⟩ := of_decide_eq_true hi; width_of_control 0x39 (bodyCF fn 0 0 a d) rfl (by decide) (bodyCF_lt h2 (by omega))
theorem Width.fcvt (d a code : Nat) (fn : FN) : Width.Statement (.fcvt d a code fn) := fun hi _ => let ⟨h0, h1, h2, h3⟩ := of_decide_eq_true hi; width_of_control 0x3A (bodyCF fn 0 code a d) rfl (by decide) (bodyCF_lt h3 (by omega))
theorem Width.fmvg (d a : Nat) (fn : FN) : Width.Statement (.fmvg d a fn) := fun hi _ => let ⟨h0, h1, h2⟩ := of_decide_eq_true hi; width_of_control 0x3B (bodyCF fn 0 0 a d) rfl (by decide) (bodyCF_lt h2 (by omega))
theorem Width.fmvf (d a : Nat) (fn : FN) : Width.Statement (.fmvf d a fn) := fun hi _ => let ⟨h0, h1, h2⟩ := of_decide_eq_true hi; width_of_control 0x3C (bodyCF fn 0 0 a d) rfl (by decide) (bodyCF_lt h2 (by omega))
theorem Width.fsgn (d a b : Nat) (fn : FN) : Width.Statement (.fsgn d a b fn) := fun hi _ => let ⟨h0, h1, h2, h3⟩ := of_decide_eq_true hi; width_of_control 0x3D (bodyCF fn 0 b a d) rfl (by decide) (bodyCF_lt h3 (by omega))
theorem Width.frnd (d a : Nat) (fn : FN) : Width.Statement (.frnd d a fn) := fun hi _ => let ⟨h0, h1, h2⟩ := of_decide_eq_true hi; width_of_control 0x3E (bodyCF fn 0 0 a d) rfl (by decide) (bodyCF_lt h2 (by omega))
theorem Width.b (a b cond off : Nat) : Width.Statement (.b a b cond off) := fun hi _ => let ⟨h0, h1, h2, h3⟩ := of_decide_eq_true hi; width_of_control 0x40 (bodyCB off cond b a) rfl (by decide) (bodyCB_lt (by omega))
theorem Width.bz (a cond off : Nat) : Width.Statement (.bz a cond off) := fun hi _ => let ⟨h0, h1, h2⟩ := of_decide_eq_true hi; width_of_control 0x41 (bodyCB off cond 0 a) rfl (by decide) (bodyCB_lt (by omega))
theorem Width.j (off : Nat) : Width.Statement (.j off) := fun hi _ => let h0 := of_decide_eq_true hi; width_of_control 0x42 (bodyCJ off 0) rfl (by decide) (bodyCJ_lt (by omega))
theorem Width.jal (d off : Nat) : Width.Statement (.jal d off) := fun hi _ => let ⟨h0, h1⟩ := of_decide_eq_true hi; width_of_control 0x43 (bodyCJ off d) rfl (by decide) (bodyCJ_lt (by omega))
theorem Width.jalr (d a imm : Nat) : Width.Statement (.jalr d a imm) := fun hi _ => let ⟨h0, h1, h2⟩ := of_decide_eq_true hi; width_of_control 0x44 (bodyCI 0 imm a d) rfl (by decide) (bodyCI_lt (by omega))
theorem Width.ret (a : Nat) : Width.Statement (.ret a) := fun hi _ => let h0 := of_decide_eq_true hi; width_of_control 0x45 (bodyCS 0 0 0 0 0 0 a 0) rfl (by decide) (bodyCS_lt (by omega))
theorem Width.jtab (a imm n : Nat) : Width.Statement (.jtab a imm n) := fun hi _ => let ⟨h0, h1, h2⟩ := of_decide_eq_true hi; width_of_control 0x46 (bodyCI n imm a 0) rfl (by decide) (bodyCI_lt (by omega))
theorem Width.ecatch (d off : Nat) : Width.Statement (.ecatch d off) := fun hi _ => let ⟨h0, h1⟩ := of_decide_eq_true hi; width_of_control 0x47 (bodyCJ off d) rfl (by decide) (bodyCJ_lt (by omega))
theorem Width.edrop : Width.Statement (.edrop) := fun _ _ => width_of_control 0x48 (bodyCS 0 0 0 0 0 0 0 0) rfl (by decide) (bodyCS_lt (by omega))
theorem Width.throw (a : Nat) : Width.Statement (.throw a) := fun hi _ => let h0 := of_decide_eq_true hi; width_of_control 0x49 (bodyCS 0 0 0 0 0 0 a 0) rfl (by decide) (bodyCS_lt (by omega))
theorem Width.ld (d : Nat) (m : CM) : Width.Statement (.ld d m) := fun hi _ => let ⟨h0, h1⟩ := of_decide_eq_true hi; width_of_control 0x50 (bodyCM d m) rfl (by decide) (bodyCM_lt h1 (by omega))
theorem Width.st (d : Nat) (m : CM) : Width.Statement (.st d m) := fun hi _ => let ⟨h0, h1⟩ := of_decide_eq_true hi; width_of_control 0x51 (bodyCM d m) rfl (by decide) (bodyCM_lt h1 (by omega))
theorem Width.stn (d : Nat) (m : CM) : Width.Statement (.stn d m) := fun hi _ => let ⟨h0, h1⟩ := of_decide_eq_true hi; width_of_control 0x52 (bodyCM d m) rfl (by decide) (bodyCM_lt h1 (by omega))
theorem Width.ldp (d : Nat) (m : CM) : Width.Statement (.ldp d m) := fun hi _ => let ⟨h0, h1⟩ := of_decide_eq_true hi; width_of_control 0x53 (bodyCM d m) rfl (by decide) (bodyCM_lt h1 (by omega))
theorem Width.stp (d : Nat) (m : CM) : Width.Statement (.stp d m) := fun hi _ => let ⟨h0, h1⟩ := of_decide_eq_true hi; width_of_control 0x54 (bodyCM d m) rfl (by decide) (bodyCM_lt h1 (by omega))
theorem Width.pref (m : CM) : Width.Statement (.pref m) := fun hi _ => let h0 := of_decide_eq_true hi; width_of_control 0x55 (bodyCM 0 m) rfl (by decide) (bodyCM_lt h0 (by omega))
theorem Width.clean (m : CM) : Width.Statement (.clean m) := fun hi _ => let h0 := of_decide_eq_true hi; width_of_control 0x56 (bodyCM 0 m) rfl (by decide) (bodyCM_lt h0 (by omega))
theorem Width.czero (m : CM) : Width.Statement (.czero m) := fun hi _ => let h0 := of_decide_eq_true hi; width_of_control 0x57 (bodyCM 0 m) rfl (by decide) (bodyCM_lt h0 (by omega))
theorem Width.cdrop (m : CM) : Width.Statement (.cdrop m) := fun hi _ => let h0 := of_decide_eq_true hi; width_of_control 0x58 (bodyCM 0 m) rfl (by decide) (bodyCM_lt h0 (by omega))
theorem Width.amo (d aop : Nat) (m : CM) : Width.Statement (.amo d aop m) := by
  intro h hl
  obtain ⟨h0, h1, h2⟩ := of_decide_eq_true h
  have h3 : m.disp < 4096 := by
    simp only [legal, Bool.and_eq_true, decide_eq_true_eq] at hl
    omega
  refine width_of_control _ _ rfl (by decide) (bodyCM_lt ?_ h0)
  simp only [CM.wf, decide_eq_true_eq] at h2 ⊢
  omega
theorem Width.acas (d : Nat) (m : CM) : Width.Statement (.acas d m) := fun hi _ => let ⟨h0, h1⟩ := of_decide_eq_true hi; width_of_control 0x5D (bodyCM d m) rfl (by decide) (bodyCM_lt h1 (by omega))
theorem Width.fence (mask scope : Nat) : Width.Statement (.fence mask scope) := fun hi _ => let ⟨h0, h1⟩ := of_decide_eq_true hi; width_of_control 0x60 (bodyFENCE scope mask 0 0 0) rfl (by decide) (bodyFENCE_lt (by omega))
theorem Width.semwait (a : Nat) (c : Cnt) : Width.Statement (.semwait a c) := fun hi _ => let ⟨h0, h1⟩ := of_decide_eq_true hi; let ⟨i0, i1, i2⟩ := of_decide_eq_true h1; width_of_control 0x61 (bodyCS 0 0 c.rg c.imm c.idx 0 a 0) rfl (by decide) (bodyCS_lt (by omega))
theorem Width.semsig (a : Nat) (c : Cnt) : Width.Statement (.semsig a c) := fun hi _ => let ⟨h0, h1⟩ := of_decide_eq_true hi; let ⟨i0, i1, i2⟩ := of_decide_eq_true h1; width_of_control 0x62 (bodyCS 0 0 c.rg c.imm c.idx 0 a 0) rfl (by decide) (bodyCS_lt (by omega))
theorem Width.semset (a : Nat) (c : Cnt) : Width.Statement (.semset a c) := fun hi _ => let ⟨h0, h1⟩ := of_decide_eq_true hi; let ⟨i0, i1, i2⟩ := of_decide_eq_true h1; width_of_control 0x63 (bodyCS 0 0 c.rg c.imm c.idx 0 a 0) rfl (by decide) (bodyCS_lt (by omega))
theorem Width.semrd (d idx : Nat) : Width.Statement (.semrd d idx) := fun hi _ => let ⟨h0, h1⟩ := of_decide_eq_true hi; width_of_control 0x64 (bodyCS 0 0 0 0 idx 0 0 d) rfl (by decide) (bodyCS_lt (by omega))
theorem Width.semrsig (a b : Nat) (c : Cnt) (scp : Nat) : Width.Statement (.semrsig a b c scp) := fun hi _ => let ⟨h0, h1, h2, h3⟩ := of_decide_eq_true hi; let ⟨i0, i1, i2⟩ := of_decide_eq_true h2; width_of_control 0x65 (bodyCS 0 scp c.rg c.imm c.idx b a 0) rfl (by decide) (bodyCS_lt (by omega))
theorem Width.rcfg (a b idx : Nat) : Width.Statement (.rcfg a b idx) := fun hi _ => let ⟨h0, h1, h2⟩ := of_decide_eq_true hi; width_of_control 0x66 (bodyCS 0 0 0 0 idx b a 0) rfl (by decide) (bodyCS_lt (by omega))
theorem Width.rclm (d a : Nat) (c : Cnt) : Width.Statement (.rclm d a c) := fun hi _ => let ⟨h0, h1, h2⟩ := of_decide_eq_true hi; let ⟨i0, i1, i2⟩ := of_decide_eq_true h2; width_of_control 0x67 (bodyCS 0 0 c.rg c.imm c.idx 0 a d) rfl (by decide) (bodyCS_lt (by omega))
theorem Width.rpub (a : Nat) (c : Cnt) : Width.Statement (.rpub a c) := fun hi _ => let ⟨h0, h1⟩ := of_decide_eq_true hi; let ⟨i0, i1, i2⟩ := of_decide_eq_true h1; width_of_control 0x68 (bodyCS 0 0 c.rg c.imm c.idx 0 a 0) rfl (by decide) (bodyCS_lt (by omega))
theorem Width.rwait (d a : Nat) (c : Cnt) : Width.Statement (.rwait d a c) := fun hi _ => let ⟨h0, h1, h2⟩ := of_decide_eq_true hi; let ⟨i0, i1, i2⟩ := of_decide_eq_true h2; width_of_control 0x69 (bodyCS 0 0 c.rg c.imm c.idx 0 a d) rfl (by decide) (bodyCS_lt (by omega))
theorem Width.rrel (a : Nat) (c : Cnt) : Width.Statement (.rrel a c) := fun hi _ => let ⟨h0, h1⟩ := of_decide_eq_true hi; let ⟨i0, i1, i2⟩ := of_decide_eq_true h1; width_of_control 0x6A (bodyCS 0 0 c.rg c.imm c.idx 0 a 0) rfl (by decide) (bodyCS_lt (by omega))
theorem Width.rstat (d idx opt : Nat) : Width.Statement (.rstat d idx opt) := fun hi _ => let ⟨h0, h1, h2⟩ := of_decide_eq_true hi; width_of_control 0x6B (bodyCS opt 0 0 0 idx 0 0 d) rfl (by decide) (bodyCS_lt (by omega))
theorem Width.tbset (a b : Nat) : Width.Statement (.tbset a b) := fun hi _ => let ⟨h0, h1⟩ := of_decide_eq_true hi; width_of_control 0x6C (bodyCS 0 0 0 0 0 b a 0) rfl (by decide) (bodyCS_lt (by omega))
theorem Width.tbwait (a b : Nat) : Width.Statement (.tbwait a b) := fun hi _ => let ⟨h0, h1⟩ := of_decide_eq_true hi; width_of_control 0x6D (bodyCS 0 0 0 0 0 b a 0) rfl (by decide) (bodyCS_lt (by omega))
theorem Width.barj (idx : Nat) : Width.Statement (.barj idx) := fun hi _ => let h0 := of_decide_eq_true hi; width_of_control 0x6E (bodyCS 0 0 0 0 idx 0 0 0) rfl (by decide) (bodyCS_lt (by omega))
theorem Width.bara (idx : Nat) : Width.Statement (.bara idx) := fun hi _ => let h0 := of_decide_eq_true hi; width_of_control 0x6F (bodyCS 0 0 0 0 idx 0 0 0) rfl (by decide) (bodyCS_lt (by omega))
theorem Width.barw (idx : Nat) : Width.Statement (.barw idx) := fun hi _ => let h0 := of_decide_eq_true hi; width_of_control 0x70 (bodyCS 0 0 0 0 idx 0 0 0) rfl (by decide) (bodyCS_lt (by omega))
theorem Width.barx (idx : Nat) : Width.Statement (.barx idx) := fun hi _ => let h0 := of_decide_eq_true hi; width_of_control 0x71 (bodyCS 0 0 0 0 idx 0 0 0) rfl (by decide) (bodyCS_lt (by omega))
theorem Width.phase (k : Nat) : Width.Statement (.phase k) := fun hi _ => let h0 := of_decide_eq_true hi; width_of_control 0x72 (bodyCS 0 0 0 0 k 0 0 0) rfl (by decide) (bodyCS_lt (by omega))
theorem Width.qseq (d idx opt : Nat) : Width.Statement (.qseq d idx opt) := fun hi _ => let ⟨h0, h1, h2⟩ := of_decide_eq_true hi; width_of_control 0x73 (bodyCS opt 0 0 0 idx 0 0 d) rfl (by decide) (bodyCS_lt (by omega))
theorem Width.qdrain (mask : Nat) : Width.Statement (.qdrain mask) := fun hi _ => let h0 := of_decide_eq_true hi; width_of_control 0x74 (bodyCS 0 0 0 0 mask 0 0 0) rfl (by decide) (bodyCS_lt (by omega))
theorem Width.mcfg (a idx : Nat) : Width.Statement (.mcfg a idx) := fun hi _ => let ⟨h0, h1⟩ := of_decide_eq_true hi; width_of_control 0x78 (bodyCS 0 0 0 0 idx 0 a 0) rfl (by decide) (bodyCS_lt (by omega))
theorem Width.mcfgrd (d idx opt : Nat) : Width.Statement (.mcfgrd d idx opt) := fun hi _ => let ⟨h0, h1, h2⟩ := of_decide_eq_true hi; width_of_control 0x79 (bodyCS opt 0 0 0 idx 0 0 d) rfl (by decide) (bodyCS_lt (by omega))
theorem Width.mhset (a idx : Nat) : Width.Statement (.mhset a idx) := fun hi _ => let ⟨h0, h1⟩ := of_decide_eq_true hi; width_of_control 0x7A (bodyCS 0 0 0 0 idx 0 a 0) rfl (by decide) (bodyCS_lt (by omega))
theorem Width.tick (d : Nat) : Width.Statement (.tick d) := fun hi _ => let h0 := of_decide_eq_true hi; width_of_control 0x7C (bodyCS 0 0 0 0 0 0 0 d) rfl (by decide) (bodyCS_lt (by omega))
theorem Width.sleepu (a : Nat) : Width.Statement (.sleepu a) := fun hi _ => let h0 := of_decide_eq_true hi; width_of_control 0x7D (bodyCS 0 0 0 0 0 0 a 0) rfl (by decide) (bodyCS_lt (by omega))
theorem Width.prmget (d a : Nat) : Width.Statement (.prmget d a) := fun hi _ => let ⟨h0, h1⟩ := of_decide_eq_true hi; width_of_control 0x7E (bodyCS 0 0 0 0 0 0 a d) rfl (by decide) (bodyCS_lt (by omega))
theorem Width.prmwait (a : Nat) : Width.Statement (.prmwait a) := fun hi _ => let h0 := of_decide_eq_true hi; width_of_control 0x7F (bodyCS 0 0 0 0 0 0 a 0) rfl (by decide) (bodyCS_lt (by omega))
theorem Width.movxr (d a imm : Nat) : Width.Statement (.movxr d a imm) := fun hi _ => let ⟨h0, h1, h2⟩ := of_decide_eq_true hi; width_of_control 0x80 (bodyCI 0 imm a d) rfl (by decide) (bodyCI_lt (by omega))
theorem Width.movxw (d a imm : Nat) : Width.Statement (.movxw d a imm) := fun hi _ => let ⟨h0, h1, h2⟩ := of_decide_eq_true hi; width_of_control 0x81 (bodyCI 0 imm a d) rfl (by decide) (bodyCI_lt (by omega))
theorem Width.fmovxr (d a imm : Nat) : Width.Statement (.fmovxr d a imm) := fun hi _ => let ⟨h0, h1, h2⟩ := of_decide_eq_true hi; width_of_control 0x82 (bodyCI 0 imm a d) rfl (by decide) (bodyCI_lt (by omega))
theorem Width.fmovxw (d a imm : Nat) : Width.Statement (.fmovxw d a imm) := fun hi _ => let ⟨h0, h1, h2⟩ := of_decide_eq_true hi; width_of_control 0x83 (bodyCI 0 imm a d) rfl (by decide) (bodyCI_lt (by omega))
theorem Width.ctxsw (d a opt : Nat) : Width.Statement (.ctxsw d a opt) := fun hi _ => let ⟨h0, h1, h2⟩ := of_decide_eq_true hi; width_of_control 0x88 (bodyCS opt 0 0 0 0 0 a d) rfl (by decide) (bodyCS_lt (by omega))
theorem Width.yield (d : Nat) : Width.Statement (.yield d) := fun hi _ => let h0 := of_decide_eq_true hi; width_of_control 0x89 (bodyCS 0 0 0 0 0 0 0 d) rfl (by decide) (bodyCS_lt (by omega))
theorem Width.node (a b imm : Nat) : Width.Statement (.node a b imm) := fun hi _ => let ⟨h0, h1, h2⟩ := of_decide_eq_true hi; width_of_control 0x8A (bodyCS 0 0 0 imm 0 b a 0) rfl (by decide) (bodyCS_lt (by omega))
theorem Width.park (opt : Nat) : Width.Statement (.park opt) := fun hi _ => let h0 := of_decide_eq_true hi; width_of_control 0x8B (bodyCS opt 0 0 0 0 0 0 0) rfl (by decide) (bodyCS_lt (by omega))
theorem Width.wake (a : Nat) : Width.Statement (.wake a) := fun hi _ => let h0 := of_decide_eq_true hi; width_of_control 0x8C (bodyCS 0 0 0 0 0 0 a 0) rfl (by decide) (bodyCS_lt (by omega))
theorem Width.ctxrd (d a w : Nat) : Width.Statement (.ctxrd d a w) := fun hi _ => let ⟨h0, h1, h2⟩ := of_decide_eq_true hi; width_of_control 0x8D (bodyCS 0 0 0 0 w 0 a d) rfl (by decide) (bodyCS_lt (by omega))
theorem Width.ctxwr (a b w : Nat) : Width.Statement (.ctxwr a b w) := fun hi _ => let ⟨h0, h1, h2⟩ := of_decide_eq_true hi; width_of_control 0x8E (bodyCS 0 0 0 0 w b a 0) rfl (by decide) (bodyCS_lt (by omega))
theorem Width.launch (d a b : Nat) : Width.Statement (.launch d a b) := fun hi _ => let ⟨h0, h1, h2⟩ := of_decide_eq_true hi; width_of_control 0x8F (bodyCS 0 0 0 0 0 b a d) rfl (by decide) (bodyCS_lt (by omega))
theorem Width.iter (d sel : Nat) : Width.Statement (.iter d sel) := fun hi _ => let ⟨h0, h1⟩ := of_decide_eq_true hi; width_of_control 0x90 (bodyCS 0 0 0 0 sel 0 0 d) rfl (by decide) (bodyCS_lt (by omega))
theorem Width.bucket (d sel : Nat) : Width.Statement (.bucket d sel) := fun hi _ => let ⟨h0, h1⟩ := of_decide_eq_true hi; width_of_control 0x91 (bodyCS 0 0 0 0 sel 0 0 d) rfl (by decide) (bodyCS_lt (by omega))
theorem Width.exit : Width.Statement (.exit) := fun _ _ => width_of_control 0x92 (bodyCS 0 0 0 0 0 0 0 0) rfl (by decide) (bodyCS_lt (by omega))
theorem Width.kill : Width.Statement (.kill) := fun _ _ => width_of_control 0x93 (bodyCS 0 0 0 0 0 0 0 0) rfl (by decide) (bodyCS_lt (by omega))
theorem Width.trap (a code : Nat) : Width.Statement (.trap a code) := fun hi _ => let ⟨h0, h1⟩ := of_decide_eq_true hi; width_of_control 0xA0 (bodyCS 0 0 0 0 code 0 a 0) rfl (by decide) (bodyCS_lt (by omega))
theorem Width.syscall (imm : Nat) : Width.Statement (.syscall imm) := fun hi _ => let h0 := of_decide_eq_true hi; width_of_control 0xA1 (bodyCS 0 0 0 imm 0 0 0 0) rfl (by decide) (bodyCS_lt (by omega))
theorem Width.eretResume : Width.Statement (.eretResume) := fun _ _ => width_of_control 0xA2 (bodyCS 0 0 0 0 0 0 0 0) rfl (by decide) (bodyCS_lt (by omega))
theorem Width.eretStep : Width.Statement (.eretStep) := fun _ _ => width_of_none rfl
theorem Width.eretQstep : Width.Statement (.eretQstep) := fun _ _ => width_of_none rfl
theorem Width.eretParkPromise : Width.Statement (.eretParkPromise) := fun _ _ => width_of_none rfl
theorem Width.eretParkExplicit : Width.Statement (.eretParkExplicit) := fun _ _ => width_of_none rfl
theorem Width.eretReady : Width.Statement (.eretReady) := fun _ _ => width_of_none rfl
theorem Width.eretKill : Width.Statement (.eretKill) := fun _ _ => width_of_none rfl
theorem Width.eretEscalate : Width.Statement (.eretEscalate) := fun _ _ => width_of_none rfl
theorem Width.sysrd (d num : Nat) : Width.Statement (.sysrd d num) := fun hi _ => let ⟨h0, h1⟩ := of_decide_eq_true hi; width_of_control 0xA3 (bodySYS num 0 0 d) rfl (by decide) (bodySYS_lt (by omega))
theorem Width.syswr (a num : Nat) : Width.Statement (.syswr a num) := fun hi _ => let ⟨h0, h1⟩ := of_decide_eq_true hi; width_of_control 0xA4 (bodySYS num 0 a 0) rfl (by decide) (bodySYS_lt (by omega))
theorem Width.halt : Width.Statement (.halt) := fun _ _ => width_of_control 0xA5 (bodyCS 0 0 0 0 0 0 0 0) rfl (by decide) (bodyCS_lt (by omega))
theorem Width.bkpt (imm : Nat) : Width.Statement (.bkpt imm) := fun hi _ => let h0 := of_decide_eq_true hi; width_of_control 0xA6 (bodyCS 0 0 0 imm 0 0 0 0) rfl (by decide) (bodyCS_lt (by omega))
theorem Width.idle : Width.Statement (.idle) := fun _ _ => width_of_control 0xA7 (bodyCS 0 0 0 0 0 0 0 0) rfl (by decide) (bodyCS_lt (by omega))
theorem Width.shoot (d a b opt : Nat) : Width.Statement (.shoot d a b opt) := fun hi _ => let ⟨h0, h1, h2, h3⟩ := of_decide_eq_true hi; width_of_control 0xA8 (bodyCS opt 0 0 0 0 b a d) rfl (by decide) (bodyCS_lt (by omega))
theorem Width.replset (a deg pin : Nat) : Width.Statement (.replset a deg pin) := fun hi _ => let ⟨h0, h1, h2⟩ := of_decide_eq_true hi; width_of_control 0xA9 (bodyRSET pin deg 0 a 0) rfl (by decide) (bodyRSET_lt (by omega))
theorem Width.keyload (d a b slot : Nat) : Width.Statement (.keyload d a b slot) := fun hi _ => let ⟨h0, h1, h2, h3⟩ := of_decide_eq_true hi; width_of_control 0xAA (bodyCS 0 0 0 0 slot b a d) rfl (by decide) (bodyCS_lt (by omega))
theorem Width.keykill (a slot : Nat) : Width.Statement (.keykill a slot) := fun hi _ => let ⟨h0, h1⟩ := of_decide_eq_true hi; width_of_control 0xAB (bodyCS 0 0 0 0 slot 0 a 0) rfl (by decide) (bodyCS_lt (by omega))
theorem Width.zerosp (a b : Nat) : Width.Statement (.zerosp a b) := fun hi _ => let ⟨h0, h1⟩ := of_decide_eq_true hi; width_of_control 0xAC (bodyCS 0 0 0 0 0 b a 0) rfl (by decide) (bodyCS_lt (by omega))
theorem Width.mark (k : Nat) : Width.Statement (.mark k) := fun hi _ => let h0 := of_decide_eq_true hi; width_of_control 0xAD (bodyCS 0 0 0 0 k 0 0 0) rfl (by decide) (bodyCS_lt (by omega))
theorem Width.causal (a b k delay : Nat) : Width.Statement (.causal a b k delay) := fun hi _ => let ⟨h0, h1, h2, h3⟩ := of_decide_eq_true hi; width_of_control 0xAE (bodyCS 0 0 0 delay k b a 0) rfl (by decide) (bodyCS_lt (by omega))
theorem Width.cntrd (d a : Nat) : Width.Statement (.cntrd d a) := fun hi _ => let ⟨h0, h1⟩ := of_decide_eq_true hi; width_of_control 0xAF (bodyCS 0 0 0 0 0 0 a d) rfl (by decide) (bodyCS_lt (by omega))
theorem Width.qreset (a opt : Nat) : Width.Statement (.qreset a opt) := fun hi _ => let ⟨h0, h1⟩ := of_decide_eq_true hi; width_of_control 0xB0 (bodyCS opt 0 0 0 0 0 a 0) rfl (by decide) (bodyCS_lt (by omega))
theorem Width.dispatch (word : Nat) : Width.Statement (.dispatch word) := fun _ _ => width_of_none rfl
theorem Width.vnop (h : Hdr) : Width.Statement (.vnop h) := fun hi _ => let h0 := of_decide_eq_true hi; width_of_engine 1 0x00 (withReg h (0)) _ rfl rfl (by decide) (by decide) h0 (withReg_lt h0 (by decide))
theorem Width.vadd (h : Hdr) (x : VR) : Width.Statement (.vadd h x) := fun hi _ => let ⟨h0, h1⟩ := of_decide_eq_true hi; width_of_engine 1 0x01 (withReg h (eofVR x)) _ rfl rfl (by decide) (by decide) h0 (withReg_lt h0 (eofVR_lt h1))
theorem Width.vsub (h : Hdr) (x : VR) : Width.Statement (.vsub h x) := fun hi _ => let ⟨h0, h1⟩ := of_decide_eq_true hi; width_of_engine 1 0x02 (withReg h (eofVR x)) _ rfl rfl (by decide) (by decide) h0 (withReg_lt h0 (eofVR_lt h1))
theorem Width.vmul (h : Hdr) (x : VR) : Width.Statement (.vmul h x) := fun hi _ => let ⟨h0, h1⟩ := of_decide_eq_true hi; width_of_engine 1 0x03 (withReg h (eofVR x)) _ rfl rfl (by decide) (by decide) h0 (withReg_lt h0 (eofVR_lt h1))
theorem Width.vfma (h : Hdr) (x : VR) : Width.Statement (.vfma h x) := fun hi _ => let ⟨h0, h1⟩ := of_decide_eq_true hi; width_of_engine 1 0x04 (withReg h (eofVR x)) _ rfl rfl (by decide) (by decide) h0 (withReg_lt h0 (eofVR_lt h1))
theorem Width.vfms (h : Hdr) (x : VR) : Width.Statement (.vfms h x) := fun hi _ => let ⟨h0, h1⟩ := of_decide_eq_true hi; width_of_engine 1 0x05 (withReg h (eofVR x)) _ rfl rfl (by decide) (by decide) h0 (withReg_lt h0 (eofVR_lt h1))
theorem Width.vmin (h : Hdr) (x : VR) : Width.Statement (.vmin h x) := fun hi _ => let ⟨h0, h1⟩ := of_decide_eq_true hi; width_of_engine 1 0x06 (withReg h (eofVR x)) _ rfl rfl (by decide) (by decide) h0 (withReg_lt h0 (eofVR_lt h1))
theorem Width.vmax (h : Hdr) (x : VR) : Width.Statement (.vmax h x) := fun hi _ => let ⟨h0, h1⟩ := of_decide_eq_true hi; width_of_engine 1 0x07 (withReg h (eofVR x)) _ rfl rfl (by decide) (by decide) h0 (withReg_lt h0 (eofVR_lt h1))
theorem Width.vabs (h : Hdr) (x : VR) : Width.Statement (.vabs h x) := fun hi _ => let ⟨h0, h1⟩ := of_decide_eq_true hi; width_of_engine 1 0x08 (withReg h (eofVR x)) _ rfl rfl (by decide) (by decide) h0 (withReg_lt h0 (eofVR_lt h1))
theorem Width.vneg (h : Hdr) (x : VR) : Width.Statement (.vneg h x) := fun hi _ => let ⟨h0, h1⟩ := of_decide_eq_true hi; width_of_engine 1 0x09 (withReg h (eofVR x)) _ rfl rfl (by decide) (by decide) h0 (withReg_lt h0 (eofVR_lt h1))
theorem Width.vrcp (h : Hdr) (x : VR) : Width.Statement (.vrcp h x) := fun hi _ => let ⟨h0, h1⟩ := of_decide_eq_true hi; width_of_engine 1 0x0A (withReg h (eofVR x)) _ rfl rfl (by decide) (by decide) h0 (withReg_lt h0 (eofVR_lt h1))
theorem Width.vrsq (h : Hdr) (x : VR) : Width.Statement (.vrsq h x) := fun hi _ => let ⟨h0, h1⟩ := of_decide_eq_true hi; width_of_engine 1 0x0B (withReg h (eofVR x)) _ rfl rfl (by decide) (by decide) h0 (withReg_lt h0 (eofVR_lt h1))
theorem Width.vexp2 (h : Hdr) (x : VR) : Width.Statement (.vexp2 h x) := fun hi _ => let ⟨h0, h1⟩ := of_decide_eq_true hi; width_of_engine 1 0x0C (withReg h (eofVR x)) _ rfl rfl (by decide) (by decide) h0 (withReg_lt h0 (eofVR_lt h1))
theorem Width.vlog2 (h : Hdr) (x : VR) : Width.Statement (.vlog2 h x) := fun hi _ => let ⟨h0, h1⟩ := of_decide_eq_true hi; width_of_engine 1 0x0D (withReg h (eofVR x)) _ rfl rfl (by decide) (by decide) h0 (withReg_lt h0 (eofVR_lt h1))
theorem Width.vtanh (h : Hdr) (x : VR) : Width.Statement (.vtanh h x) := fun hi _ => let ⟨h0, h1⟩ := of_decide_eq_true hi; width_of_engine 1 0x0E (withReg h (eofVR x)) _ rfl rfl (by decide) (by decide) h0 (withReg_lt h0 (eofVR_lt h1))
theorem Width.vcvt (h : Hdr) (x : VC) : Width.Statement (.vcvt h x) := fun hi _ => let ⟨h0, h1⟩ := of_decide_eq_true hi; width_of_engine 1 0x0F (eofVC x) _ rfl rfl (by decide) (by decide) h0 (eofVC_lt h1)
theorem Width.vand (h : Hdr) (x : VR) : Width.Statement (.vand h x) := fun hi _ => let ⟨h0, h1⟩ := of_decide_eq_true hi; width_of_engine 1 0x10 (withReg h (eofVR x)) _ rfl rfl (by decide) (by decide) h0 (withReg_lt h0 (eofVR_lt h1))
theorem Width.vor (h : Hdr) (x : VR) : Width.Statement (.vor h x) := fun hi _ => let ⟨h0, h1⟩ := of_decide_eq_true hi; width_of_engine 1 0x11 (withReg h (eofVR x)) _ rfl rfl (by decide) (by decide) h0 (withReg_lt h0 (eofVR_lt h1))
theorem Width.vxor (h : Hdr) (x : VR) : Width.Statement (.vxor h x) := fun hi _ => let ⟨h0, h1⟩ := of_decide_eq_true hi; width_of_engine 1 0x12 (withReg h (eofVR x)) _ rfl rfl (by decide) (by decide) h0 (withReg_lt h0 (eofVR_lt h1))
theorem Width.vshl (h : Hdr) (x : VR) : Width.Statement (.vshl h x) := fun hi _ => let ⟨h0, h1⟩ := of_decide_eq_true hi; width_of_engine 1 0x13 (withReg h (eofVR x)) _ rfl rfl (by decide) (by decide) h0 (withReg_lt h0 (eofVR_lt h1))
theorem Width.vshr (h : Hdr) (x : VR) : Width.Statement (.vshr h x) := fun hi _ => let ⟨h0, h1⟩ := of_decide_eq_true hi; width_of_engine 1 0x14 (withReg h (eofVR x)) _ rfl rfl (by decide) (by decide) h0 (withReg_lt h0 (eofVR_lt h1))
theorem Width.vcmp (h : Hdr) (x : VR) : Width.Statement (.vcmp h x) := fun hi _ => let ⟨h0, h1⟩ := of_decide_eq_true hi; width_of_engine 1 0x15 (withReg h (eofVR x)) _ rfl rfl (by decide) (by decide) h0 (withReg_lt h0 (eofVR_lt h1))
theorem Width.vsel (h : Hdr) (x : VR) : Width.Statement (.vsel h x) := fun hi _ => let ⟨h0, h1⟩ := of_decide_eq_true hi; width_of_engine 1 0x16 (withReg h (eofVR x)) _ rfl rfl (by decide) (by decide) h0 (withReg_lt h0 (eofVR_lt h1))
theorem Width.vred (h : Hdr) (x : VR) : Width.Statement (.vred h x) := fun hi _ => let ⟨h0, h1⟩ := of_decide_eq_true hi; width_of_engine 1 0x17 (withReg h (eofVR x)) _ rfl rfl (by decide) (by decide) h0 (withReg_lt h0 (eofVR_lt h1))
theorem Width.vscan (h : Hdr) (x : VR) : Width.Statement (.vscan h x) := fun hi _ => let ⟨h0, h1⟩ := of_decide_eq_true hi; width_of_engine 1 0x18 (withReg h (eofVR x)) _ rfl rfl (by decide) (by decide) h0 (withReg_lt h0 (eofVR_lt h1))
theorem Width.vperm (h : Hdr) (x : VR) : Width.Statement (.vperm h x) := fun hi _ => let ⟨h0, h1⟩ := of_decide_eq_true hi; width_of_engine 1 0x19 (withReg h (eofVR x)) _ rfl rfl (by decide) (by decide) h0 (withReg_lt h0 (eofVR_lt h1))
theorem Width.vbcast (h : Hdr) (x : VR) : Width.Statement (.vbcast h x) := fun hi _ => let ⟨h0, h1⟩ := of_decide_eq_true hi; width_of_engine 1 0x1A (withReg h (eofVR x)) _ rfl rfl (by decide) (by decide) h0 (withReg_lt h0 (eofVR_lt h1))
theorem Width.viota (h : Hdr) (x : VR) : Width.Statement (.viota h x) := fun hi _ => let ⟨h0, h1⟩ := of_decide_eq_true hi; width_of_engine 1 0x1B (withReg h (eofVR x)) _ rfl rfl (by decide) (by decide) h0 (withReg_lt h0 (eofVR_lt h1))
theorem Width.vpack (h : Hdr) (x : VR) : Width.Statement (.vpack h x) := fun hi _ => let ⟨h0, h1⟩ := of_decide_eq_true hi; width_of_engine 1 0x1C (withReg h (eofVR x)) _ rfl rfl (by decide) (by decide) h0 (withReg_lt h0 (eofVR_lt h1))
theorem Width.vunpk (h : Hdr) (x : VR) : Width.Statement (.vunpk h x) := fun hi _ => let ⟨h0, h1⟩ := of_decide_eq_true hi; width_of_engine 1 0x1D (withReg h (eofVR x)) _ rfl rfl (by decide) (by decide) h0 (withReg_lt h0 (eofVR_lt h1))
theorem Width.vqnt (h : Hdr) (x : VC) : Width.Statement (.vqnt h x) := fun hi _ => let ⟨h0, h1⟩ := of_decide_eq_true hi; width_of_engine 1 0x1E (eofVC x) _ rfl rfl (by decide) (by decide) h0 (eofVC_lt h1)
theorem Width.vdqnt (h : Hdr) (x : VC) : Width.Statement (.vdqnt h x) := fun hi _ => let ⟨h0, h1⟩ := of_decide_eq_true hi; width_of_engine 1 0x1F (eofVC x) _ rfl rfl (by decide) (by decide) h0 (eofVC_lt h1)
theorem Width.vld (h : Hdr) (x : VM) : Width.Statement (.vld h x) := fun hi _ => let ⟨h0, h1⟩ := of_decide_eq_true hi; width_of_engine 1 0x20 (withReg h (eofVM x)) _ rfl rfl (by decide) (by decide) h0 (withReg_lt h0 (eofVM_lt h1))
theorem Width.vst (h : Hdr) (x : VM) : Width.Statement (.vst h x) := fun hi _ => let ⟨h0, h1⟩ := of_decide_eq_true hi; width_of_engine 1 0x21 (withReg h (eofVM x)) _ rfl rfl (by decide) (by decide) h0 (withReg_lt h0 (eofVM_lt h1))
theorem Width.vldx (h : Hdr) (x : VX) : Width.Statement (.vldx h x) := fun hi _ => let ⟨h0, h1⟩ := of_decide_eq_true hi; width_of_engine 1 0x22 (withReg h (eofVX x)) _ rfl rfl (by decide) (by decide) h0 (withReg_lt h0 (eofVX_lt h1))
theorem Width.vstx (h : Hdr) (x : VX) : Width.Statement (.vstx h x) := fun hi _ => let ⟨h0, h1⟩ := of_decide_eq_true hi; width_of_engine 1 0x23 (withReg h (eofVX x)) _ rfl rfl (by decide) (by decide) h0 (withReg_lt h0 (eofVX_lt h1))
theorem Width.vmovc (h : Hdr) (vd lane pair : Nat) : Width.Statement (.vmovc h vd lane pair) := fun hi _ => let ⟨h0, h1, h2, h3⟩ := of_decide_eq_true hi; width_of_engine 1 0x24 (withReg h (eofVMOVC vd lane pair)) _ rfl rfl (by decide) (by decide) h0 (withReg_lt h0 (eofVMOVC_lt (by omega)))
theorem Width.vmsk (h : Hdr) (md ma mb mop : Nat) : Width.Statement (.vmsk h md ma mb mop) := fun hi _ => let ⟨h0, h1, h2, h3, h4⟩ := of_decide_eq_true hi; width_of_engine 1 0x25 (withReg h (eofVMSK md ma mb mop)) _ rfl rfl (by decide) (by decide) h0 (withReg_lt h0 (eofVMSK_lt (by omega)))
theorem Width.vtbld (h : Hdr) (sel typ vd va : Nat) : Width.Statement (.vtbld h sel typ vd va) := fun hi _ => let ⟨h0, h1, h2, h3, h4⟩ := of_decide_eq_true hi; width_of_engine 1 0x26 (eofVTBLD sel typ vd va) _ rfl rfl (by decide) (by decide) h0 (eofVTBLD_lt (by omega))
theorem Width.vsmx (h : Hdr) (dlog vd va vb : Nat) : Width.Statement (.vsmx h dlog vd va vb) := fun hi _ => let ⟨h0, h1, h2, h3, h4⟩ := of_decide_eq_true hi; width_of_engine 1 0x27 (withReg h (eofVSMX dlog vd va vb)) _ rfl rfl (by decide) (by decide) h0 (withReg_lt h0 (eofVSMX_lt (by omega)))
theorem Width.veLanding (tile : Nat) : Width.Statement (.veLanding tile) := fun _ _ => width_of_none rfl
theorem Width.mnop (h : Hdr) : Width.Statement (.mnop h) := fun hi _ => let h0 := of_decide_eq_true hi; width_of_engine 2 0x00 (withReg h (0)) _ rfl rfl (by decide) (by decide) h0 (withReg_lt h0 (by decide))
theorem Width.mgo (h : Hdr) : Width.Statement (.mgo h) := fun hi _ => let h0 := of_decide_eq_true hi; width_of_engine 2 0x01 (withReg h (0)) _ rfl rfl (by decide) (by decide) h0 (withReg_lt h0 (by decide))
theorem Width.mmul (h : Hdr) (nsub z : Nat) : Width.Statement (.mmul h nsub z) := fun hi _ => let ⟨h0, h1, h2⟩ := of_decide_eq_true hi; width_of_engine 2 0x02 (withReg h (eofM2 nsub z)) _ rfl rfl (by decide) (by decide) h0 (withReg_lt h0 (eofM2_lt (by omega)))
theorem Width.mgath (h : Hdr) (nsub z nrow : Nat) : Width.Statement (.mgath h nsub z nrow) := fun hi _ => let ⟨h0, h1, h2, h3⟩ := of_decide_eq_true hi; width_of_engine 2 0x03 (withReg h (eofMG nsub z nrow)) _ rfl rfl (by decide) (by decide) h0 (withReg_lt h0 (eofMG_lt (by omega)))
theorem Width.mlut (h : Hdr) (nsub z kb gsz : Nat) : Width.Statement (.mlut h nsub z kb gsz) := fun hi _ => let ⟨h0, h1, h2, h3, h4⟩ := of_decide_eq_true hi; width_of_engine 2 0x04 (withReg h (eofML nsub z kb gsz)) _ rfl rfl (by decide) (by decide) h0 (withReg_lt h0 (eofML_lt (by omega)))
theorem Width.mzero (h : Hdr) : Width.Statement (.mzero h) := fun hi _ => let h0 := of_decide_eq_true hi; width_of_engine 2 0x05 (withReg h (0)) _ rfl rfl (by decide) (by decide) h0 (withReg_lt h0 (by decide))
theorem Width.mdrain (h : Hdr) (x : Drain) : Width.Statement (.mdrain h x) := fun hi _ => let ⟨h0, h1⟩ := of_decide_eq_true hi; width_of_engine 2 0x06 (withReg h (eofMD x)) _ rfl rfl (by decide) (by decide) h0 (withReg_lt h0 (eofMD_lt h1))
theorem Width.xnop (h : Hdr) : Width.Statement (.xnop h) := fun hi _ => let h0 := of_decide_eq_true hi; width_of_engine 3 0x00 (withReg h (0)) _ rfl rfl (by decide) (by decide) h0 (withReg_lt h0 (by decide))
theorem Width.xcpy (h : Hdr) (doff : Nat) : Width.Statement (.xcpy h doff) := fun hi _ => let ⟨h0, h1⟩ := of_decide_eq_true hi; width_of_engine 3 0x01 (withReg h (eofD doff 0)) _ rfl rfl (by decide) (by decide) h0 (withReg_lt h0 (eofD_lt (by omega)))
theorem Width.xbtab (h : Hdr) (doff : Nat) : Width.Statement (.xbtab h doff) := fun hi _ => let ⟨h0, h1⟩ := of_decide_eq_true hi; width_of_engine 3 0x02 (withReg h (eofD doff 0)) _ rfl rfl (by decide) (by decide) h0 (withReg_lt h0 (eofD_lt (by omega)))
theorem Width.xsgl (h : Hdr) (doff : Nat) : Width.Statement (.xsgl h doff) := fun hi _ => let ⟨h0, h1⟩ := of_decide_eq_true hi; width_of_engine 3 0x03 (withReg h (eofD doff 0)) _ rfl rfl (by decide) (by decide) h0 (withReg_lt h0 (eofD_lt (by omega)))
theorem Width.xfill (h : Hdr) (doff : Nat) : Width.Statement (.xfill h doff) := fun hi _ => let ⟨h0, h1⟩ := of_decide_eq_true hi; width_of_engine 3 0x04 (withReg h (eofD doff 0)) _ rfl rfl (by decide) (by decide) h0 (withReg_lt h0 (eofD_lt (by omega)))
theorem Width.xbst (h : Hdr) (doff : Nat) : Width.Statement (.xbst h doff) := fun hi _ => let ⟨h0, h1⟩ := of_decide_eq_true hi; width_of_engine 3 0x05 (withReg h (eofD doff 0)) _ rfl rfl (by decide) (by decide) h0 (withReg_lt h0 (eofD_lt (by omega)))
theorem Width.xmap (h : Hdr) (doff : Nat) : Width.Statement (.xmap h doff) := fun hi _ => let ⟨h0, h1⟩ := of_decide_eq_true hi; width_of_engine 3 0x06 (withReg h (eofD doff 0)) _ rfl rfl (by decide) (by decide) h0 (withReg_lt h0 (eofD_lt (by omega)))
theorem Width.xmapUnmap (h : Hdr) (doff : Nat) : Width.Statement (.xmapUnmap h doff) := fun hi _ => let ⟨h0, h1⟩ := of_decide_eq_true hi; width_of_engine 3 0x06 (withReg h (eofD doff 1)) _ rfl rfl (by decide) (by decide) h0 (withReg_lt h0 (eofD_lt (by omega)))
theorem Width.xmapLazyWriteBack (tile sector : Nat) : Width.Statement (.xmapLazyWriteBack tile sector) := fun _ _ => width_of_none rfl
theorem Width.gnop (h : Hdr) : Width.Statement (.gnop h) := fun hi _ => let h0 := of_decide_eq_true hi; width_of_engine 4 0x00 (withReg h (0)) _ rfl rfl (by decide) (by decide) h0 (withReg_lt h0 (by decide))
theorem Width.ggath (h : Hdr) (doff : Nat) : Width.Statement (.ggath h doff) := fun hi _ => let ⟨h0, h1⟩ := of_decide_eq_true hi; width_of_engine 4 0x01 (withReg h (eofD doff 0)) _ rfl rfl (by decide) (by decide) h0 (withReg_lt h0 (eofD_lt (by omega)))
theorem Width.gscat (h : Hdr) (doff : Nat) : Width.Statement (.gscat h doff) := fun hi _ => let ⟨h0, h1⟩ := of_decide_eq_true hi; width_of_engine 4 0x02 (withReg h (eofD doff 0)) _ rfl rfl (by decide) (by decide) h0 (withReg_lt h0 (eofD_lt (by omega)))
theorem Width.gscadd (h : Hdr) (doff : Nat) : Width.Statement (.gscadd h doff) := fun hi _ => let ⟨h0, h1⟩ := of_decide_eq_true hi; width_of_engine 4 0x03 (withReg h (eofD doff 0)) _ rfl rfl (by decide) (by decide) h0 (withReg_lt h0 (eofD_lt (by omega)))
theorem Width.gcmpct (h : Hdr) (doff : Nat) : Width.Statement (.gcmpct h doff) := fun hi _ => let ⟨h0, h1⟩ := of_decide_eq_true hi; width_of_engine 4 0x04 (withReg h (eofD doff 0)) _ rfl rfl (by decide) (by decide) h0 (withReg_lt h0 (eofD_lt (by omega)))
theorem Width.glive (h : Hdr) (doff : Nat) : Width.Statement (.glive h doff) := fun hi _ => let ⟨h0, h1⟩ := of_decide_eq_true hi; width_of_engine 4 0x05 (withReg h (eofD doff 0)) _ rfl rfl (by decide) (by decide) h0 (withReg_lt h0 (eofD_lt (by omega)))
theorem Width.lnop (h : Hdr) : Width.Statement (.lnop h) := fun hi _ => let h0 := of_decide_eq_true hi; width_of_engine 5 0x00 (withReg h (0)) _ rfl rfl (by decide) (by decide) h0 (withReg_lt h0 (by decide))
theorem Width.lput (h : Hdr) (doff : Nat) : Width.Statement (.lput h doff) := fun hi _ => let ⟨h0, h1⟩ := of_decide_eq_true hi; width_of_engine 5 0x01 (withReg h (eofD doff 0)) _ rfl rfl (by decide) (by decide) h0 (withReg_lt h0 (eofD_lt (by omega)))
theorem Width.lget (h : Hdr) (doff : Nat) : Width.Statement (.lget h doff) := fun hi _ => let ⟨h0, h1⟩ := of_decide_eq_true hi; width_of_engine 5 0x02 (withReg h (eofD doff 0)) _ rfl rfl (by decide) (by decide) h0 (withReg_lt h0 (eofD_lt (by omega)))
theorem Width.lenq (h : Hdr) (doff : Nat) : Width.Statement (.lenq h doff) := fun hi _ => let ⟨h0, h1⟩ := of_decide_eq_true hi; width_of_engine 5 0x03 (withReg h (eofD doff 0)) _ rfl rfl (by decide) (by decide) h0 (withReg_lt h0 (eofD_lt (by omega)))
theorem Width.lsig (h : Hdr) (doff : Nat) : Width.Statement (.lsig h doff) := fun hi _ => let ⟨h0, h1⟩ := of_decide_eq_true hi; width_of_engine 5 0x04 (withReg h (eofD doff 0)) _ rfl rfl (by decide) (by decide) h0 (withReg_lt h0 (eofD_lt (by omega)))
theorem Width.lred (h : Hdr) (doff : Nat) : Width.Statement (.lred h doff) := fun hi _ => let ⟨h0, h1⟩ := of_decide_eq_true hi; width_of_engine 5 0x05 (withReg h (eofD doff 0)) _ rfl rfl (by decide) (by decide) h0 (withReg_lt h0 (eofD_lt (by omega)))
theorem Width.snop (h : Hdr) : Width.Statement (.snop h) := fun hi _ => let h0 := of_decide_eq_true hi; width_of_engine 6 0x00 (withReg h (0)) _ rfl rfl (by decide) (by decide) h0 (withReg_lt h0 (by decide))
theorem Width.sattn (h : Hdr) (doff : Nat) : Width.Statement (.sattn h doff) := fun hi _ => let ⟨h0, h1⟩ := of_decide_eq_true hi; width_of_engine 6 0x01 (withReg h (eofD doff 0)) _ rfl rfl (by decide) (by decide) h0 (withReg_lt h0 (eofD_lt (by omega)))
theorem Width.skvapp (h : Hdr) (doff : Nat) : Width.Statement (.skvapp h doff) := fun hi _ => let ⟨h0, h1⟩ := of_decide_eq_true hi; width_of_engine 6 0x02 (withReg h (eofD doff 0)) _ rfl rfl (by decide) (by decide) h0 (withReg_lt h0 (eofD_lt (by omega)))
theorem Width.sscore (h : Hdr) (doff : Nat) : Width.Statement (.sscore h doff) := fun hi _ => let ⟨h0, h1⟩ := of_decide_eq_true hi; width_of_engine 6 0x03 (withReg h (eofD doff 0)) _ rfl rfl (by decide) (by decide) h0 (withReg_lt h0 (eofD_lt (by omega)))
theorem Width.scpy (h : Hdr) (doff : Nat) : Width.Statement (.scpy h doff) := fun hi _ => let ⟨h0, h1⟩ := of_decide_eq_true hi; width_of_engine 6 0x04 (withReg h (eofD doff 0)) _ rfl rfl (by decide) (by decide) h0 (withReg_lt h0 (eofD_lt (by omega)))
theorem Width.sprobe (h : Hdr) (doff : Nat) : Width.Statement (.sprobe h doff) := fun hi _ => let ⟨h0, h1⟩ := of_decide_eq_true hi; width_of_engine 6 0x05 (withReg h (eofD doff 0)) _ rfl rfl (by decide) (by decide) h0 (withReg_lt h0 (eofD_lt (by omega)))
theorem Width.map (mtu : Nat) : Width.Statement (.map mtu) := fun _ _ => width_of_none rfl
theorem Width.unmap (mtu : Nat) : Width.Statement (.unmap mtu) := fun _ _ => width_of_none rfl
theorem Width.destroy (mtu : Nat) : Width.Statement (.destroy mtu) := fun _ _ => width_of_none rfl
theorem Width.protect (mtu : Nat) : Width.Statement (.protect mtu) := fun _ _ => width_of_none rfl
theorem Width.pmcFill (tile va : Nat) : Width.Statement (.pmcFill tile va) := fun _ _ => width_of_none rfl
theorem Width.walk (mtu asid va : Nat) : Width.Statement (.walk mtu asid va) := fun _ _ => width_of_none rfl
theorem Width.mtuFill (k : LineKey) : Width.Statement (.mtuFill k) := fun _ _ => width_of_none rfl
theorem Width.mtuWriteBack (k : LineKey) : Width.Statement (.mtuWriteBack k) := fun _ _ => width_of_none rfl
theorem Width.performHeldWrites (k : LineKey) : Width.Statement (.performHeldWrites k) := fun _ _ => width_of_none rfl
theorem Width.deferredFaultRecord (vf : Nat) : Width.Statement (.deferredFaultRecord vf) := fun _ _ => width_of_none rfl
theorem Width.homeRead (tile : Nat) (k : LineKey) : Width.Statement (.homeRead tile k) := fun _ _ => width_of_none rfl
theorem Width.homeOwnership (tile : Nat) (k : LineKey) : Width.Statement (.homeOwnership tile k) := fun _ _ => width_of_none rfl
theorem Width.skim (die : Nat) (k : LineKey) : Width.Statement (.skim die k) := fun _ _ => width_of_none rfl
theorem Width.skimAcknowledgement (die : Nat) (k : LineKey) : Width.Statement (.skimAcknowledgement die k) := fun _ _ => width_of_none rfl
theorem Width.skimsDone (k : LineKey) : Width.Statement (.skimsDone k) := fun _ _ => width_of_none rfl
theorem Width.dropNotice (die : Nat) (k : LineKey) : Width.Statement (.dropNotice die k) := fun _ _ => width_of_none rfl
theorem Width.ownerWriteBack (k : LineKey) : Width.Statement (.ownerWriteBack k) := fun _ _ => width_of_none rfl
theorem Width.ownershipGrant (tile : Nat) (k : LineKey) : Width.Statement (.ownershipGrant tile k) := fun _ _ => width_of_none rfl
theorem Width.rctSweep (die : Nat) : Width.Statement (.rctSweep die) := fun _ _ => width_of_none rfl
theorem Width.scrimwaysChange (die : Nat) : Width.Statement (.scrimwaysChange die) := fun _ _ => width_of_none rfl
theorem Width.snpData (pa : Nat) : Width.Statement (.snpData pa) := fun _ _ => width_of_none rfl
theorem Width.snpInv (pa : Nat) : Width.Statement (.snpInv pa) := fun _ _ => width_of_none rfl
theorem Width.snpCur (pa : Nat) : Width.Statement (.snpCur pa) := fun _ _ => width_of_none rfl
theorem Width.memRdSnpData (pa : Nat) : Width.Statement (.memRdSnpData pa) := fun _ _ => width_of_none rfl
theorem Width.memRdSnpInv (pa : Nat) : Width.Statement (.memRdSnpInv pa) := fun _ _ => width_of_none rfl
theorem Width.memWr (pa : Nat) (d : Line) : Width.Statement (.memWr pa d) := fun _ _ => width_of_none rfl
theorem Width.inboundWrite (pa : Nat) (data : List Byte) : Width.Statement (.inboundWrite pa data) := fun _ _ => width_of_none rfl
theorem Width.dmaDescriptor (writes : List (Nat × List Byte)) (done : Option (Nat × List Byte)) : Width.Statement (.dmaDescriptor writes done) := fun _ _ => width_of_none rfl
theorem Width.rseEvaluate (ctx : Nat) : Width.Statement (.rseEvaluate ctx) := fun _ _ => width_of_none rfl
theorem Width.move (die : Nat) : Width.Statement (.move die) := fun _ _ => width_of_none rfl
theorem Width.deadlineMiss (die : Nat) : Width.Statement (.deadlineMiss die) := fun _ _ => width_of_none rfl
theorem Width.poisonGranule (pa : Nat) : Width.Statement (.poisonGranule pa) := fun _ _ => width_of_none rfl
theorem Width.refetchCleanCopy (die : Nat) (k : LineKey) : Width.Statement (.refetchCleanCopy die k) := fun _ _ => width_of_none rfl
theorem Width.promote (die : Nat) : Width.Statement (.promote die) := fun _ _ => width_of_none rfl
theorem Width.demote (die : Nat) : Width.Statement (.demote die) := fun _ _ => width_of_none rfl
theorem Width.pin (die : Nat) : Width.Statement (.pin die) := fun _ _ => width_of_none rfl
theorem Width.unpin (die : Nat) : Width.Statement (.unpin die) := fun _ _ => width_of_none rfl
theorem Width.refetch (die : Nat) : Width.Statement (.refetch die) := fun _ _ => width_of_none rfl
theorem Width.residencyEvent (die : Nat) : Width.Statement (.residencyEvent die) := fun _ _ => width_of_none rfl
theorem Width.lqprod (f die q n : Nat) : Width.Statement (.lqprod f die q n) := fun _ _ => width_of_none rfl
theorem Width.launchPacket (die q : Nat) : Width.Statement (.launchPacket die q) := fun _ _ => width_of_none rfl
theorem Width.ffence (die q : Nat) : Width.Statement (.ffence die q) := fun _ _ => width_of_none rfl
theorem Width.skip (die q : Nat) : Width.Statement (.skip die q) := fun _ _ => width_of_none rfl
theorem Width.prologue (die q : Nat) : Width.Statement (.prologue die q) := fun _ _ => width_of_none rfl
theorem Width.prologueTimeout (die : Nat) : Width.Statement (.prologueTimeout die) := fun _ _ => width_of_none rfl
theorem Width.formBatch (die group cls : Nat) : Width.Statement (.formBatch die group cls) := fun _ _ => width_of_none rfl
theorem Width.pick (die : Nat) : Width.Statement (.pick die) := fun _ _ => width_of_none rfl
theorem Width.windowRestart (die : Nat) : Width.Statement (.windowRestart die) := fun _ _ => width_of_none rfl
theorem Width.stepStart (step : Nat) : Width.Statement (.stepStart step) := fun _ _ => width_of_none rfl
theorem Width.kernelLoad (tile : Nat) : Width.Statement (.kernelLoad tile) := fun _ _ => width_of_none rfl
theorem Width.handOff (die : Nat) : Width.Statement (.handOff die) := fun _ _ => width_of_none rfl
theorem Width.completionRecord (step : Nat) : Width.Statement (.completionRecord step) := fun _ _ => width_of_none rfl
theorem Width.timeSliceEnd (die : Nat) : Width.Statement (.timeSliceEnd die) := fun _ _ => width_of_none rfl
theorem Width.start (die : Nat) : Width.Statement (.start die) := fun _ _ => width_of_none rfl
theorem Width.preempt (die : Nat) : Width.Statement (.preempt die) := fun _ _ => width_of_none rfl
theorem Width.drop (die : Nat) : Width.Statement (.drop die) := fun _ _ => width_of_none rfl
theorem Width.schedulingEvent (die : Nat) : Width.Statement (.schedulingEvent die) := fun _ _ => width_of_none rfl
theorem Width.phaseUpdate (tile nb k : Nat) : Width.Statement (.phaseUpdate tile nb k) := fun _ _ => width_of_none rfl
theorem Width.tbwaitTimeout (tile : Nat) : Width.Statement (.tbwaitTimeout tile) := fun _ _ => width_of_none rfl
theorem Width.promise (tile : Nat) : Width.Statement (.promise tile) := fun _ _ => width_of_none rfl
theorem Width.watchdog (tile : Nat) : Width.Statement (.watchdog tile) := fun _ _ => width_of_none rfl
theorem Width.trapEntry (tile : Nat) : Width.Statement (.trapEntry tile) := fun _ _ => width_of_none rfl
theorem Width.xeAbandon (tile : Nat) : Width.Statement (.xeAbandon tile) := fun _ _ => width_of_none rfl
theorem Width.peerTransferArrival (m : Delivery) : Width.Statement (.peerTransferArrival m) := fun _ _ => width_of_none rfl
theorem Width.signalArrival (m : Delivery) : Width.Statement (.signalArrival m) := fun _ _ => width_of_none rfl
theorem Width.lenqArrival (m : Delivery) : Width.Statement (.lenqArrival m) := fun _ _ => width_of_none rfl
theorem Width.keySlotZeroing (tile slot rows : Nat) : Width.Statement (.keySlotZeroing tile slot rows) := fun _ _ => width_of_none rfl
theorem Width.qcommit (value : Nat) (who : Who) : Width.Statement (.qcommit value who) := fun _ _ => width_of_none rfl
theorem Width.vfen (hi value : Nat) (who : Who) : Width.Statement (.vfen hi value who) := fun _ _ => width_of_none rfl
theorem Width.status : Width.Statement (.status) := fun _ _ => width_of_none rfl
theorem Width.recover : Width.Statement (.recover) := fun _ _ => width_of_none rfl
theorem Width.reset : Width.Statement (.reset) := fun _ _ => width_of_none rfl
theorem Width.create (die handle : Nat) : Width.Statement (.create die handle) := fun _ _ => width_of_none rfl
theorem Width.free (die handle : Nat) : Width.Statement (.free die handle) := fun _ _ => width_of_none rfl
theorem Width.swapout (die handle : Nat) : Width.Statement (.swapout die handle) := fun _ _ => width_of_none rfl
theorem Width.swapin (die handle : Nat) : Width.Statement (.swapin die handle) := fun _ _ => width_of_none rfl
theorem Width.retrysave (die handle : Nat) : Width.Statement (.retrysave die handle) := fun _ _ => width_of_none rfl
theorem Width.restart (place pc : Nat) : Width.Statement (.restart place pc) := fun _ _ => width_of_none rfl
theorem Width.coreWake (place : Nat) : Width.Statement (.coreWake place) := fun _ _ => width_of_none rfl
theorem Width.dieGating (value : Nat) (retain : Bool) : Width.Statement (.dieGating value retain) := fun _ _ => width_of_none rfl
theorem Width.tickadj (v : Nat) : Width.Statement (.tickadj v) := fun _ _ => width_of_none rfl
theorem Width.stop : Width.Statement (.stop) := fun _ _ => width_of_none rfl
theorem Width.rctQuery (die : Nat) : Width.Statement (.rctQuery die) := fun _ _ => width_of_none rfl
theorem Width.pgdQuery (die : Nat) : Width.Statement (.pgdQuery die) := fun _ _ => width_of_none rfl
theorem Width.rhtQuery (die : Nat) : Width.Statement (.rhtQuery die) := fun _ _ => width_of_none rfl
theorem Width.horizon (f k : Nat) : Width.Statement (.horizon f k) := fun _ _ => width_of_none rfl
theorem Width.replayInput (f k : Nat) : Width.Statement (.replayInput f k) := fun _ _ => width_of_none rfl
theorem Width.causalPause (tile : Nat) : Width.Statement (.causalPause tile) := fun _ _ => width_of_none rfl
theorem Width.functionLevelReset (f : Nat) : Width.Statement (.functionLevelReset f) := fun _ _ => width_of_none rfl
theorem Width.powerGood : Width.Statement (.powerGood) := fun _ _ => width_of_none rfl
theorem Width.dieOnline (die : Nat) (passed : Bool) : Width.Statement (.dieOnline die passed) := fun _ _ => width_of_none rfl
theorem Width.thermalThrottle (island : Nat) : Width.Statement (.thermalThrottle island) := fun _ _ => width_of_none rfl
theorem Width.linkRetry (link : Nat) : Width.Statement (.linkRetry link) := fun _ _ => width_of_none rfl
theorem Width.parityError (tile : Nat) : Width.Statement (.parityError tile) := fun _ _ => width_of_none rfl
theorem Width.registerWrite (off size value : Nat) (who : Who) : Width.Statement (.registerWrite off size value who) := fun _ _ => width_of_none rfl
theorem Width.sleepuTickReached (tile : Nat) : Width.Statement (.sleepuTickReached tile) := fun _ _ => width_of_none rfl
theorem Width.hostAnswer (k : LineKey) (a : HostAns) : Width.Statement (.hostAnswer k a) := fun _ _ => width_of_none rfl
theorem Width.srIovVfEnable (on : Bool) : Width.Statement (.srIovVfEnable on) := fun _ _ => width_of_none rfl
theorem Width.conventionalReset : Width.Statement (.conventionalReset) := fun _ _ => width_of_none rfl
theorem Width.pluginBudgetExpiry (core : Nat) : Width.Statement (.pluginBudgetExpiry core) := fun _ _ => width_of_none rfl
theorem Width.deadlineLeadReached (die : Nat) : Width.Statement (.deadlineLeadReached die) := fun _ _ => width_of_none rfl
theorem Width.frameZeroingEnd (pa : Nat) : Width.Statement (.frameZeroingEnd pa) := fun _ _ => width_of_none rfl
theorem Width.storeLogWriteDone (tile : Nat) : Width.Statement (.storeLogWriteDone tile) := fun _ _ => width_of_none rfl

end Sys2Proof.Laws
end

