-- ==== Sys2Proof/Laws/State.lean ====
section
/-! SUPPORT. What each update of State leaves alone, field by field, and what the updated piece reads as. -/
namespace Sys2Proof.Machine

-- ## A place

@[simp] theorem State.modPlace_agenda (s : State) (p : Nat) (f : Place → Place) : (s.modPlace p f).agenda = s.agenda := rfl
@[simp] theorem State.modPlace_focus (s : State) (p : Nat) (f : Place → Place) : (s.modPlace p f).focus = s.focus := rfl
@[simp] theorem State.modPlace_turn (s : State) (p : Nat) (f : Place → Place) : (s.modPlace p f).turn = s.turn := rfl
@[simp] theorem State.modPlace_cur (s : State) (p : Nat) (f : Place → Place) : (s.modPlace p f).cur = s.cur := rfl
@[simp] theorem State.modPlace_freeCount (s : State) (p : Nat) (f : Place → Place) : (s.modPlace p f).freeCount = s.freeCount := rfl
@[simp] theorem State.modPlace_tick (s : State) (p : Nat) (f : Place → Place) : (s.modPlace p f).tick = s.tick := rfl
@[simp] theorem State.modPlace_stopped (s : State) (p : Nat) (f : Place → Place) : (s.modPlace p f).stopped = s.stopped := rfl
@[simp] theorem State.modPlace_barriers (s : State) (p : Nat) (f : Place → Place) : (s.modPlace p f).barriers = s.barriers := rfl
@[simp] theorem State.modPlace_peers (s : State) (p : Nat) (f : Place → Place) : (s.modPlace p f).peers = s.peers := rfl
@[simp] theorem State.modPlace_pushes (s : State) (p : Nat) (f : Place → Place) : (s.modPlace p f).pushes = s.pushes := rfl
@[simp] theorem State.modPlace_mem (s : State) (p : Nat) (f : Place → Place) : (s.modPlace p f).mem = s.mem := rfl
@[simp] theorem State.modPlace_asdBase (s : State) (p : Nat) (f : Place → Place) : (s.modPlace p f).asdBase = s.asdBase := rfl
@[simp] theorem State.modPlace_roots (s : State) (p : Nat) (f : Place → Place) : (s.modPlace p f).roots = s.roots := rfl
@[simp] theorem State.modPlace_badTargets (s : State) (p : Nat) (f : Place → Place) : (s.modPlace p f).badTargets = s.badTargets := rfl
@[simp] theorem State.modPlace_regions (s : State) (p : Nat) (f : Place → Place) : (s.modPlace p f).regions = s.regions := rfl
@[simp] theorem State.modPlace_pgd (s : State) (p : Nat) (f : Place → Place) : (s.modPlace p f).pgd = s.pgd := rfl
@[simp] theorem State.modPlace_mtus (s : State) (p : Nat) (f : Place → Place) : (s.modPlace p f).mtus = s.mtus := rfl
@[simp] theorem State.modPlace_home (s : State) (p : Nat) (f : Place → Place) : (s.modPlace p f).home = s.home := rfl
@[simp] theorem State.modPlace_replicas (s : State) (p : Nat) (f : Place → Place) : (s.modPlace p f).replicas = s.replicas := rfl
@[simp] theorem State.modPlace_dirs (s : State) (p : Nat) (f : Place → Place) : (s.modPlace p f).dirs = s.dirs := rfl
@[simp] theorem State.modPlace_hosts (s : State) (p : Nat) (f : Place → Place) : (s.modPlace p f).hosts = s.hosts := rfl
@[simp] theorem State.modPlace_msgs (s : State) (p : Nat) (f : Place → Place) : (s.modPlace p f).msgs = s.msgs := rfl
@[simp] theorem State.modPlace_held (s : State) (p : Nat) (f : Place → Place) : (s.modPlace p f).held = s.held := rfl
@[simp] theorem State.modPlace_fids (s : State) (p : Nat) (f : Place → Place) : (s.modPlace p f).fids = s.fids := rfl
@[simp] theorem State.modPlace_dfrs (s : State) (p : Nat) (f : Place → Place) : (s.modPlace p f).dfrs = s.dfrs := rfl
@[simp] theorem State.modPlace_zeroing (s : State) (p : Nat) (f : Place → Place) : (s.modPlace p f).zeroing = s.zeroing := rfl
@[simp] theorem State.modPlace_holdArea (s : State) (p : Nat) (f : Place → Place) : (s.modPlace p f).holdArea = s.holdArea := rfl
@[simp] theorem State.modPlace_holdWait (s : State) (p : Nat) (f : Place → Place) : (s.modPlace p f).holdWait = s.holdWait := rfl
@[simp] theorem State.modPlace_unpopulated (s : State) (p : Nat) (f : Place → Place) : (s.modPlace p f).unpopulated = s.unpopulated := rfl
@[simp] theorem State.modPlace_rses (s : State) (p : Nat) (f : Place → Place) : (s.modPlace p f).rses = s.rses := rfl
@[simp] theorem State.modPlace_scrimWays (s : State) (p : Nat) (f : Place → Place) : (s.modPlace p f).scrimWays = s.scrimWays := rfl
@[simp] theorem State.modPlace_scrimCounts (s : State) (p : Nat) (f : Place → Place) : (s.modPlace p f).scrimCounts = s.scrimCounts := rfl
@[simp] theorem State.modPlace_swept (s : State) (p : Nat) (f : Place → Place) : (s.modPlace p f).swept = s.swept := rfl
@[simp] theorem State.modPlace_scrimDue (s : State) (p : Nat) (f : Place → Place) : (s.modPlace p f).scrimDue = s.scrimDue := rfl
@[simp] theorem State.modPlace_poisonAsks (s : State) (p : Nat) (f : Place → Place) : (s.modPlace p f).poisonAsks = s.poisonAsks := rfl
@[simp] theorem State.modPlace_qresets (s : State) (p : Nat) (f : Place → Place) : (s.modPlace p f).qresets = s.qresets := rfl
@[simp] theorem State.modPlace_gated (s : State) (p : Nat) (f : Place → Place) : (s.modPlace p f).gated = s.gated := rfl
@[simp] theorem State.modPlace_gating (s : State) (p : Nat) (f : Place → Place) : (s.modPlace p f).gating = s.gating := rfl
@[simp] theorem State.modPlace_retained (s : State) (p : Nat) (f : Place → Place) : (s.modPlace p f).retained = s.retained := rfl
@[simp] theorem State.modPlace_storeSeq (s : State) (p : Nat) (f : Place → Place) : (s.modPlace p f).storeSeq = s.storeSeq := rfl
@[simp] theorem State.modPlace_ctxAsync (s : State) (p : Nat) (f : Place → Place) : (s.modPlace p f).ctxAsync = s.ctxAsync := rfl
@[simp] theorem State.modPlace_waiters (s : State) (p : Nat) (f : Place → Place) : (s.modPlace p f).waiters = s.waiters := rfl
@[simp] theorem State.modPlace_fenceMask (s : State) (p : Nat) (f : Place → Place) : (s.modPlace p f).fenceMask = s.fenceMask := rfl
@[simp] theorem State.modPlace_lateLine (s : State) (p : Nat) (f : Place → Place) : (s.modPlace p f).lateLine = s.lateLine := rfl
@[simp] theorem State.modPlace_lateHeld (s : State) (p : Nat) (f : Place → Place) : (s.modPlace p f).lateHeld = s.lateHeld := rfl
@[simp] theorem State.modPlace_queueSaved (s : State) (p : Nat) (f : Place → Place) : (s.modPlace p f).queueSaved = s.queueSaved := rfl
@[simp] theorem State.modPlace_mapSaved (s : State) (p : Nat) (f : Place → Place) : (s.modPlace p f).mapSaved = s.mapSaved := rfl
@[simp] theorem State.modPlace_parkPos (s : State) (p : Nat) (f : Place → Place) : (s.modPlace p f).parkPos = s.parkPos := rfl
@[simp] theorem State.modPlace_progress (s : State) (p : Nat) (f : Place → Place) : (s.modPlace p f).progress = s.progress := rfl
@[simp] theorem State.modPlace_lqs (s : State) (p : Nat) (f : Place → Place) : (s.modPlace p f).lqs = s.lqs := rfl
@[simp] theorem State.modPlace_steps (s : State) (p : Nat) (f : Place → Place) : (s.modPlace p f).steps = s.steps := rfl
@[simp] theorem State.modPlace_nextStep (s : State) (p : Nat) (f : Place → Place) : (s.modPlace p f).nextStep = s.nextStep := rfl
@[simp] theorem State.modPlace_cxs (s : State) (p : Nat) (f : Place → Place) : (s.modPlace p f).cxs = s.cxs := rfl
@[simp] theorem State.modPlace_prologues (s : State) (p : Nat) (f : Place → Place) : (s.modPlace p f).prologues = s.prologues := rfl
@[simp] theorem State.modPlace_lqTurn (s : State) (p : Nat) (f : Place → Place) : (s.modPlace p f).lqTurn = s.lqTurn := rfl
@[simp] theorem State.modPlace_cpls (s : State) (p : Nat) (f : Place → Place) : (s.modPlace p f).cpls = s.cpls := rfl
@[simp] theorem State.modPlace_reports (s : State) (p : Nat) (f : Place → Place) : (s.modPlace p f).reports = s.reports := rfl
@[simp] theorem State.modPlace_traces (s : State) (p : Nat) (f : Place → Place) : (s.modPlace p f).traces = s.traces := rfl
@[simp] theorem State.modPlace_dreg (s : State) (p : Nat) (f : Place → Place) : (s.modPlace p f).dreg = s.dreg := rfl
@[simp] theorem State.modPlace_vfEnable (s : State) (p : Nat) (f : Place → Place) : (s.modPlace p f).vfEnable = s.vfEnable := rfl
@[simp] theorem State.modPlace_minimal (s : State) (p : Nat) (f : Place → Place) : (s.modPlace p f).minimal = s.minimal := rfl
@[simp] theorem State.modPlace_msix (s : State) (p : Nat) (f : Place → Place) : (s.modPlace p f).msix = s.msix := rfl
@[simp] theorem State.modPlace_fusedSvn (s : State) (p : Nat) (f : Place → Place) : (s.modPlace p f).fusedSvn = s.fusedSvn := rfl
@[simp] theorem State.modPlace_stopTick (s : State) (p : Nat) (f : Place → Place) : (s.modPlace p f).stopTick = s.stopTick := rfl
@[simp] theorem State.modPlace_tested (s : State) (p : Nat) (f : Place → Place) : (s.modPlace p f).tested = s.tested := rfl
@[simp] theorem State.modPlace_flashA (s : State) (p : Nat) (f : Place → Place) : (s.modPlace p f).flashA = s.flashA := rfl
@[simp] theorem State.modPlace_flashB (s : State) (p : Nat) (f : Place → Place) : (s.modPlace p f).flashB = s.flashB := rfl
@[simp] theorem State.modPlace_throttled (s : State) (p : Nat) (f : Place → Place) : (s.modPlace p f).throttled = s.throttled := rfl
@[simp] theorem State.modPlace_recSlots (s : State) (p : Nat) (f : Place → Place) : (s.modPlace p f).recSlots = s.recSlots := rfl

-- ## Bytes of memory

@[simp] theorem State.memWrite_agenda (s : State) (a : Nat) (bs : List Byte) : (s.memWrite a bs).agenda = s.agenda := rfl
@[simp] theorem State.memWrite_focus (s : State) (a : Nat) (bs : List Byte) : (s.memWrite a bs).focus = s.focus := rfl
@[simp] theorem State.memWrite_turn (s : State) (a : Nat) (bs : List Byte) : (s.memWrite a bs).turn = s.turn := rfl
@[simp] theorem State.memWrite_cur (s : State) (a : Nat) (bs : List Byte) : (s.memWrite a bs).cur = s.cur := rfl
@[simp] theorem State.memWrite_freeCount (s : State) (a : Nat) (bs : List Byte) : (s.memWrite a bs).freeCount = s.freeCount := rfl
@[simp] theorem State.memWrite_tick (s : State) (a : Nat) (bs : List Byte) : (s.memWrite a bs).tick = s.tick := rfl
@[simp] theorem State.memWrite_stopped (s : State) (a : Nat) (bs : List Byte) : (s.memWrite a bs).stopped = s.stopped := rfl
@[simp] theorem State.memWrite_places (s : State) (a : Nat) (bs : List Byte) : (s.memWrite a bs).places = s.places := rfl
@[simp] theorem State.memWrite_barriers (s : State) (a : Nat) (bs : List Byte) : (s.memWrite a bs).barriers = s.barriers := rfl
@[simp] theorem State.memWrite_peers (s : State) (a : Nat) (bs : List Byte) : (s.memWrite a bs).peers = s.peers := rfl
@[simp] theorem State.memWrite_pushes (s : State) (a : Nat) (bs : List Byte) : (s.memWrite a bs).pushes = s.pushes := rfl
@[simp] theorem State.memWrite_asdBase (s : State) (a : Nat) (bs : List Byte) : (s.memWrite a bs).asdBase = s.asdBase := rfl
@[simp] theorem State.memWrite_roots (s : State) (a : Nat) (bs : List Byte) : (s.memWrite a bs).roots = s.roots := rfl
@[simp] theorem State.memWrite_badTargets (s : State) (a : Nat) (bs : List Byte) : (s.memWrite a bs).badTargets = s.badTargets := rfl
@[simp] theorem State.memWrite_regions (s : State) (a : Nat) (bs : List Byte) : (s.memWrite a bs).regions = s.regions := rfl
@[simp] theorem State.memWrite_pgd (s : State) (a : Nat) (bs : List Byte) : (s.memWrite a bs).pgd = s.pgd := rfl
@[simp] theorem State.memWrite_mtus (s : State) (a : Nat) (bs : List Byte) : (s.memWrite a bs).mtus = s.mtus := rfl
@[simp] theorem State.memWrite_home (s : State) (a : Nat) (bs : List Byte) : (s.memWrite a bs).home = s.home := rfl
@[simp] theorem State.memWrite_replicas (s : State) (a : Nat) (bs : List Byte) : (s.memWrite a bs).replicas = s.replicas := rfl
@[simp] theorem State.memWrite_dirs (s : State) (a : Nat) (bs : List Byte) : (s.memWrite a bs).dirs = s.dirs := rfl
@[simp] theorem State.memWrite_hosts (s : State) (a : Nat) (bs : List Byte) : (s.memWrite a bs).hosts = s.hosts := rfl
@[simp] theorem State.memWrite_msgs (s : State) (a : Nat) (bs : List Byte) : (s.memWrite a bs).msgs = s.msgs := rfl
@[simp] theorem State.memWrite_held (s : State) (a : Nat) (bs : List Byte) : (s.memWrite a bs).held = s.held := rfl
@[simp] theorem State.memWrite_fids (s : State) (a : Nat) (bs : List Byte) : (s.memWrite a bs).fids = s.fids := rfl
@[simp] theorem State.memWrite_dfrs (s : State) (a : Nat) (bs : List Byte) : (s.memWrite a bs).dfrs = s.dfrs := rfl
@[simp] theorem State.memWrite_zeroing (s : State) (a : Nat) (bs : List Byte) : (s.memWrite a bs).zeroing = s.zeroing := rfl
@[simp] theorem State.memWrite_holdArea (s : State) (a : Nat) (bs : List Byte) : (s.memWrite a bs).holdArea = s.holdArea := rfl
@[simp] theorem State.memWrite_holdWait (s : State) (a : Nat) (bs : List Byte) : (s.memWrite a bs).holdWait = s.holdWait := rfl
@[simp] theorem State.memWrite_unpopulated (s : State) (a : Nat) (bs : List Byte) : (s.memWrite a bs).unpopulated = s.unpopulated := rfl
@[simp] theorem State.memWrite_rses (s : State) (a : Nat) (bs : List Byte) : (s.memWrite a bs).rses = s.rses := rfl
@[simp] theorem State.memWrite_scrimWays (s : State) (a : Nat) (bs : List Byte) : (s.memWrite a bs).scrimWays = s.scrimWays := rfl
@[simp] theorem State.memWrite_scrimCounts (s : State) (a : Nat) (bs : List Byte) : (s.memWrite a bs).scrimCounts = s.scrimCounts := rfl
@[simp] theorem State.memWrite_swept (s : State) (a : Nat) (bs : List Byte) : (s.memWrite a bs).swept = s.swept := rfl
@[simp] theorem State.memWrite_scrimDue (s : State) (a : Nat) (bs : List Byte) : (s.memWrite a bs).scrimDue = s.scrimDue := rfl
@[simp] theorem State.memWrite_poisonAsks (s : State) (a : Nat) (bs : List Byte) : (s.memWrite a bs).poisonAsks = s.poisonAsks := rfl
@[simp] theorem State.memWrite_qresets (s : State) (a : Nat) (bs : List Byte) : (s.memWrite a bs).qresets = s.qresets := rfl
@[simp] theorem State.memWrite_gated (s : State) (a : Nat) (bs : List Byte) : (s.memWrite a bs).gated = s.gated := rfl
@[simp] theorem State.memWrite_gating (s : State) (a : Nat) (bs : List Byte) : (s.memWrite a bs).gating = s.gating := rfl
@[simp] theorem State.memWrite_retained (s : State) (a : Nat) (bs : List Byte) : (s.memWrite a bs).retained = s.retained := rfl
@[simp] theorem State.memWrite_storeSeq (s : State) (a : Nat) (bs : List Byte) : (s.memWrite a bs).storeSeq = s.storeSeq := rfl
@[simp] theorem State.memWrite_ctxAsync (s : State) (a : Nat) (bs : List Byte) : (s.memWrite a bs).ctxAsync = s.ctxAsync := rfl
@[simp] theorem State.memWrite_waiters (s : State) (a : Nat) (bs : List Byte) : (s.memWrite a bs).waiters = s.waiters := rfl
@[simp] theorem State.memWrite_fenceMask (s : State) (a : Nat) (bs : List Byte) : (s.memWrite a bs).fenceMask = s.fenceMask := rfl
@[simp] theorem State.memWrite_lateLine (s : State) (a : Nat) (bs : List Byte) : (s.memWrite a bs).lateLine = s.lateLine := rfl
@[simp] theorem State.memWrite_lateHeld (s : State) (a : Nat) (bs : List Byte) : (s.memWrite a bs).lateHeld = s.lateHeld := rfl
@[simp] theorem State.memWrite_queueSaved (s : State) (a : Nat) (bs : List Byte) : (s.memWrite a bs).queueSaved = s.queueSaved := rfl
@[simp] theorem State.memWrite_mapSaved (s : State) (a : Nat) (bs : List Byte) : (s.memWrite a bs).mapSaved = s.mapSaved := rfl
@[simp] theorem State.memWrite_parkPos (s : State) (a : Nat) (bs : List Byte) : (s.memWrite a bs).parkPos = s.parkPos := rfl
@[simp] theorem State.memWrite_progress (s : State) (a : Nat) (bs : List Byte) : (s.memWrite a bs).progress = s.progress := rfl
@[simp] theorem State.memWrite_lqs (s : State) (a : Nat) (bs : List Byte) : (s.memWrite a bs).lqs = s.lqs := rfl
@[simp] theorem State.memWrite_steps (s : State) (a : Nat) (bs : List Byte) : (s.memWrite a bs).steps = s.steps := rfl
@[simp] theorem State.memWrite_nextStep (s : State) (a : Nat) (bs : List Byte) : (s.memWrite a bs).nextStep = s.nextStep := rfl
@[simp] theorem State.memWrite_cxs (s : State) (a : Nat) (bs : List Byte) : (s.memWrite a bs).cxs = s.cxs := rfl
@[simp] theorem State.memWrite_prologues (s : State) (a : Nat) (bs : List Byte) : (s.memWrite a bs).prologues = s.prologues := rfl
@[simp] theorem State.memWrite_lqTurn (s : State) (a : Nat) (bs : List Byte) : (s.memWrite a bs).lqTurn = s.lqTurn := rfl
@[simp] theorem State.memWrite_cpls (s : State) (a : Nat) (bs : List Byte) : (s.memWrite a bs).cpls = s.cpls := rfl
@[simp] theorem State.memWrite_reports (s : State) (a : Nat) (bs : List Byte) : (s.memWrite a bs).reports = s.reports := rfl
@[simp] theorem State.memWrite_traces (s : State) (a : Nat) (bs : List Byte) : (s.memWrite a bs).traces = s.traces := rfl
@[simp] theorem State.memWrite_dreg (s : State) (a : Nat) (bs : List Byte) : (s.memWrite a bs).dreg = s.dreg := rfl
@[simp] theorem State.memWrite_vfEnable (s : State) (a : Nat) (bs : List Byte) : (s.memWrite a bs).vfEnable = s.vfEnable := rfl
@[simp] theorem State.memWrite_minimal (s : State) (a : Nat) (bs : List Byte) : (s.memWrite a bs).minimal = s.minimal := rfl
@[simp] theorem State.memWrite_msix (s : State) (a : Nat) (bs : List Byte) : (s.memWrite a bs).msix = s.msix := rfl
@[simp] theorem State.memWrite_fusedSvn (s : State) (a : Nat) (bs : List Byte) : (s.memWrite a bs).fusedSvn = s.fusedSvn := rfl
@[simp] theorem State.memWrite_stopTick (s : State) (a : Nat) (bs : List Byte) : (s.memWrite a bs).stopTick = s.stopTick := rfl
@[simp] theorem State.memWrite_tested (s : State) (a : Nat) (bs : List Byte) : (s.memWrite a bs).tested = s.tested := rfl
@[simp] theorem State.memWrite_flashA (s : State) (a : Nat) (bs : List Byte) : (s.memWrite a bs).flashA = s.flashA := rfl
@[simp] theorem State.memWrite_flashB (s : State) (a : Nat) (bs : List Byte) : (s.memWrite a bs).flashB = s.flashB := rfl
@[simp] theorem State.memWrite_throttled (s : State) (a : Nat) (bs : List Byte) : (s.memWrite a bs).throttled = s.throttled := rfl
@[simp] theorem State.memWrite_recSlots (s : State) (a : Nat) (bs : List Byte) : (s.memWrite a bs).recSlots = s.recSlots := rfl

-- ## A device register

@[simp] theorem State.setReg_agenda (s : State) (o : Nat) (v : Word) : (s.setReg o v).agenda = s.agenda := rfl
@[simp] theorem State.setReg_focus (s : State) (o : Nat) (v : Word) : (s.setReg o v).focus = s.focus := rfl
@[simp] theorem State.setReg_turn (s : State) (o : Nat) (v : Word) : (s.setReg o v).turn = s.turn := rfl
@[simp] theorem State.setReg_cur (s : State) (o : Nat) (v : Word) : (s.setReg o v).cur = s.cur := rfl
@[simp] theorem State.setReg_freeCount (s : State) (o : Nat) (v : Word) : (s.setReg o v).freeCount = s.freeCount := rfl
@[simp] theorem State.setReg_tick (s : State) (o : Nat) (v : Word) : (s.setReg o v).tick = s.tick := rfl
@[simp] theorem State.setReg_stopped (s : State) (o : Nat) (v : Word) : (s.setReg o v).stopped = s.stopped := rfl
@[simp] theorem State.setReg_places (s : State) (o : Nat) (v : Word) : (s.setReg o v).places = s.places := rfl
@[simp] theorem State.setReg_barriers (s : State) (o : Nat) (v : Word) : (s.setReg o v).barriers = s.barriers := rfl
@[simp] theorem State.setReg_peers (s : State) (o : Nat) (v : Word) : (s.setReg o v).peers = s.peers := rfl
@[simp] theorem State.setReg_pushes (s : State) (o : Nat) (v : Word) : (s.setReg o v).pushes = s.pushes := rfl
@[simp] theorem State.setReg_mem (s : State) (o : Nat) (v : Word) : (s.setReg o v).mem = s.mem := rfl
@[simp] theorem State.setReg_asdBase (s : State) (o : Nat) (v : Word) : (s.setReg o v).asdBase = s.asdBase := rfl
@[simp] theorem State.setReg_roots (s : State) (o : Nat) (v : Word) : (s.setReg o v).roots = s.roots := rfl
@[simp] theorem State.setReg_badTargets (s : State) (o : Nat) (v : Word) : (s.setReg o v).badTargets = s.badTargets := rfl
@[simp] theorem State.setReg_regions (s : State) (o : Nat) (v : Word) : (s.setReg o v).regions = s.regions := rfl
@[simp] theorem State.setReg_pgd (s : State) (o : Nat) (v : Word) : (s.setReg o v).pgd = s.pgd := rfl
@[simp] theorem State.setReg_mtus (s : State) (o : Nat) (v : Word) : (s.setReg o v).mtus = s.mtus := rfl
@[simp] theorem State.setReg_home (s : State) (o : Nat) (v : Word) : (s.setReg o v).home = s.home := rfl
@[simp] theorem State.setReg_replicas (s : State) (o : Nat) (v : Word) : (s.setReg o v).replicas = s.replicas := rfl
@[simp] theorem State.setReg_dirs (s : State) (o : Nat) (v : Word) : (s.setReg o v).dirs = s.dirs := rfl
@[simp] theorem State.setReg_hosts (s : State) (o : Nat) (v : Word) : (s.setReg o v).hosts = s.hosts := rfl
@[simp] theorem State.setReg_msgs (s : State) (o : Nat) (v : Word) : (s.setReg o v).msgs = s.msgs := rfl
@[simp] theorem State.setReg_held (s : State) (o : Nat) (v : Word) : (s.setReg o v).held = s.held := rfl
@[simp] theorem State.setReg_fids (s : State) (o : Nat) (v : Word) : (s.setReg o v).fids = s.fids := rfl
@[simp] theorem State.setReg_dfrs (s : State) (o : Nat) (v : Word) : (s.setReg o v).dfrs = s.dfrs := rfl
@[simp] theorem State.setReg_zeroing (s : State) (o : Nat) (v : Word) : (s.setReg o v).zeroing = s.zeroing := rfl
@[simp] theorem State.setReg_holdArea (s : State) (o : Nat) (v : Word) : (s.setReg o v).holdArea = s.holdArea := rfl
@[simp] theorem State.setReg_holdWait (s : State) (o : Nat) (v : Word) : (s.setReg o v).holdWait = s.holdWait := rfl
@[simp] theorem State.setReg_unpopulated (s : State) (o : Nat) (v : Word) : (s.setReg o v).unpopulated = s.unpopulated := rfl
@[simp] theorem State.setReg_rses (s : State) (o : Nat) (v : Word) : (s.setReg o v).rses = s.rses := rfl
@[simp] theorem State.setReg_scrimWays (s : State) (o : Nat) (v : Word) : (s.setReg o v).scrimWays = s.scrimWays := rfl
@[simp] theorem State.setReg_scrimCounts (s : State) (o : Nat) (v : Word) : (s.setReg o v).scrimCounts = s.scrimCounts := rfl
@[simp] theorem State.setReg_swept (s : State) (o : Nat) (v : Word) : (s.setReg o v).swept = s.swept := rfl
@[simp] theorem State.setReg_scrimDue (s : State) (o : Nat) (v : Word) : (s.setReg o v).scrimDue = s.scrimDue := rfl
@[simp] theorem State.setReg_poisonAsks (s : State) (o : Nat) (v : Word) : (s.setReg o v).poisonAsks = s.poisonAsks := rfl
@[simp] theorem State.setReg_qresets (s : State) (o : Nat) (v : Word) : (s.setReg o v).qresets = s.qresets := rfl
@[simp] theorem State.setReg_gated (s : State) (o : Nat) (v : Word) : (s.setReg o v).gated = s.gated := rfl
@[simp] theorem State.setReg_gating (s : State) (o : Nat) (v : Word) : (s.setReg o v).gating = s.gating := rfl
@[simp] theorem State.setReg_retained (s : State) (o : Nat) (v : Word) : (s.setReg o v).retained = s.retained := rfl
@[simp] theorem State.setReg_storeSeq (s : State) (o : Nat) (v : Word) : (s.setReg o v).storeSeq = s.storeSeq := rfl
@[simp] theorem State.setReg_ctxAsync (s : State) (o : Nat) (v : Word) : (s.setReg o v).ctxAsync = s.ctxAsync := rfl
@[simp] theorem State.setReg_waiters (s : State) (o : Nat) (v : Word) : (s.setReg o v).waiters = s.waiters := rfl
@[simp] theorem State.setReg_fenceMask (s : State) (o : Nat) (v : Word) : (s.setReg o v).fenceMask = s.fenceMask := rfl
@[simp] theorem State.setReg_lateLine (s : State) (o : Nat) (v : Word) : (s.setReg o v).lateLine = s.lateLine := rfl
@[simp] theorem State.setReg_lateHeld (s : State) (o : Nat) (v : Word) : (s.setReg o v).lateHeld = s.lateHeld := rfl
@[simp] theorem State.setReg_queueSaved (s : State) (o : Nat) (v : Word) : (s.setReg o v).queueSaved = s.queueSaved := rfl
@[simp] theorem State.setReg_mapSaved (s : State) (o : Nat) (v : Word) : (s.setReg o v).mapSaved = s.mapSaved := rfl
@[simp] theorem State.setReg_parkPos (s : State) (o : Nat) (v : Word) : (s.setReg o v).parkPos = s.parkPos := rfl
@[simp] theorem State.setReg_progress (s : State) (o : Nat) (v : Word) : (s.setReg o v).progress = s.progress := rfl
@[simp] theorem State.setReg_lqs (s : State) (o : Nat) (v : Word) : (s.setReg o v).lqs = s.lqs := rfl
@[simp] theorem State.setReg_steps (s : State) (o : Nat) (v : Word) : (s.setReg o v).steps = s.steps := rfl
@[simp] theorem State.setReg_nextStep (s : State) (o : Nat) (v : Word) : (s.setReg o v).nextStep = s.nextStep := rfl
@[simp] theorem State.setReg_cxs (s : State) (o : Nat) (v : Word) : (s.setReg o v).cxs = s.cxs := rfl
@[simp] theorem State.setReg_prologues (s : State) (o : Nat) (v : Word) : (s.setReg o v).prologues = s.prologues := rfl
@[simp] theorem State.setReg_lqTurn (s : State) (o : Nat) (v : Word) : (s.setReg o v).lqTurn = s.lqTurn := rfl
@[simp] theorem State.setReg_cpls (s : State) (o : Nat) (v : Word) : (s.setReg o v).cpls = s.cpls := rfl
@[simp] theorem State.setReg_reports (s : State) (o : Nat) (v : Word) : (s.setReg o v).reports = s.reports := rfl
@[simp] theorem State.setReg_traces (s : State) (o : Nat) (v : Word) : (s.setReg o v).traces = s.traces := rfl
@[simp] theorem State.setReg_vfEnable (s : State) (o : Nat) (v : Word) : (s.setReg o v).vfEnable = s.vfEnable := rfl
@[simp] theorem State.setReg_minimal (s : State) (o : Nat) (v : Word) : (s.setReg o v).minimal = s.minimal := rfl
@[simp] theorem State.setReg_msix (s : State) (o : Nat) (v : Word) : (s.setReg o v).msix = s.msix := rfl
@[simp] theorem State.setReg_fusedSvn (s : State) (o : Nat) (v : Word) : (s.setReg o v).fusedSvn = s.fusedSvn := rfl
@[simp] theorem State.setReg_stopTick (s : State) (o : Nat) (v : Word) : (s.setReg o v).stopTick = s.stopTick := rfl
@[simp] theorem State.setReg_tested (s : State) (o : Nat) (v : Word) : (s.setReg o v).tested = s.tested := rfl
@[simp] theorem State.setReg_flashA (s : State) (o : Nat) (v : Word) : (s.setReg o v).flashA = s.flashA := rfl
@[simp] theorem State.setReg_flashB (s : State) (o : Nat) (v : Word) : (s.setReg o v).flashB = s.flashB := rfl
@[simp] theorem State.setReg_throttled (s : State) (o : Nat) (v : Word) : (s.setReg o v).throttled = s.throttled := rfl
@[simp] theorem State.setReg_recSlots (s : State) (o : Nat) (v : Word) : (s.setReg o v).recSlots = s.recSlots := rfl

-- ## An MTU

@[simp] theorem State.modMtu_agenda (s : State) (m : Nat) (f : Mtu → Mtu) : (s.modMtu m f).agenda = s.agenda := rfl
@[simp] theorem State.modMtu_focus (s : State) (m : Nat) (f : Mtu → Mtu) : (s.modMtu m f).focus = s.focus := rfl
@[simp] theorem State.modMtu_turn (s : State) (m : Nat) (f : Mtu → Mtu) : (s.modMtu m f).turn = s.turn := rfl
@[simp] theorem State.modMtu_cur (s : State) (m : Nat) (f : Mtu → Mtu) : (s.modMtu m f).cur = s.cur := rfl
@[simp] theorem State.modMtu_freeCount (s : State) (m : Nat) (f : Mtu → Mtu) : (s.modMtu m f).freeCount = s.freeCount := rfl
@[simp] theorem State.modMtu_tick (s : State) (m : Nat) (f : Mtu → Mtu) : (s.modMtu m f).tick = s.tick := rfl
@[simp] theorem State.modMtu_stopped (s : State) (m : Nat) (f : Mtu → Mtu) : (s.modMtu m f).stopped = s.stopped := rfl
@[simp] theorem State.modMtu_places (s : State) (m : Nat) (f : Mtu → Mtu) : (s.modMtu m f).places = s.places := rfl
@[simp] theorem State.modMtu_barriers (s : State) (m : Nat) (f : Mtu → Mtu) : (s.modMtu m f).barriers = s.barriers := rfl
@[simp] theorem State.modMtu_peers (s : State) (m : Nat) (f : Mtu → Mtu) : (s.modMtu m f).peers = s.peers := rfl
@[simp] theorem State.modMtu_pushes (s : State) (m : Nat) (f : Mtu → Mtu) : (s.modMtu m f).pushes = s.pushes := rfl
@[simp] theorem State.modMtu_mem (s : State) (m : Nat) (f : Mtu → Mtu) : (s.modMtu m f).mem = s.mem := rfl
@[simp] theorem State.modMtu_asdBase (s : State) (m : Nat) (f : Mtu → Mtu) : (s.modMtu m f).asdBase = s.asdBase := rfl
@[simp] theorem State.modMtu_roots (s : State) (m : Nat) (f : Mtu → Mtu) : (s.modMtu m f).roots = s.roots := rfl
@[simp] theorem State.modMtu_badTargets (s : State) (m : Nat) (f : Mtu → Mtu) : (s.modMtu m f).badTargets = s.badTargets := rfl
@[simp] theorem State.modMtu_regions (s : State) (m : Nat) (f : Mtu → Mtu) : (s.modMtu m f).regions = s.regions := rfl
@[simp] theorem State.modMtu_pgd (s : State) (m : Nat) (f : Mtu → Mtu) : (s.modMtu m f).pgd = s.pgd := rfl
@[simp] theorem State.modMtu_home (s : State) (m : Nat) (f : Mtu → Mtu) : (s.modMtu m f).home = s.home := rfl
@[simp] theorem State.modMtu_replicas (s : State) (m : Nat) (f : Mtu → Mtu) : (s.modMtu m f).replicas = s.replicas := rfl
@[simp] theorem State.modMtu_dirs (s : State) (m : Nat) (f : Mtu → Mtu) : (s.modMtu m f).dirs = s.dirs := rfl
@[simp] theorem State.modMtu_hosts (s : State) (m : Nat) (f : Mtu → Mtu) : (s.modMtu m f).hosts = s.hosts := rfl
@[simp] theorem State.modMtu_msgs (s : State) (m : Nat) (f : Mtu → Mtu) : (s.modMtu m f).msgs = s.msgs := rfl
@[simp] theorem State.modMtu_held (s : State) (m : Nat) (f : Mtu → Mtu) : (s.modMtu m f).held = s.held := rfl
@[simp] theorem State.modMtu_fids (s : State) (m : Nat) (f : Mtu → Mtu) : (s.modMtu m f).fids = s.fids := rfl
@[simp] theorem State.modMtu_dfrs (s : State) (m : Nat) (f : Mtu → Mtu) : (s.modMtu m f).dfrs = s.dfrs := rfl
@[simp] theorem State.modMtu_zeroing (s : State) (m : Nat) (f : Mtu → Mtu) : (s.modMtu m f).zeroing = s.zeroing := rfl
@[simp] theorem State.modMtu_holdArea (s : State) (m : Nat) (f : Mtu → Mtu) : (s.modMtu m f).holdArea = s.holdArea := rfl
@[simp] theorem State.modMtu_holdWait (s : State) (m : Nat) (f : Mtu → Mtu) : (s.modMtu m f).holdWait = s.holdWait := rfl
@[simp] theorem State.modMtu_unpopulated (s : State) (m : Nat) (f : Mtu → Mtu) : (s.modMtu m f).unpopulated = s.unpopulated := rfl
@[simp] theorem State.modMtu_rses (s : State) (m : Nat) (f : Mtu → Mtu) : (s.modMtu m f).rses = s.rses := rfl
@[simp] theorem State.modMtu_scrimWays (s : State) (m : Nat) (f : Mtu → Mtu) : (s.modMtu m f).scrimWays = s.scrimWays := rfl
@[simp] theorem State.modMtu_scrimCounts (s : State) (m : Nat) (f : Mtu → Mtu) : (s.modMtu m f).scrimCounts = s.scrimCounts := rfl
@[simp] theorem State.modMtu_swept (s : State) (m : Nat) (f : Mtu → Mtu) : (s.modMtu m f).swept = s.swept := rfl
@[simp] theorem State.modMtu_scrimDue (s : State) (m : Nat) (f : Mtu → Mtu) : (s.modMtu m f).scrimDue = s.scrimDue := rfl
@[simp] theorem State.modMtu_poisonAsks (s : State) (m : Nat) (f : Mtu → Mtu) : (s.modMtu m f).poisonAsks = s.poisonAsks := rfl
@[simp] theorem State.modMtu_qresets (s : State) (m : Nat) (f : Mtu → Mtu) : (s.modMtu m f).qresets = s.qresets := rfl
@[simp] theorem State.modMtu_gated (s : State) (m : Nat) (f : Mtu → Mtu) : (s.modMtu m f).gated = s.gated := rfl
@[simp] theorem State.modMtu_gating (s : State) (m : Nat) (f : Mtu → Mtu) : (s.modMtu m f).gating = s.gating := rfl
@[simp] theorem State.modMtu_retained (s : State) (m : Nat) (f : Mtu → Mtu) : (s.modMtu m f).retained = s.retained := rfl
@[simp] theorem State.modMtu_storeSeq (s : State) (m : Nat) (f : Mtu → Mtu) : (s.modMtu m f).storeSeq = s.storeSeq := rfl
@[simp] theorem State.modMtu_ctxAsync (s : State) (m : Nat) (f : Mtu → Mtu) : (s.modMtu m f).ctxAsync = s.ctxAsync := rfl
@[simp] theorem State.modMtu_waiters (s : State) (m : Nat) (f : Mtu → Mtu) : (s.modMtu m f).waiters = s.waiters := rfl
@[simp] theorem State.modMtu_fenceMask (s : State) (m : Nat) (f : Mtu → Mtu) : (s.modMtu m f).fenceMask = s.fenceMask := rfl
@[simp] theorem State.modMtu_lateLine (s : State) (m : Nat) (f : Mtu → Mtu) : (s.modMtu m f).lateLine = s.lateLine := rfl
@[simp] theorem State.modMtu_lateHeld (s : State) (m : Nat) (f : Mtu → Mtu) : (s.modMtu m f).lateHeld = s.lateHeld := rfl
@[simp] theorem State.modMtu_queueSaved (s : State) (m : Nat) (f : Mtu → Mtu) : (s.modMtu m f).queueSaved = s.queueSaved := rfl
@[simp] theorem State.modMtu_mapSaved (s : State) (m : Nat) (f : Mtu → Mtu) : (s.modMtu m f).mapSaved = s.mapSaved := rfl
@[simp] theorem State.modMtu_parkPos (s : State) (m : Nat) (f : Mtu → Mtu) : (s.modMtu m f).parkPos = s.parkPos := rfl
@[simp] theorem State.modMtu_progress (s : State) (m : Nat) (f : Mtu → Mtu) : (s.modMtu m f).progress = s.progress := rfl
@[simp] theorem State.modMtu_lqs (s : State) (m : Nat) (f : Mtu → Mtu) : (s.modMtu m f).lqs = s.lqs := rfl
@[simp] theorem State.modMtu_steps (s : State) (m : Nat) (f : Mtu → Mtu) : (s.modMtu m f).steps = s.steps := rfl
@[simp] theorem State.modMtu_nextStep (s : State) (m : Nat) (f : Mtu → Mtu) : (s.modMtu m f).nextStep = s.nextStep := rfl
@[simp] theorem State.modMtu_cxs (s : State) (m : Nat) (f : Mtu → Mtu) : (s.modMtu m f).cxs = s.cxs := rfl
@[simp] theorem State.modMtu_prologues (s : State) (m : Nat) (f : Mtu → Mtu) : (s.modMtu m f).prologues = s.prologues := rfl
@[simp] theorem State.modMtu_lqTurn (s : State) (m : Nat) (f : Mtu → Mtu) : (s.modMtu m f).lqTurn = s.lqTurn := rfl
@[simp] theorem State.modMtu_cpls (s : State) (m : Nat) (f : Mtu → Mtu) : (s.modMtu m f).cpls = s.cpls := rfl
@[simp] theorem State.modMtu_reports (s : State) (m : Nat) (f : Mtu → Mtu) : (s.modMtu m f).reports = s.reports := rfl
@[simp] theorem State.modMtu_traces (s : State) (m : Nat) (f : Mtu → Mtu) : (s.modMtu m f).traces = s.traces := rfl
@[simp] theorem State.modMtu_dreg (s : State) (m : Nat) (f : Mtu → Mtu) : (s.modMtu m f).dreg = s.dreg := rfl
@[simp] theorem State.modMtu_vfEnable (s : State) (m : Nat) (f : Mtu → Mtu) : (s.modMtu m f).vfEnable = s.vfEnable := rfl
@[simp] theorem State.modMtu_minimal (s : State) (m : Nat) (f : Mtu → Mtu) : (s.modMtu m f).minimal = s.minimal := rfl
@[simp] theorem State.modMtu_msix (s : State) (m : Nat) (f : Mtu → Mtu) : (s.modMtu m f).msix = s.msix := rfl
@[simp] theorem State.modMtu_fusedSvn (s : State) (m : Nat) (f : Mtu → Mtu) : (s.modMtu m f).fusedSvn = s.fusedSvn := rfl
@[simp] theorem State.modMtu_stopTick (s : State) (m : Nat) (f : Mtu → Mtu) : (s.modMtu m f).stopTick = s.stopTick := rfl
@[simp] theorem State.modMtu_tested (s : State) (m : Nat) (f : Mtu → Mtu) : (s.modMtu m f).tested = s.tested := rfl
@[simp] theorem State.modMtu_flashA (s : State) (m : Nat) (f : Mtu → Mtu) : (s.modMtu m f).flashA = s.flashA := rfl
@[simp] theorem State.modMtu_flashB (s : State) (m : Nat) (f : Mtu → Mtu) : (s.modMtu m f).flashB = s.flashB := rfl
@[simp] theorem State.modMtu_throttled (s : State) (m : Nat) (f : Mtu → Mtu) : (s.modMtu m f).throttled = s.throttled := rfl
@[simp] theorem State.modMtu_recSlots (s : State) (m : Nat) (f : Mtu → Mtu) : (s.modMtu m f).recSlots = s.recSlots := rfl

-- ## What an updated piece reads as

theorem fget_fset_ne {α} [DecidableEq α] (d d' : α) (m : FMap α) (k j : Nat) (a : α) (h : j ≠ k) :
    fget d' (fset d m k a) j = fget d' m j := by
  unfold fset
  split <;> simp [h]

theorem State.place_modPlace (s : State) (p : Nat) (f : Place → Place) (q : Nat) :
    (s.modPlace p f).place q = if q = p then f (s.place p) else s.place q := by
  by_cases h : q = p
  · subst h; simp [State.place, State.modPlace]
  · simp only [State.place, State.modPlace, fmod, h, if_false]
    exact fget_fset_ne _ _ _ _ _ _ h

@[simp] theorem State.place_modPlace_self (s : State) (p : Nat) (f : Place → Place) : (s.modPlace p f).place p = f (s.place p) := by
  simp [State.place_modPlace]
@[simp] theorem State.place_modPlace_ne (s : State) (p : Nat) (f : Place → Place) (q : Nat) (h : q ≠ p) :
    (s.modPlace p f).place q = s.place q := by simp [State.place_modPlace, h]
@[simp] theorem State.place_memWrite (s : State) (a : Nat) (bs : List Byte) (q : Nat) : (s.memWrite a bs).place q = s.place q := rfl
@[simp] theorem State.place_setReg (s : State) (o : Nat) (v : Word) (q : Nat) : (s.setReg o v).place q = s.place q := rfl
@[simp] theorem State.place_modMtu (s : State) (m : Nat) (f : Mtu → Mtu) (q : Nat) : (s.modMtu m f).place q = s.place q := rfl

@[simp] theorem State.cur_modHere (s : State) (f : Place → Place) : (s.modHere f).cur = s.cur := rfl
@[simp] theorem State.here_modHere (s : State) (f : Place → Place) : (s.modHere f).here = f s.here := by simp [State.here, State.modHere]
theorem State.place_modHere (s : State) (f : Place → Place) (q : Nat) :
    (s.modHere f).place q = if q = s.cur then f s.here else s.place q := by simp [State.modHere, State.here, State.place_modPlace]
@[simp] theorem State.mem_modHere (s : State) (f : Place → Place) : (s.modHere f).mem = s.mem := rfl
@[simp] theorem State.steps_modHere (s : State) (f : Place → Place) : (s.modHere f).steps = s.steps := rfl

theorem State.reg_setReg (s : State) (o : Nat) (v : Word) (q : Nat) : (s.setReg o v).reg q = if q = o then v else s.reg q := by
  by_cases h : q = o
  · subst h; simp [State.reg, State.setReg]
  · simp only [State.reg, State.setReg, h, if_false]
    exact fget_fset_ne _ _ _ _ _ _ h
@[simp] theorem State.reg_modPlace (s : State) (p : Nat) (f : Place → Place) (o : Nat) : (s.modPlace p f).reg o = s.reg o := rfl
@[simp] theorem State.reg_modHere (s : State) (f : Place → Place) (o : Nat) : (s.modHere f).reg o = s.reg o := rfl
@[simp] theorem State.reg_memWrite (s : State) (a : Nat) (bs : List Byte) (o : Nat) : (s.memWrite a bs).reg o = s.reg o := rfl

-- ## Cores and registers

@[simp] theorem Core.getG_setG (c : Core) (i : Nat) (v : Word) (r : Nat) :
    (c.setG i v).getG r = if r = i ∧ r ≠ 0 then v else c.getG r := by
  by_cases hi : i = 0
  · subst hi
    by_cases hr : r = 0 <;> simp [Core.setG, Core.getG, hr]
  · by_cases hr : r = 0
    · subst hr; simp [Core.setG, Core.getG, hi]
    · by_cases h : r = i <;> simp [Core.setG, Core.getG, hi, hr, h]
@[simp] theorem Core.getG_zero (c : Core) : c.getG 0 = 0 := rfl
@[simp] theorem Core.f_setG (c : Core) (i : Nat) (v : Word) : (c.setG i v).f = c.f := by unfold Core.setG; split <;> rfl
@[simp] theorem Core.getF_setG (c : Core) (i : Nat) (v : Word) (r : Nat) : (c.setG i v).getF r = c.getF r := by simp [Core.getF]
@[simp] theorem Core.pc_setG (c : Core) (i : Nat) (v : Word) : (c.setG i v).pc = c.pc := by unfold Core.setG; split <;> rfl
@[simp] theorem Core.priv_setG (c : Core) (i : Nat) (v : Word) : (c.setG i v).priv = c.priv := by unfold Core.setG; split <;> rfl
@[simp] theorem Core.getF_setF (c : Core) (i : Nat) (v : Word) (r : Nat) : (c.setF i v).getF r = if r = i then v else c.getF r := by
  simp [Core.getF, Core.setF]
@[simp] theorem Core.getG_setF (c : Core) (i : Nat) (v : Word) (r : Nat) : (c.setF i v).getG r = c.getG r := rfl
@[simp] theorem Core.pc_setF (c : Core) (i : Nat) (v : Word) : (c.setF i v).pc = c.pc := rfl
@[simp] theorem Core.priv_setF (c : Core) (i : Nat) (v : Word) : (c.setF i v).priv = c.priv := rfl

@[simp] theorem Place.core_setCore (t : Place) (c : Core) : (t.setCore c).core = c := by
  by_cases h : t.frozen <;> simp [Place.setCore, Place.core, h]

@[simp] theorem Place.setCore_frozen (t : Place) (c : Core) : (t.setCore c).frozen = t.frozen := by unfold Place.setCore; split <;> rfl
@[simp] theorem Place.setCore_hold (t : Place) (c : Core) : (t.setCore c).hold = t.hold := by unfold Place.setCore; split <;> rfl
@[simp] theorem Place.setCore_ctx (t : Place) (c : Core) : (t.setCore c).ctx = t.ctx := by unfold Place.setCore; split <;> rfl
@[simp] theorem Place.setCore_asid (t : Place) (c : Core) : (t.setCore c).asid = t.asid := by unfold Place.setCore; split <;> rfl
@[simp] theorem Place.setCore_vf (t : Place) (c : Core) : (t.setCore c).vf = t.vf := by unfold Place.setCore; split <;> rfl
@[simp] theorem Place.setCore_owner (t : Place) (c : Core) : (t.setCore c).owner = t.owner := by unfold Place.setCore; split <;> rfl
@[simp] theorem Place.setCore_regbnd (t : Place) (c : Core) : (t.setCore c).regbnd = t.regbnd := by unfold Place.setCore; split <;> rfl
@[simp] theorem Place.setCore_lead (t : Place) (c : Core) : (t.setCore c).lead = t.lead := by unfold Place.setCore; split <;> rfl
@[simp] theorem Place.setCore_srseed (t : Place) (c : Core) : (t.setCore c).srseed = t.srseed := by unfold Place.setCore; split <;> rfl
@[simp] theorem Place.setCore_bmask (t : Place) (c : Core) : (t.setCore c).bmask = t.bmask := by unfold Place.setCore; split <;> rfl
@[simp] theorem Place.setCore_phase (t : Place) (c : Core) : (t.setCore c).phase = t.phase := by unfold Place.setCore; split <;> rfl
@[simp] theorem Place.setCore_nbPhase (t : Place) (c : Core) : (t.setCore c).nbPhase = t.nbPhase := by unfold Place.setCore; split <;> rfl
@[simp] theorem Place.setCore_cause (t : Place) (c : Core) : (t.setCore c).cause = t.cause := by unfold Place.setCore; split <;> rfl
@[simp] theorem Place.setCore_epc (t : Place) (c : Core) : (t.setCore c).epc = t.epc := by unfold Place.setCore; split <;> rfl
@[simp] theorem Place.setCore_cutPc (t : Place) (c : Core) : (t.setCore c).cutPc = t.cutPc := by unfold Place.setCore; split <;> rfl
@[simp] theorem Place.setCore_scEvent (t : Place) (c : Core) : (t.setCore c).scEvent = t.scEvent := by unfold Place.setCore; split <;> rfl
@[simp] theorem Place.setCore_tvec (t : Place) (c : Core) : (t.setCore c).tvec = t.tvec := by unfold Place.setCore; split <;> rfl
@[simp] theorem Place.setCore_exc (t : Place) (c : Core) : (t.setCore c).exc = t.exc := by unfold Place.setCore; split <;> rfl
@[simp] theorem Place.setCore_gpos (t : Place) (c : Core) : (t.setCore c).gpos = t.gpos := by unfold Place.setCore; split <;> rfl
@[simp] theorem Place.setCore_v (t : Place) (c : Core) : (t.setCore c).v = t.v := by unfold Place.setCore; split <;> rfl
@[simp] theorem Place.setCore_m (t : Place) (c : Core) : (t.setCore c).m = t.m := by unfold Place.setCore; split <;> rfl
@[simp] theorem Place.setCore_sem (t : Place) (c : Core) : (t.setCore c).sem = t.sem := by unfold Place.setCore; split <;> rfl
@[simp] theorem Place.setCore_acc (t : Place) (c : Core) : (t.setCore c).acc = t.acc := by unfold Place.setCore; split <;> rfl
@[simp] theorem Place.setCore_accEpoch (t : Place) (c : Core) : (t.setCore c).accEpoch = t.accEpoch := by unfold Place.setCore; split <;> rfl
@[simp] theorem Place.setCore_vesr (t : Place) (c : Core) : (t.setCore c).vesr = t.vesr := by unfold Place.setCore; split <;> rfl
@[simp] theorem Place.setCore_mesr (t : Place) (c : Core) : (t.setCore c).mesr = t.mesr := by unfold Place.setCore; split <;> rfl
@[simp] theorem Place.setCore_rings (t : Place) (c : Core) : (t.setCore c).rings = t.rings := by unfold Place.setCore; split <;> rfl
@[simp] theorem Place.setCore_mcShadow (t : Place) (c : Core) : (t.setCore c).mcShadow = t.mcShadow := by unfold Place.setCore; split <;> rfl
@[simp] theorem Place.setCore_mcPending (t : Place) (c : Core) : (t.setCore c).mcPending = t.mcPending := by unfold Place.setCore; split <;> rfl
@[simp] theorem Place.setCore_mcActive (t : Place) (c : Core) : (t.setCore c).mcActive = t.mcActive := by unfold Place.setCore; split <;> rfl
@[simp] theorem Place.setCore_mcOcc (t : Place) (c : Core) : (t.setCore c).mcOcc = t.mcOcc := by unfold Place.setCore; split <;> rfl
@[simp] theorem Place.setCore_q (t : Place) (c : Core) : (t.setCore c).q = t.q := by unfold Place.setCore; split <;> rfl
@[simp] theorem Place.setCore_landing (t : Place) (c : Core) : (t.setCore c).landing = t.landing := by unfold Place.setCore; split <;> rfl
@[simp] theorem Place.setCore_veIssued (t : Place) (c : Core) : (t.setCore c).veIssued = t.veIssued := by unfold Place.setCore; split <;> rfl
@[simp] theorem Place.setCore_met (t : Place) (c : Core) : (t.setCore c).met = t.met := by unfold Place.setCore; split <;> rfl
@[simp] theorem Place.setCore_qstep (t : Place) (c : Core) : (t.setCore c).qstep = t.qstep := by unfold Place.setCore; split <;> rfl
@[simp] theorem Place.setCore_sp (t : Place) (c : Core) : (t.setCore c).sp = t.sp := by unfold Place.setCore; split <;> rfl
@[simp] theorem Place.setCore_spPoison (t : Place) (c : Core) : (t.setCore c).spPoison = t.spPoison := by unfold Place.setCore; split <;> rfl
@[simp] theorem Place.setCore_spErrors (t : Place) (c : Core) : (t.setCore c).spErrors = t.spErrors := by unfold Place.setCore; split <;> rfl
@[simp] theorem Place.setCore_spEpoch (t : Place) (c : Core) : (t.setCore c).spEpoch = t.spEpoch := by unfold Place.setCore; split <;> rfl
@[simp] theorem Place.setCore_maps (t : Place) (c : Core) : (t.setCore c).maps = t.maps := by unfold Place.setCore; split <;> rfl
@[simp] theorem Place.setCore_mapDirty (t : Place) (c : Core) : (t.setCore c).mapDirty = t.mapDirty := by unfold Place.setCore; split <;> rfl
@[simp] theorem Place.setCore_mapSince (t : Place) (c : Core) : (t.setCore c).mapSince = t.mapSince := by unfold Place.setCore; split <;> rfl
@[simp] theorem Place.setCore_mapFilled (t : Place) (c : Core) : (t.setCore c).mapFilled = t.mapFilled := by unfold Place.setCore; split <;> rfl
@[simp] theorem Place.setCore_bst (t : Place) (c : Core) : (t.setCore c).bst = t.bst := by unfold Place.setCore; split <;> rfl
@[simp] theorem Place.setCore_tags (t : Place) (c : Core) : (t.setCore c).tags = t.tags := by unfold Place.setCore; split <;> rfl
@[simp] theorem Place.setCore_bstBad (t : Place) (c : Core) : (t.setCore c).bstBad = t.bstBad := by unfold Place.setCore; split <;> rfl
@[simp] theorem Place.setCore_tagBad (t : Place) (c : Core) : (t.setCore c).tagBad = t.tagBad := by unfold Place.setCore; split <;> rfl
@[simp] theorem Place.setCore_keys (t : Place) (c : Core) : (t.setCore c).keys = t.keys := by unfold Place.setCore; split <;> rfl
@[simp] theorem Place.setCore_grants (t : Place) (c : Core) : (t.setCore c).grants = t.grants := by unfold Place.setCore; split <;> rfl
@[simp] theorem Place.setCore_kernel (t : Place) (c : Core) : (t.setCore c).kernel = t.kernel := by unfold Place.setCore; split <;> rfl
@[simp] theorem Place.setCore_bstSlots (t : Place) (c : Core) : (t.setCore c).bstSlots = t.bstSlots := by unfold Place.setCore; split <;> rfl
@[simp] theorem Place.setCore_pmc (t : Place) (c : Core) : (t.setCore c).pmc = t.pmc := by unfold Place.setCore; split <;> rfl
@[simp] theorem Place.setCore_l1 (t : Place) (c : Core) : (t.setCore c).l1 = t.l1 := by unfold Place.setCore; split <;> rfl
@[simp] theorem Place.setCore_slog (t : Place) (c : Core) : (t.setCore c).slog = t.slog := by unfold Place.setCore; split <;> rfl
@[simp] theorem Place.setCore_slogBusy (t : Place) (c : Core) : (t.setCore c).slogBusy = t.slogBusy := by unfold Place.setCore; split <;> rfl
@[simp] theorem Place.setCore_order (t : Place) (c : Core) : (t.setCore c).order = t.order := by unfold Place.setCore; split <;> rfl
@[simp] theorem Place.setCore_clock (t : Place) (c : Core) : (t.setCore c).clock = t.clock := by unfold Place.setCore; split <;> rfl
@[simp] theorem Place.setCore_entering (t : Place) (c : Core) : (t.setCore c).entering = t.entering := by unfold Place.setCore; split <;> rfl
@[simp] theorem Place.setCore_async (t : Place) (c : Core) : (t.setCore c).async = t.async := by unfold Place.setCore; split <;> rfl
@[simp] theorem Place.setCore_stepArm (t : Place) (c : Core) : (t.setCore c).stepArm = t.stepArm := by unfold Place.setCore; split <;> rfl
@[simp] theorem Place.setCore_bpSkip (t : Place) (c : Core) : (t.setCore c).bpSkip = t.bpSkip := by unfold Place.setCore; split <;> rfl
@[simp] theorem Place.setCore_node (t : Place) (c : Core) : (t.setCore c).node = t.node := by unfold Place.setCore; split <;> rfl
@[simp] theorem Place.setCore_switch (t : Place) (c : Core) : (t.setCore c).switch = t.switch := by unfold Place.setCore; split <;> rfl
@[simp] theorem Place.setCore_victim (t : Place) (c : Core) : (t.setCore c).victim = t.victim := by unfold Place.setCore; split <;> rfl
@[simp] theorem Place.setCore_stallSince (t : Place) (c : Core) : (t.setCore c).stallSince = t.stallSince := by unfold Place.setCore; split <;> rfl
@[simp] theorem Place.setCore_begun (t : Place) (c : Core) : (t.setCore c).begun = t.begun := by unfold Place.setCore; split <;> rfl
@[simp] theorem Place.setCore_tb (t : Place) (c : Core) : (t.setCore c).tb = t.tb := by unfold Place.setCore; split <;> rfl
@[simp] theorem Place.setCore_recWait (t : Place) (c : Core) : (t.setCore c).recWait = t.recWait := by unfold Place.setCore; split <;> rfl
@[simp] theorem Place.setCore_promised (t : Place) (c : Core) : (t.setCore c).promised = t.promised := by unfold Place.setCore; split <;> rfl
@[simp] theorem Place.setCore_amoWait (t : Place) (c : Core) : (t.setCore c).amoWait = t.amoWait := by unfold Place.setCore; split <;> rfl
@[simp] theorem Place.setCore_vlog (t : Place) (c : Core) : (t.setCore c).vlog = t.vlog := by unfold Place.setCore; split <;> rfl
@[simp] theorem Place.setCore_vcount (t : Place) (c : Core) : (t.setCore c).vcount = t.vcount := by unfold Place.setCore; split <;> rfl
@[simp] theorem Place.setCore_step (t : Place) (c : Core) : (t.setCore c).step = t.step := by unfold Place.setCore; split <;> rfl
@[simp] theorem Place.setCore_point (t : Place) (c : Core) : (t.setCore c).point = t.point := by unfold Place.setCore; split <;> rfl
@[simp] theorem Place.setCore_firstDone (t : Place) (c : Core) : (t.setCore c).firstDone = t.firstDone := by unfold Place.setCore; split <;> rfl
@[simp] theorem Place.setCore_cnt (t : Place) (c : Core) : (t.setCore c).cnt = t.cnt := by unfold Place.setCore; split <;> rfl
@[simp] theorem Place.setCore_wdogGt (t : Place) (c : Core) : (t.setCore c).wdogGt = t.wdogGt := by unfold Place.setCore; split <;> rfl

theorem State.g_setG (s : State) (i : Nat) (v : Word) (r : Nat) :
    (s.setG i v).g r = if r = i ∧ r ≠ 0 then v else s.g r := by simp [State.g, State.setG]
@[simp] theorem State.g_zero (s : State) : s.g 0 = 0 := rfl
@[simp] theorem State.f_setG (s : State) (i : Nat) (v : Word) (r : Nat) : (s.setG i v).f r = s.f r := by simp [State.f, State.setG]
@[simp] theorem State.pc_setG (s : State) (i : Nat) (v : Word) : (s.setG i v).pc = s.pc := by simp [State.pc, State.setG]
theorem State.f_setF (s : State) (i : Nat) (v : Word) (r : Nat) : (s.setF i v).f r = if r = i then v else s.f r := by
  simp [State.f, State.setF]
@[simp] theorem State.g_setF (s : State) (i : Nat) (v : Word) (r : Nat) : (s.setF i v).g r = s.g r := by simp [State.g, State.setF]
@[simp] theorem State.pc_setF (s : State) (i : Nat) (v : Word) : (s.setF i v).pc = s.pc := by simp [State.pc, State.setF]
@[simp] theorem State.g_setPc (s : State) (v : Word) (r : Nat) : (s.setPc v).g r = s.g r := by simp [State.g, State.setPc, Core.getG]
@[simp] theorem State.f_setPc (s : State) (v : Word) (r : Nat) : (s.setPc v).f r = s.f r := by simp [State.f, State.setPc, Core.getF]
@[simp] theorem State.pc_setPc (s : State) (v : Word) : (s.setPc v).pc = v := by simp [State.pc, State.setPc]

@[simp] theorem Place.getM_zero (t : Place) : t.getM 0 = BitVec.allOnes 64 := rfl
theorem Place.getM_setM (t : Place) (i : Nat) (v : Word) (r : Nat) : (t.setM i v).getM r = if r = i ∧ r ≠ 0 then v else t.getM r := by
  by_cases hi : i = 0
  · subst hi
    by_cases hr : r = 0 <;> simp [Place.setM, Place.getM, hr]
  · by_cases hr : r = 0
    · subst hr; simp [Place.setM, Place.getM, hi]
    · by_cases h : r = i <;> simp [Place.setM, Place.getM, hi, hr, h]
@[simp] theorem Place.getV_setV (t : Place) (i : Nat) (v : VReg) (r : Nat) : (t.setV i v).getV r = if r = i then v else t.getV r := by
  simp [Place.getV, Place.setV]
@[simp] theorem Place.getSem_setSem (t : Place) (n c r : Nat) : (t.setSem n c).getSem r = if r = n then c else t.getSem r := by
  simp [Place.getSem, Place.setSem]

-- ## Memory

/-- A byte reads as written, and every other byte reads as before. -/
theorem State.memByte_memWrite (s : State) (a : Nat) (bs : List Byte) (k : Nat) :
    (s.memWrite a bs).memByte k = if a ≤ k ∧ k < a + bs.length then bs[k - a]?.getD 0 else s.memByte k := by
  unfold State.memByte State.memWrite
  simp only
  rw [fget_fsplice]
  · by_cases h : a ≤ k ∧ k < a + bs.length
    · rw [if_pos h, if_pos h, fget_fnumber_filter, if_pos h]
    · rw [if_neg h, if_neg h]
  · intro j hj
    apply fget?_filter_none
    intro x hx
    exact hj (mem_fnumber _ _ _ hx)
theorem State.memByte_setByte (s : State) (a : Nat) (b : Byte) (k : Nat) :
    (s.setByte a b).memByte k = if k = a then b else s.memByte k := by simp [State.memByte, State.setByte]
@[simp] theorem State.memByte_modPlace (s : State) (p : Nat) (f : Place → Place) (a : Nat) : (s.modPlace p f).memByte a = s.memByte a := rfl
/-- A range reads byte by byte. -/
theorem State.memRead_eq (s : State) (a n : Nat) : s.memRead a n = (range a n).map s.memByte := by
  unfold State.memRead
  apply List.map_congr_left
  intro k hk
  rw [mem_range] at hk
  exact fget_fslice 0 a n s.mem k hk.1 hk.2
/-- Storing bytes keeps the canonical form of memory. -/
theorem memWf_memWrite (s : State) (a : Nat) (bs : List Byte) (h : memWf s.mem = true) : memWf (s.memWrite a bs).mem = true := by
  apply fwf_fsplice _ _ _ h (fwf_fnumber_filter 0 a bs)
  intro e he
  exact mem_fnumber _ _ _ (List.mem_filter.1 he).1
theorem memWf_setByte (s : State) (a : Nat) (b : Byte) (h : memWf s.mem = true) : memWf (s.setByte a b).mem = true := fwf_fset 0 a b h
theorem memWf_reset : memWf State.reset.mem = true := rfl
/-- Equal canonical memories of equal bytes: reading back what was just written. -/
theorem State.memRead_memWrite (s : State) (a : Nat) (bs : List Byte) : (s.memWrite a bs).memRead a bs.length = bs := by
  rw [State.memRead_eq]
  apply List.ext_getElem?
  intro i
  rw [List.getElem?_map, getElem?_range]
  by_cases h : i < bs.length
  · simp [h, State.memByte_memWrite]
  · simp [h]

end Sys2Proof.Machine
end

