-- ==== Sys2Proof/Laws/Run.lean ====
section
/-! SUPPORT. How a control word ends: what retiring leaves alone, and what `alu` and `ctl` answer. -/
namespace Sys2Proof.Machine

-- ## Meanings as state transformers

@[simp] theorem run_pure {α} (a : α) (s : State) : (pure a : M α).run s = .ok a s := rfl
@[simp] theorem run_bind {α β} (x : M α) (f : α → M β) (s : State) :
    (x >>= f).run s = match x.run s with
      | .ok a s' => (f a).run s'
      | .error e s' => .error e s' := by
  show EStateM.bind x f s = _
  unfold EStateM.bind EStateM.run
  cases x s <;> rfl
@[simp] theorem run_map {α β} (f : α → β) (x : M α) (s : State) :
    (f <$> x).run s = match x.run s with
      | .ok a s' => .ok (f a) s'
      | .error e s' => .error e s' := by
  show EStateM.map f x s = _
  unfold EStateM.map EStateM.run
  cases x s <;> rfl
@[simp] theorem run_get (s : State) : (get : M State).run s = .ok s s := rfl
@[simp] theorem run_set (s t : State) : (set t : M PUnit).run s = .ok ⟨⟩ t := rfl
@[simp] theorem run_modify (f : State → State) (s : State) : (modify f : M PUnit).run s = .ok ⟨⟩ (f s) := rfl
@[simp] theorem run_throw {α} (e : Stop) (s : State) : (throw e : M α).run s = .error e s := rfl
@[simp] theorem run_here (s : State) : (here : M Place).run s = .ok s.here s := rfl
@[simp] theorem run_rg (i : Nat) (s : State) : (rg i).run s = .ok (s.g i) s := rfl
@[simp] theorem run_rf (i : Nat) (s : State) : (rf i).run s = .ok (s.f i) s := rfl
@[simp] theorem run_wg (i : Nat) (v : Word) (s : State) : (wg i v).run s = .ok ⟨⟩ (s.setG i v) := rfl
@[simp] theorem run_wf (i : Nat) (v : Word) (s : State) : (wf i v).run s = .ok ⟨⟩ (s.setF i v) := rfl
@[simp] theorem run_rpc (s : State) : rpc.run s = .ok s.pc s := rfl
@[simp] theorem run_next (s : State) : next.run s = .ok (some (s.pc + 8)) s := rfl
@[simp] theorem run_onHere (f : Place → Place) (s : State) : (onHere f).run s = .ok ⟨⟩ (s.modHere f) := rfl
@[simp] theorem run_onPlace (p : Nat) (f : Place → Place) (s : State) : (onPlace p f).run s = .ok ⟨⟩ (s.modPlace p f) := rfl
@[simp] theorem run_trap {α} (c : Nat) (s : State) : (trap c : M α).run s = .error (.trap c 0) s := rfl
@[simp] theorem run_need (c : Nat) (b : Bool) (s : State) :
    (need c b).run s = if b then .ok ⟨⟩ s else .error (.trap c 0) s := by cases b <;> rfl
@[simp] theorem run_waitFor (b : Bool) (s : State) :
    (waitFor b).run s = if b then .ok ⟨⟩ s else .error .stall s := by cases b <;> rfl

-- ## Checks

/-- Every field lies below the bound. -/
theorem overBound_eq_none (b : Nat) (l : List Nat) : overBound b l = none ↔ ∀ i ∈ l, i = 0 ∨ i < b := by
  unfold overBound
  rw [List.find?_eq_none]
  constructor
  · intro h i hi
    have := h i hi
    simp only [Bool.and_eq_true, decide_eq_true_eq, not_and] at this
    by_cases h0 : i = 0
    · exact .inl h0
    · exact .inr (Nat.lt_of_not_le (this h0))
  · intro h i hi
    rcases h i hi with h | h
    · simp [h]
    · simp; omega
/-- When a word passes the checks of R198. -/
theorem preCheck_eq_none (s : State) (w : Where) (priv : Nat) (gs fs : List Nat) :
    s.preCheck w priv gs fs = none ↔ w.ok s = true ∧ priv ≤ s.here.core.priv ∧
      (∀ i ∈ gs, i = 0 ∨ i < s.here.regbnd) ∧ (∀ i ∈ fs, i = 0 ∨ i < s.here.regbnd / 2) := by
  rw [← overBound_eq_none, ← overBound_eq_none]
  unfold State.preCheck
  by_cases h : w.ok s = true
  · by_cases hp : s.here.core.priv < priv
    · constructor
      · intro hn; simp [h, hp] at hn
      · rintro ⟨-, h2, -⟩; exact absurd hp (by omega)
    · cases overBound s.here.regbnd gs with
      | some i => simp [h, hp]
      | none =>
        have hp' : priv ≤ s.here.core.priv := by omega
        cases overBound (s.here.regbnd / 2) fs <;> simp [h, hp, hp']
  · simp [h]

-- ## Retiring

theorem Retires.pc {s t : State} {n : Word} (h : Retires s t n) : t.pc = n := by simp [State.pc, h.core]
theorem Retires.g {s t : State} {n : Word} (h : Retires s t n) (r : Nat) : t.g r = s.g r := by simp [State.g, h.core, Core.getG]
theorem Retires.f {s t : State} {n : Word} (h : Retires s t n) (r : Nat) : t.f r = s.f r := by simp [State.f, h.core, Core.getF]
theorem Retires.mem {s t : State} {n : Word} (h : Retires s t n) : t.mem = s.mem := by rw [h.rest]
theorem Retires.memByte {s t : State} {n : Word} (h : Retires s t n) (a : Nat) : t.memByte a = s.memByte a := by
  rw [State.memByte, h.mem]; rfl
theorem Retires.cur {s t : State} {n : Word} (h : Retires s t n) : t.cur = s.cur := by rw [h.rest]

theorem State.count_eq (s : State) (p n k : Nat) :
    s.count p n k = s.modPlace p fun t => { t with cnt := fmod 0 t.cnt n fun c => (c + k) % 2 ^ 64 } := rfl

/-- The counters and debts of a retired CC instruction touch the counters of the place and the steps only. -/
structure Counted (s t : State) : Prop where
  rest : t = { s with places := t.places, steps := t.steps }
  others : ∀ p, p ≠ s.cur → t.place p = s.place p
  here : t.here = { s.here with cnt := t.here.cnt }

theorem Counted.refl (s : State) : Counted s s := ⟨rfl, fun _ _ => rfl, rfl⟩
theorem Counted.trans {a b c : State} (h : Counted a b) (k : Counted b c) : Counted a c := by
  have hc : b.cur = a.cur := by rw [h.rest]
  refine ⟨?_, fun p hp => ?_, ?_⟩
  · rw [k.rest, h.rest]
  · rw [k.others p (by rw [hc]; exact hp), h.others p hp]
  · rw [k.here, h.here]
theorem Counted.count (s : State) (n k : Nat) : Counted s (s.count s.cur n k) := by
  refine ⟨rfl, fun p hp => ?_, ?_⟩
  · rw [State.count_eq, State.place_modPlace_ne _ _ _ _ hp]
  · simp [State.here, State.count_eq]
theorem Counted.steps (s : State) (l : List Step) : Counted s { s with steps := l } := ⟨rfl, fun _ _ => rfl, rfl⟩

theorem Counted.modStep (s : State) (id : Nat) (f : Step → Step) : Counted s (s.modStep id f) := ⟨rfl, fun _ _ => rfl, rfl⟩
theorem Counted.modPos (s : State) (id j : Nat) (f : Position → Position) : Counted s (s.modPos id j f) := ⟨rfl, fun _ _ => rfl, rfl⟩
theorem Counted.cur {s t : State} (h : Counted s t) : t.cur = s.cur := by rw [h.rest]

theorem foldl_counted {α} (c : Nat) (f : State → α → State) (hf : ∀ u a, u.cur = c → Counted u (f u a)) (l : List α) (u : State)
    (hc : u.cur = c) : Counted u (l.foldl f u) := by
  induction l generalizing u with
  | nil => exact .refl u
  | cons a r ih => exact (hf u a hc).trans (ih _ ((hf u a hc).cur.trans hc))

/-- Retiring a CC instruction counts it, and adds the delays of the causal ranges that hold its address. -/
theorem State.counted_retired (s : State) (pc : Word) : Counted s (s.retired pc) := by
  unfold State.retired
  simp only
  refine (Counted.count s 0 1).trans ?_
  refine foldl_counted s.cur _ (fun u a hc => ?_) _ _ rfl
  obtain ⟨n, lo, hi, k⟩ := a
  have h1 : Counted u ((u.count s.cur 0x021 k).count s.cur 0x022 1) := by
    rw [← hc]; exact (Counted.count u 0x021 k).trans (Counted.count (u.count u.cur 0x021 k) 0x022 1)
  simp only
  split
  · exact h1.trans ((Counted.modStep _ _ _).trans (Counted.modPos _ _ _ _))
  · exact h1

/-- Counting an event changes no armed range. -/
@[simp] theorem State.rangesOf_count (s : State) (p n k t : Nat) : (s.count p n k).rangesOf t = s.rangesOf t := by
  unfold State.rangesOf State.stepAt
  rw [State.count_eq, State.place_modPlace]
  by_cases h : t = p
  · subst h; rw [if_pos rfl]; rfl
  · rw [if_neg h]; rfl
/-- Without an armed causal range only the counter changes. -/
theorem State.retired_quiet (s : State) (pc : Word) (h : s.rangesOf s.cur = []) : s.retired pc = s.count s.cur 0 1 := by
  unfold State.retired
  simp only [State.rangesOf_count, h, List.filter_nil, List.foldl_nil]

/-- The marks that a retired CC instruction takes off its place. -/
def Place.unmarked (t : Place) : Place := { t with node := none, stallSince := none, begun := none, tb := none, bpSkip := false }
@[simp] theorem Place.unmarked_stepArm (t : Place) : t.unmarked.stepArm = t.stepArm := rfl
theorem State.retire_cc (s : State) (npc : Word) (hc : s.onCc = true) (ha : s.here.stepArm = false) :
    s.retire npc = ((s.retired s.pc).setPc npc).modHere Place.unmarked := by
  have h1 : (((s.retired s.pc).setPc npc).modHere Place.unmarked).here.stepArm = false := by
    rw [State.here_modHere, State.setPc, State.here_modHere, Place.unmarked_stepArm, Place.setCore_stepArm, (s.counted_retired s.pc).here, ha]
  have e : s.retire npc = if (((s.retired s.pc).setPc npc).modHere Place.unmarked).here.stepArm = true
      then (((s.retired s.pc).setPc npc).modHere Place.unmarked).takeTrap
        (((s.retired s.pc).setPc npc).modHere Place.unmarked).cur cStep 0 none npc
      else ((s.retired s.pc).setPc npc).modHere Place.unmarked := by
    unfold State.retire State.retireAt
    rw [if_pos hc]
    rfl
  rw [e, h1]; rfl
theorem State.retire_other (s : State) (npc : Word) (hc : ¬ s.onCc = true) :
    s.retire npc = (s.setPc npc).modHere fun t => { t with stallSince := none, begun := none, tb := none } := by
  unfold State.retire State.retireAt
  rw [if_neg hc]

/-- Retiring without an armed STEP. -/
theorem State.retires (s : State) (npc : Word) (h : s.onCc = true → s.here.stepArm = false) : Retires s (s.retire npc) npc := by
  by_cases hc : s.onCc = true
  · rw [s.retire_cc npc hc (h hc)]
    have hcnt := s.counted_retired s.pc
    have hf : s.here.frozen = false := by simp [State.onCc] at hc; exact hc.2
    have ht : isTile s.cur = true := by simp [State.onCc] at hc; exact hc.1
    have hq := s.retired_quiet s.pc
    generalize s.retired s.pc = s1 at hcnt hq
    refine ⟨?_, ?_, ?_, ?_, ?_, ?_⟩
    · exact congrArg (fun u : State => { u with places := ((s1.setPc npc).modHere Place.unmarked).places }) hcnt.rest
    · rintro (hr | hr | hr)
      · rw [hq hr]; rfl
      · rw [hr] at ht; cases ht
      · rw [hr] at hf; cases hf
    · intro p hp
      rw [State.place_modHere, if_neg (by simpa [State.setPc, hcnt.cur] using hp), State.setPc, State.place_modHere, if_neg (by rw [hcnt.cur]; exact hp)]
      exact hcnt.others p hp
    all_goals
      simp only [State.here_modHere, State.setPc]
      rw [hcnt.here]
      simp [Place.setCore, Place.core, Place.unmarked, hf]
  · rw [s.retire_other npc hc]
    refine ⟨rfl, fun _ => rfl, ?_, ?_, ?_, ?_⟩
    · intro p hp
      rw [State.place_modHere, if_neg (by simpa [State.setPc] using hp), State.setPc, State.place_modHere, if_neg hp]
    all_goals simp only [State.here_modHere, State.setPc]
    all_goals by_cases hf : s.here.frozen <;> simp [Place.setCore, Place.core, hf]

-- ## What `alu` and `ctl` answer

/-- A word whose fields lie below the bound passes on a core that it may execute on. -/
theorem State.inBound.passes {s : State} {gs fs : List Nat} (h : s.inBound gs fs) {w : Where} {n : Nat} (hw : w.ok s = true)
    (hp : n ≤ s.here.core.priv) : s.preCheck w n gs fs = none :=
  (preCheck_eq_none s w n gs fs).2 ⟨hw, hp, fun i hi => .inr (h.1 i hi), fun i hi => .inr (h.2 i hi)⟩

theorem alu_next (gs fs : List Nat) (eff : State → State) (s : State) (h : s.preCheck .any 0 gs fs = none) :
    alu gs fs eff s = .next ((eff s).retire (s.pc + 8)) := by unfold alu; rw [h]
theorem ctl_next (w : Where) (priv : Nat) (gs fs : List Nat) (body : M (Option Word)) (s s' : State) (npc : Word)
    (h : s.preCheck w priv gs fs = none) (hb : body.run s = .ok (some npc) s') :
    ctl w priv gs fs body s = .next (s'.retire npc) := by unfold ctl; rw [h]; simp only [hb]
theorem ctl_left (w : Where) (priv : Nat) (gs fs : List Nat) (body : M (Option Word)) (s s' : State)
    (h : s.preCheck w priv gs fs = none) (hb : body.run s = .ok none s') :
    ctl w priv gs fs body s = .next s' := by unfold ctl; rw [h]; simp only [hb]
theorem ctl_stops (w : Where) (priv : Nat) (gs fs : List Nat) (body : M (Option Word)) (s s' : State) (e : Stop)
    (h : s.preCheck w priv gs fs = none) (hb : body.run s = .error e s') :
    ctl w priv gs fs body s = .next (s.endWith s' e) := by unfold ctl; rw [h]; simp only [hb]
theorem ctl_refuses (w : Where) (priv : Nat) (gs fs : List Nat) (body : M (Option Word)) (s : State) (c d : Nat)
    (h : s.preCheck w priv gs fs = some (c, d)) : ctl w priv gs fs body s = .next (s.raise c d) := by unfold ctl; rw [h]

/-- Every control word answers a next state. -/
theorem ctl_answers (w : Where) (priv : Nat) (gs fs : List Nat) (body : M (Option Word)) (s : State) :
    ∃ t, ctl w priv gs fs body s = .next t := by
  unfold ctl
  split
  · exact ⟨_, rfl⟩
  · split <;> exact ⟨_, rfl⟩
theorem alu_answers (gs fs : List Nat) (eff : State → State) (s : State) : ∃ t, alu gs fs eff s = .next t := by
  unfold alu
  split <;> exact ⟨_, rfl⟩

end Sys2Proof.Machine
end

