-- ==== Sys2Proof/Laws/Shared.lean ====
section
/-! SUPPORT. What each shared operation can do, said once: checks, rings and queues, scratchpad bytes, signals,
traps and the return from them, and how one step of a queue's head command ends. -/
namespace Sys2Proof.Machine

-- ## Checks

theorem need_run (c : Nat) (b : Bool) (s : State) : (need c b).run s = if b then .ok () s else .error (.trap c 0) s := by
  cases b <;> rfl
theorem waitFor_run (b : Bool) (s : State) : (waitFor b).run s = if b then .ok () s else .error .stall s := by
  cases b <;> rfl
/-- A target that R178 allows passes, and the check changes nothing. -/
theorem checkTarget_passes (t : Word) (s : State) (ha : t.toNat % 8 = 0) (hp : t.toNat < 2 ^ 56) : (checkTarget t).run s = .ok () s := by
  unfold checkTarget
  rw [decide_eq_true ha, decide_eq_true hp]
  rfl
theorem goto_ok (t : Word) (s : State) (ha : t.toNat % 8 = 0) (hp : t.toNat < 2 ^ 56) : (goto t).run s = .ok (some t) s := by
  have h := checkTarget_passes t s ha hp
  simp only [goto, bind, EStateM.bind, EStateM.run, pure, EStateM.pure] at h ⊢
  rw [h]

-- ## Rings, queues and semaphores

@[simp] theorem State.ring_setRing (s : State) (t q : Nat) (r : Ring) (t' q' : Nat) :
    (s.setRing t q r).ring t' q' = if t' = t ∧ q' = q then r else s.ring t' q' := by
  by_cases ht : t' = t
  · subst ht
    by_cases hq : q' = q
    · subst hq; simp [State.ring, State.setRing]
    · simp [State.ring, State.setRing, hq]
  · simp [State.ring, State.setRing, ht]
@[simp] theorem State.engq_setEngq (s : State) (t q : Nat) (e : EngQ) (t' q' : Nat) :
    (s.setEngq t q e).engq t' q' = if t' = t ∧ q' = q then e else s.engq t' q' := by
  by_cases ht : t' = t
  · subst ht
    by_cases hq : q' = q
    · subst hq; simp [State.engq, State.setEngq]
    · simp [State.engq, State.setEngq, hq]
  · simp [State.engq, State.setEngq, ht]
@[simp] theorem State.engq_setRing (s : State) (t q : Nat) (r : Ring) (t' q' : Nat) : (s.setRing t q r).engq t' q' = s.engq t' q' := by
  by_cases ht : t' = t
  · subst ht; simp [State.engq, State.setRing]
  · simp [State.engq, State.setRing, ht]
@[simp] theorem State.ring_setEngq (s : State) (t q : Nat) (e : EngQ) (t' q' : Nat) : (s.setEngq t q e).ring t' q' = s.ring t' q' := by
  by_cases ht : t' = t
  · subst ht; simp [State.ring, State.setEngq]
  · simp [State.ring, State.setEngq, ht]
/-- The head command leaves its queue: its slot is free and nothing is started there. -/
theorem State.freeSlot_ring (s : State) (t q : Nat) :
    (s.freeSlot t q).ring t q = { s.ring t q with head := ((s.ring t q).head + 1) % 65536 } ∧
      (s.freeSlot t q).engq t q = { s.engq t q with cur := none, since := none } := by
  have h1 := State.ring_setEngq (s.setRing t q { s.ring t q with head := ((s.ring t q).head + 1) % 65536 }) t q { s.engq t q with cur := none, since := none } t q
  have h2 := State.engq_setEngq (s.setRing t q { s.ring t q with head := ((s.ring t q).head + 1) % 65536 }) t q { s.engq t q with cur := none, since := none } t q
  exact ⟨h1.trans (by simp), h2.trans (by simp)⟩
theorem State.freeSlot_mem (s : State) (t q : Nat) : (s.freeSlot t q).mem = s.mem := rfl
/-- A signal adds to its semaphore, or posts its overflow and adds nothing; a count of zero does nothing (R119, R248). -/
theorem State.signal_adds (s : State) (t sem n : Nat) (o : Async) (h : (s.place t).getSem sem + n ≤ 65535) (k : Nat) :
    ((s.signal t sem n o).place t).getSem k = if k = sem then (s.place t).getSem sem + n else (s.place t).getSem k := by
  unfold State.signal
  by_cases hn : n = 0
  · subst hn; by_cases hk : k = sem <;> simp [hk]
  · have hc : ¬ (s.place t).getSem sem + n > 65535 := by omega
    simp [hn, hc]
theorem State.signal_overflows (s : State) (t sem n : Nat) (o : Async) (h : 65535 < (s.place t).getSem sem + n) (hn : n ≠ 0) :
    s.signal t sem n o = s.post t o := by
  unfold State.signal; simp [hn, h]
theorem State.signal_mem (s : State) (t sem n : Nat) (o : Async) : (s.signal t sem n o).mem = s.mem := by
  unfold State.signal State.post; split
  · rfl
  · simp only; split <;> rfl

-- ## Scratchpad bytes (R48 to R51)

/-- A written byte reads as written, and every other byte reads as before, whatever the epoch (log 10). -/
theorem Place.spByte_putSp (t : Place) (o : Nat) (bs : List Byte) (k : Nat) :
    (t.putSp o bs).spByte k = if o ≤ k ∧ k < o + bs.length then bs[k - o]?.getD 0 else t.spByte k := by
  unfold Place.spByte Place.putSp
  simp only
  rw [fget?_fsplice]
  · by_cases h : o ≤ k ∧ k < o + bs.length
    · rw [if_pos h, if_pos h]
      by_cases he : t.spEpoch = 0
      · simp only [he, ne_eq, not_true_eq_false, decide_false, Bool.false_or]
        have := fget_fnumber_filter (0 : Byte) o bs k
        rw [if_pos h] at this
        rw [← this]
        unfold fget
        cases fget? ((fnumber o bs).filter fun e => e.2 != 0) k <;> rfl
      · have hf : ((fnumber o bs).filter fun e => decide (t.spEpoch ≠ 0) || e.2 != 0) = fnumber o bs := by
          rw [List.filter_eq_self]; intro e _; simp [he]
        have hb : k - o < bs.length := by omega
        rw [hf, fget?_fnumber, if_pos h]
        simp [spReads, hb]
    · rw [if_neg h, if_neg h]
  · intro j hj
    apply fget?_filter_none
    intro x hx
    exact hj (mem_fnumber _ _ _ hx)
theorem Place.spByte_putSp_ne (t : Place) (o : Nat) (bs : List Byte) (k : Nat) (h : k < o ∨ o + bs.length ≤ k) :
    (t.putSp o bs).spByte k = t.spByte k := by
  rw [Place.spByte_putSp, if_neg (by omega)]

-- ## Traps and the return from them

/-- Escalation leaves every other place, and of memory only the context's descriptor is written (R371). -/
theorem State.escalate_place (s : State) (t q : Nat) :
    (s.escalate t).place q = if q = t then { s.place t with hold := .escalated, entering := none } else s.place q := by
  unfold State.escalate State.setCtxd
  rw [State.place_modPlace]; simp
/-- A steward core at privilege 1 or 2 goes to the next layer: the handler's pc, the cause and the pc saved,
every register kept (R404). -/
theorem State.takeStewardTrap_enters (s : State) (k code detail : Nat) (epc : Word) (h : (s.place k).cc.priv < 3) :
    ((s.takeStewardTrap k code detail epc).place k).cc.priv = (s.place k).cc.priv + 1 ∧
    ((s.takeStewardTrap k code detail epc).place k).epc = epc ∧
    ((s.takeStewardTrap k code detail epc).place k).cause = causeWord code detail none ∧
    ((s.takeStewardTrap k code detail epc).place k).cc.g = (s.place k).cc.g ∧
    (∀ q, q ≠ k → (s.takeStewardTrap k code detail epc).place q = s.place q) := by
  have h' : ¬ 3 ≤ (s.place k).cc.priv := by omega
  refine ⟨?_, ?_, ?_, ?_, fun q hq => ?_⟩
  all_goals simp [State.takeStewardTrap, h', State.setRegBits]
  simp [hq]
theorem foldl_getG (sc : Core) (l : List Nat) (c : FMap Word) (r : Nat) :
    fget 0 (l.foldl (fun m i => fset 0 m i (sc.getG i)) c) r = if r ∈ l then sc.getG r else fget 0 c r := by
  induction l generalizing c with
  | nil => simp
  | cons x l ih =>
    rw [List.foldl_cons, ih]
    by_cases h : r ∈ l
    · simp [h]
    · by_cases hx : r = x
      · subst hx; simp [h]
      · simp [h, hx]
/-- The return copies back the registers below the bound and no others (R366). -/
theorem Place.getG_copyBack (t : Place) (r : Nat) :
    t.copyBack.cc.getG r = if r < t.regbnd then t.sc.getG r else t.cc.getG r := by
  by_cases h0 : r = 0
  · subst h0; simp
  · have := foldl_getG t.sc (range 0 t.regbnd) t.cc.g r
    simp only [mem_range, Nat.zero_le, true_and, Nat.zero_add] at this
    simp only [Place.copyBack, Core.getG, h0, if_false] at this ⊢
    exact this
theorem Place.thaw_returns (t : Place) (step : Bool) :
    (t.thaw step).cc.pc = eretPc t.epc ∧ (t.thaw step).frozen = false ∧ (t.thaw step).stepArm = step ∧ (t.thaw step).sc = t.sc ∧
      (t.thaw step).sp = t.sp ∧ (t.thaw step).sem = t.sem := ⟨rfl, rfl, rfl, rfl, rfl, rfl⟩

-- ## How an instruction that does not complete ends

@[simp] theorem State.endWith_trap (s s' : State) (c d : Nat) : s.endWith s' (.trap c d) = ({ s with mtus := s'.mtus }.raise c d) := rfl
@[simp] theorem State.endWith_stall (s s' : State) :
    s.endWith s' .stall = s'.modHere fun t => { t with stallSince := some (t.stallSince.getD s'.tick) } := rfl
theorem State.endWith_park_cc (s s' : State) (r i : Nat) (h : s.onCc = true) : s.endWith s' (.park r i) = s'.parkTile s.cur r i s.pc := by
  simp [State.endWith, h]
theorem State.raise_tile (s : State) (c d : Nat) (ht : isTile s.cur = true) (hc : s.here.frozen = false) :
    s.raise c d = s.takeTrap s.cur c d none s.pc := by simp [State.raise, State.onSc, ht, hc]
theorem State.raise_sc (s : State) (c d : Nat) (h : s.onSc = true) : s.raise c d = s.escalateSc s.cur c d := by simp [State.raise, h]

-- ## One step of a queue's head command (R138, R139, R180, R326)

/-- A queue that rests does nothing. -/
theorem State.command_rests {α} (s : State) (q : Nat) (h : Hdr) (checks : Acc → Nat → M α) (body : Acc → α → M Done)
    (hr : s.queueRests s.cur q = true) : s.command q h checks body = s := by
  unfold State.command
  simp only [hr, if_true]
/-- A command whose semaphore is short waits, and the wait's beginning is noted. -/
theorem State.command_waits {α} (s : State) (q : Nat) (h : Hdr) (checks : Acc → Nat → M α) (body : Acc → α → M Done)
    (hr : s.queueRests s.cur q = false) (hw : s.here.waitMet h = false) :
    s.command q h checks body =
      (s.setEngq s.cur q { s.engq s.cur q with since := some ((s.engq s.cur q).since.getD s.tick) }).modPlace s.cur fun p => p.stepped q false := by
  unfold State.command
  simp only [hr, hw]
  rfl
/-- The state in which a started command makes its checks: its wait is subtracted. -/
def State.waited (s : State) (q : Nat) (h : Hdr) : State :=
  (s.setEngq s.cur q { s.engq s.cur q with since := none }).modPlace s.cur fun p => { p.takeWait q h with met := none }
/-- A command that completes at once: its effect, then its slot is free, its count is counted and its signal added. -/
theorem State.command_completes {α} (s : State) (q : Nat) (h : Hdr) (checks : Acc → Nat → M α) (body : Acc → α → M Done)
    (a : α) (s2 s3 : State) (hr : s.queueRests s.cur q = false) (hw : s.here.waitMet h = true)
    (h1 : (checks ((s.waited q h).cmdAcc s.cur q (s.headSeq s.cur q)) (s.headCap s.cur q)).run (s.waited q h) = .ok a s2)
    (h2 : (body (s2.cmdAcc s.cur q (s.headSeq s.cur q)) a).run s2 = .ok .now s3) :
    s.command q h checks body = (s3.modPlace s.cur fun p => p.stepped q true).finish s.cur q (s.headSeq s.cur q) h false := by
  simp only [State.waited] at h1
  simp only [State.command, hr, hw, Bool.false_eq_true, if_false, Bool.not_true, h1, h2]
/-- A check that fails leaves no effect: the command finishes with its cause and adds no signal (R326). -/
theorem State.command_fails {α} (s : State) (q : Nat) (h : Hdr) (checks : Acc → Nat → M α) (body : Acc → α → M Done)
    (c d : Nat) (s2 : State) (hr : s.queueRests s.cur q = false) (hw : s.here.waitMet h = true)
    (h1 : (checks ((s.waited q h).cmdAcc s.cur q (s.headSeq s.cur q)) (s.headCap s.cur q)).run (s.waited q h) = .error (.trap c d) s2) :
    s.command q h checks body =
      ({ s.waited q h with mtus := s2.mtus }.modPlace s.cur fun p => ({ p with met := some c, veIssued := p.veIssued || q = 0 }).stepped q true).finish s.cur q (s.headSeq s.cur q) h false := by
  simp only [State.waited] at h1
  simp only [State.command, State.waited, hr, hw, Bool.false_eq_true, if_false, Bool.not_true, h1]

end Sys2Proof.Machine
end

