-- ==== Sys2Proof/Tests/Slice0.lean ====
section
/-! SUPPORT. Small tests: ill-formed terms refused, words of the spec decoded, one-step results from the spec's tables and
examples, and for every statement a state and operands that meet its hypotheses. -/
namespace Sys2Proof.Tests
open Sys2Proof.Machine Sys2Proof.Claims
-- one theorem at a time: theorems elaborated side by side each hold a thread stack
set_option Elab.async false

-- ## Helpers

/-- An access or wait that ends well; for the runs, the state it leaves is named by `left`. -/
def goes {α : Type} (x : M α) (s : State) : Bool := match x.run s with
  | .ok _ _ => true
  | .error _ _ => false
def left {α : Type} (x : M α) (s : State) : State := match x.run s with
  | .ok _ t => t
  | .error _ t => t
theorem goes_ok {α : Type} {x : M α} {s : State} (h : goes x s = true) : ∃ a, x.run s = .ok a (left x s) := by
  cases e : x.run s with
  | ok a _ => exact ⟨a, by rw [left, e]⟩
  | error _ _ => simp [goes, e] at h
/-- What the run answers. -/
def got {α : Type} (x : M α) (s : State) : Option α := match x.run s with
  | .ok a _ => some a
  | .error _ _ => none
theorem got_ok {α : Type} {x : M α} {s : State} {a : α} (h : got x s = some a) : x.run s = .ok a (left x s) := by
  cases e : x.run s with
  | ok b _ =>
    have w : b = a := Option.some.inj (by rw [← h, got, e])
    rw [left, e, w]
  | error _ _ => simp [got, e] at h
/-- A check that passes and changes nothing. -/
def still (x : M Unit) (s : State) : Bool := goes x s && decide (left x s = s)
theorem still_passes {x : M Unit} {s : State} (h : still x s = true) : Passes x s := by
  simp only [still, Bool.and_eq_true, decide_eq_true_eq] at h
  obtain ⟨_, e⟩ := goes_ok h.1
  rw [h.2] at e
  exact e

/-- The package at reset, tile 0 acting; its SC with a frozen CC; the monitor core; a CFE. -/
def z : State := State.reset
def at0 (f : Place → Place) : State := z.modHere f
def sc : State := at0 fun t => { t with frozen := true, sc := { t.sc with priv := 1 } }
def mon : State := { z with cur := 516 }
def cfe : State := { z with cur := 512 }
/-- Tile 0 runs an iteration of a step of context 1 (log 14). -/
def run0 : State := z.placed 0
/-- Registers of tile 0. -/
def gs (l : List (Nat × Word)) (s : State) : State := l.foldl (fun s p => s.setG p.1 p.2) s
/-- A plain word of class 0, global, of `2 ^ sz` bytes at g[1]. -/
def cm (sz : Nat) : CM := ⟨1, 0, 0, 0, sz, 0, 0, 0, 0, 0, 0, 0⟩
/-- The same in scratchpad. -/
def cmSp (sz : Nat) : CM := { cm sz with as := 1 }
/-- Every right. -/
def fullPerm : Perm := ⟨true, true, true, true, true, false, false, 0⟩
/-- Tile 0 may access the region of VA 0 and owns the line there. -/
def owned : State :=
  (at0 fun t => { t with pmc := [(regionCode (some 0) 0, fullPerm)] }).setL1 0
    { L1Line.empty ⟨some 0, 0⟩ with st := .m, valid := 15 }
/-- Empty memory has no address space that a write could end. -/
theorem no_spaces {s : State} (h : s.mem = []) (pa : Nat) (bs : List Byte) : KeepsSpaces s pa bs := fun a e => by
  have w : ∀ l : List Nat, numOf (l.map fun _ => (0 : Byte)) = 0 := fun l => by induction l <;> simp_all [numOf]
  have v : s.asd a = 0 := by
    rw [State.asd, State.memNum, State.memRead, h, ← w (range (s.asdPa a) 16)]
    rfl
  exact absurd (v ▸ e) (by simp)
/-- A wait that does not end, and changes nothing. -/
def stalls (x : M Unit) (s : State) : Bool := match x.run s with
  | .error .stall t => decide (t = s)
  | _ => false
theorem stalls_is {x : M Unit} {s : State} (h : stalls x s = true) : x.run s = .error .stall s := by
  cases e : x.run s with
  | ok _ _ => simp [stalls, e] at h
  | error w t => cases w <;> simp_all [stalls]
-- ## Ill-formed terms are refused: one for each check

def h1 : Hdr := ⟨0, 0, 0, 0, 0, 0⟩
def hB : Hdr := ⟨2 ^ 64, 0, 0, 0, 0, 0⟩
def m1 : CM := ⟨0, 0, 0, 0, 0, 0, 0, 0, 0, 0, 0, 0⟩
def mB : CM := ⟨2 ^ 64, 0, 0, 0, 0, 0, 0, 0, 0, 0, 0, 0⟩
def f1 : FN := ⟨0, 0, 0⟩
def fB : FN := ⟨2 ^ 64, 0, 0⟩
def c1 : Cnt := ⟨0, 0, 0⟩
def cB : Cnt := ⟨2 ^ 64, 0, 0⟩
def x1 : VR := ⟨0, 0, 0, 0, 0, 0, 0⟩
def xB : VR := ⟨2 ^ 64, 0, 0, 0, 0, 0, 0⟩
def x2 : VC := ⟨0, 0, 0, 0, 0, 0, 0, 0, 0, 0, 0⟩
def yB : VC := ⟨2 ^ 64, 0, 0, 0, 0, 0, 0, 0, 0, 0, 0⟩
def x3 : VM := ⟨0, 0, 0, 0⟩
def vB : VM := ⟨2 ^ 64, 0, 0, 0⟩
def x4 : VX := ⟨0, 0, 0, 0, 0⟩
def wB : VX := ⟨2 ^ 64, 0, 0, 0, 0⟩
def x5 : Drain := ⟨0, 0, 0, 0, 0, 0, 0⟩
def dB : Drain := ⟨2 ^ 64, 0, 0, 0, 0, 0, 0⟩
def k1 : LineKey := ⟨some 0, 0⟩
def kB : LineKey := ⟨some 0, 2 ^ 49⟩
theorem test_wf_fields :
    h1.wf = true ∧ (∀ x ∈ [{ h1 with wsem := 256 }, { h1 with wneed := 16 }, { h1 with ssem := 256 }, { h1 with sinc := 16 }, { h1 with cap := 2 }, { h1 with creg := 64 }], x.wf = false) ∧
    m1.wf = true ∧ (∀ x ∈ [{ m1 with a := 64 }, { m1 with b := 64 }, { m1 with oc := 16 }, { m1 with as := 4 }, { m1 with sz := 8 }, { m1 with sx := 2 }, { m1 with sem := 4 }, { m1 with scope := 4 }, { m1 with sh := 4 }, { m1 with hv := 2 }, { m1 with hint := 4 }, { m1 with disp := 65536 }], x.wf = false) ∧
    f1.wf = true ∧ (∀ x ∈ [{ f1 with fx := 2 }, { f1 with rm := 8 }, { f1 with pr := 2 }], x.wf = false) ∧
    c1.wf = true ∧ (∀ x ∈ [{ c1 with idx := 256 }, { c1 with imm := 65536 }, { c1 with rg := 2 }], x.wf = false) ∧
    x1.wf = true ∧ (∀ x ∈ [{ x1 with typ := 16 }, { x1 with vd := 32 }, { x1 with va := 32 }, { x1 with vb := 32 }, { x1 with msk := 8 }, { x1 with m1 := 2 }, { x1 with z := 2 }], x.wf = false) ∧
    x2.wf = true ∧ (∀ x ∈ [{ x2 with part := 8 }, { x2 with sr := 2 }, { x2 with x1 := 2 }, { x2 with x2 := 2 }, { x2 with typ := 16 }, { x2 with vd := 32 }, { x2 with va := 32 }, { x2 with vb := 32 }, { x2 with msk := 8 }, { x2 with m1 := 2 }, { x2 with z := 2 }], x.wf = false) ∧
    x3.wf = true ∧ (∀ x ∈ [{ x3 with as := 2 }, { x3 with vr := 32 }, { x3 with msk := 8 }, { x3 with disp := 32768 }], x.wf = false) ∧
    x4.wf = true ∧ (∀ x ∈ [{ x4 with as := 2 }, { x4 with vr := 32 }, { x4 with vi := 32 }, { x4 with msk := 8 }, { x4 with sc := 4 }], x.wf = false) ∧
    x5.wf = true ∧ (∀ x ∈ [{ x5 with nsub := 4 }, { x5 with keep := 2 }, { x5 with sct := 2 }, { x5 with act := 4 }, { x5 with bias := 2 }, { x5 with sat := 2 }, { x5 with sr := 2 }], x.wf = false) ∧
    k1.wf = true ∧ kB.wf = false ∧ LineKey.wf ⟨some (2 ^ 16), 0⟩ = false := by decide +kernel
theorem test_wf_refuses_1 : ∀ i ∈ ([
    .add 64 0 0, .add 0 64 0, .add 0 0 64, .sub 64 0 0, .sub 0 64 0, .sub 0 0 64, .and 64 0 0, .and 0 64 0, .and 0 0 64, .or 64 0 0, .or 0 64 0, .or 0 0 64,
    .xor 64 0 0, .xor 0 64 0, .xor 0 0 64, .andn 64 0 0, .andn 0 64 0, .andn 0 0 64, .sll 64 0 0, .sll 0 64 0, .sll 0 0 64, .srl 64 0 0, .srl 0 64 0,
    .srl 0 0 64, .sra 64 0 0, .sra 0 64 0, .sra 0 0 64, .mul 64 0 0, .mul 0 64 0, .mul 0 0 64, .mulh 64 0 0, .mulh 0 64 0, .mulh 0 0 64, .mulhu 64 0 0,
    .mulhu 0 64 0, .mulhu 0 0 64, .div 64 0 0, .div 0 64 0, .div 0 0 64, .divu 64 0 0, .divu 0 64 0, .divu 0 0 64, .rem 64 0 0, .rem 0 64 0, .rem 0 0 64,
    .remu 64 0 0, .remu 0 64 0, .remu 0 0 64, .min 64 0 0, .min 0 64 0, .min 0 0 64, .max 64 0 0, .max 0 64 0, .max 0 0 64, .minu 64 0 0, .minu 0 64 0,
    .minu 0 0 64, .maxu 64 0 0, .maxu 0 64 0, .maxu 0 0 64] : List Instr), instrWf i = false := by decide +kernel
theorem test_wf_refuses_2 : ∀ i ∈ ([
    .clz 64 0, .clz 0 64, .ctz 64 0, .ctz 0 64, .popc 64 0, .popc 0 64, .bswap 64 0, .bswap 0 64, .seq 64 0 0, .seq 0 64 0, .seq 0 0 64, .slt 64 0 0,
    .slt 0 64 0, .slt 0 0 64, .sltu 64 0 0, .sltu 0 64 0, .sltu 0 0 64, .sel 64 0 0 0, .sel 0 64 0 0, .sel 0 0 64 0, .sel 0 0 0 64, .bfx 64 0 0, .bfx 0 64 0,
    .bfx 0 0 64, .bfxu 64 0 0, .bfxu 0 64 0, .bfxu 0 0 64, .bfi 64 0 0 0, .bfi 0 64 0 0, .bfi 0 0 64 0, .bfi 0 0 0 64, .addi 64 0 0, .addi 0 64 0,
    .addi 0 0 (2 ^ 32), .andi 64 0 0, .andi 0 64 0, .andi 0 0 (2 ^ 32), .ori 64 0 0, .ori 0 64 0, .ori 0 0 (2 ^ 32), .xori 64 0 0, .xori 0 64 0,
    .xori 0 0 (2 ^ 32), .slli 64 0 0, .slli 0 64 0, .slli 0 0 (2 ^ 32), .srli 64 0 0, .srli 0 64 0, .srli 0 0 (2 ^ 32), .srai 64 0 0, .srai 0 64 0,
    .srai 0 0 (2 ^ 32), .slti 64 0 0, .slti 0 64 0, .slti 0 0 (2 ^ 32), .sltui 64 0 0, .sltui 0 64 0, .sltui 0 0 (2 ^ 32), .seqi 64 0 0, .seqi 0 64 0] : List Instr), instrWf i = false := by decide +kernel
theorem test_wf_refuses_3 : ∀ i ∈ ([
    .seqi 0 0 (2 ^ 32), .movi 64 0, .movi 0 (2 ^ 32), .movhi 64 0 0, .movhi 0 64 0, .movhi 0 0 (2 ^ 32), .lea 64 0 0 0, .lea 0 64 0 0, .lea 0 0 (2 ^ 32) 0,
    .lea 0 0 0 4, .addpc 64 0, .addpc 0 (2 ^ 32), .fadd 64 0 0 f1, .fadd 0 64 0 f1, .fadd 0 0 64 f1, .fadd 0 0 0 fB, .fsub 64 0 0 f1, .fsub 0 64 0 f1,
    .fsub 0 0 64 f1, .fsub 0 0 0 fB, .fmul 64 0 0 f1, .fmul 0 64 0 f1, .fmul 0 0 64 f1, .fmul 0 0 0 fB, .fdiv 64 0 0 f1, .fdiv 0 64 0 f1, .fdiv 0 0 64 f1,
    .fdiv 0 0 0 fB, .fsqrt 64 0 f1, .fsqrt 0 64 f1, .fsqrt 0 0 fB, .ffma 64 0 0 0 f1, .ffma 0 64 0 0 f1, .ffma 0 0 64 0 f1, .ffma 0 0 0 64 f1,
    .ffma 0 0 0 0 fB, .fmin 64 0 0 f1, .fmin 0 64 0 f1, .fmin 0 0 64 f1, .fmin 0 0 0 fB, .fmax 64 0 0 f1, .fmax 0 64 0 f1, .fmax 0 0 64 f1, .fmax 0 0 0 fB,
    .fcmp 64 0 0 f1, .fcmp 0 64 0 f1, .fcmp 0 0 64 f1, .fcmp 0 0 0 fB, .fclass 64 0 f1, .fclass 0 64 f1, .fclass 0 0 fB, .fcvt 64 0 0 f1, .fcvt 0 64 0 f1,
    .fcvt 0 0 64 f1, .fcvt 0 0 0 fB, .fmvg 64 0 f1, .fmvg 0 64 f1, .fmvg 0 0 fB, .fmvf 64 0 f1, .fmvf 0 64 f1] : List Instr), instrWf i = false := by decide +kernel
theorem test_wf_refuses_4 : ∀ i ∈ ([
    .fmvf 0 0 fB, .fsgn 64 0 0 f1, .fsgn 0 64 0 f1, .fsgn 0 0 64 f1, .fsgn 0 0 0 fB, .frnd 64 0 f1, .frnd 0 64 f1, .frnd 0 0 fB, .b 64 0 0 0, .b 0 64 0 0,
    .b 0 0 16 0, .b 0 0 0 (2 ^ 37), .bz 64 0 0, .bz 0 16 0, .bz 0 0 (2 ^ 37), .j (2 ^ 47), .jal 64 0, .jal 0 (2 ^ 47), .jalr 64 0 0, .jalr 0 64 0,
    .jalr 0 0 (2 ^ 32), .ret 64, .jtab 64 0 0, .jtab 0 (2 ^ 32) 0, .jtab 0 0 512, .ecatch 64 0, .ecatch 0 (2 ^ 47), .throw 64, .ld 64 m1, .ld 0 mB,
    .st 64 m1, .st 0 mB, .stn 64 m1, .stn 0 mB, .ldp 64 m1, .ldp 0 mB, .stp 64 m1, .stp 0 mB, .pref mB, .clean mB, .czero mB, .cdrop mB, .amo 64 0 m1,
    .amo 0 16 m1, .amo 0 0 mB, .acas 64 m1, .acas 0 mB, .fence 65536 0, .fence 0 4, .semwait 64 c1, .semwait 0 cB, .semsig 64 c1, .semsig 0 cB,
    .semset 64 c1, .semset 0 cB, .semrd 64 0, .semrd 0 256, .semrsig 64 0 c1 0, .semrsig 0 64 c1 0, .semrsig 0 0 cB 0] : List Instr), instrWf i = false := by decide +kernel
theorem test_wf_refuses_5 : ∀ i ∈ ([
    .semrsig 0 0 c1 4, .rcfg 64 0 0, .rcfg 0 64 0, .rcfg 0 0 256, .rclm 64 0 c1, .rclm 0 64 c1, .rclm 0 0 cB, .rpub 64 c1, .rpub 0 cB, .rwait 64 0 c1,
    .rwait 0 64 c1, .rwait 0 0 cB, .rrel 64 c1, .rrel 0 cB, .rstat 64 0 0, .rstat 0 256 0, .rstat 0 0 4, .tbset 64 0, .tbset 0 64, .tbwait 64 0,
    .tbwait 0 64, .barj 256, .bara 256, .barw 256, .barx 256, .phase 256, .qseq 64 0 0, .qseq 0 256 0, .qseq 0 0 4, .qdrain 256, .mcfg 64 0, .mcfg 0 256,
    .mcfgrd 64 0 0, .mcfgrd 0 256 0, .mcfgrd 0 0 4, .mhset 64 0, .mhset 0 256, .tick 64, .sleepu 64, .prmget 64 0, .prmget 0 64, .prmwait 64, .movxr 64 0 0,
    .movxr 0 64 0, .movxr 0 0 (2 ^ 32), .movxw 64 0 0, .movxw 0 64 0, .movxw 0 0 (2 ^ 32), .fmovxr 64 0 0, .fmovxr 0 64 0, .fmovxr 0 0 (2 ^ 32),
    .fmovxw 64 0 0, .fmovxw 0 64 0, .fmovxw 0 0 (2 ^ 32), .ctxsw 64 0 0, .ctxsw 0 64 0, .ctxsw 0 0 4, .yield 64, .node 64 0 0, .node 0 64 0] : List Instr), instrWf i = false := by decide +kernel
theorem test_wf_refuses_6 : ∀ i ∈ ([
    .node 0 0 65536, .park 4, .wake 64, .ctxrd 64 0 0, .ctxrd 0 64 0, .ctxrd 0 0 256, .ctxwr 64 0 0, .ctxwr 0 64 0, .ctxwr 0 0 256, .launch 64 0 0,
    .launch 0 64 0, .launch 0 0 64, .iter 64 0, .iter 0 256, .bucket 64 0, .bucket 0 256, .trap 64 0, .trap 0 256, .syscall 65536, .sysrd 64 0,
    .sysrd 0 4096, .syswr 64 0, .syswr 0 4096, .bkpt 65536, .shoot 64 0 0 0, .shoot 0 64 0 0, .shoot 0 0 64 0, .shoot 0 0 0 4, .replset 64 0 0,
    .replset 0 4 0, .replset 0 0 2, .keyload 64 0 0 0, .keyload 0 64 0 0, .keyload 0 0 64 0, .keyload 0 0 0 256, .keykill 64 0, .keykill 0 256, .zerosp 64 0,
    .zerosp 0 64, .mark 256, .causal 64 0 0 0, .causal 0 64 0 0, .causal 0 0 256 0, .causal 0 0 0 65536, .cntrd 64 0, .cntrd 0 64, .qreset 64 0, .qreset 0 4,
    .dispatch (2 ^ 64), .vnop hB, .vadd hB x1, .vadd h1 xB, .vsub hB x1, .vsub h1 xB, .vmul hB x1, .vmul h1 xB, .vfma hB x1, .vfma h1 xB, .vfms hB x1,
    .vfms h1 xB] : List Instr), instrWf i = false := by decide +kernel
theorem test_wf_refuses_7 : ∀ i ∈ ([
    .vmin hB x1, .vmin h1 xB, .vmax hB x1, .vmax h1 xB, .vabs hB x1, .vabs h1 xB, .vneg hB x1, .vneg h1 xB, .vrcp hB x1, .vrcp h1 xB, .vrsq hB x1,
    .vrsq h1 xB, .vexp2 hB x1, .vexp2 h1 xB, .vlog2 hB x1, .vlog2 h1 xB, .vtanh hB x1, .vtanh h1 xB, .vcvt hB x2, .vcvt h1 yB, .vand hB x1, .vand h1 xB,
    .vor hB x1, .vor h1 xB, .vxor hB x1, .vxor h1 xB, .vshl hB x1, .vshl h1 xB, .vshr hB x1, .vshr h1 xB, .vcmp hB x1, .vcmp h1 xB, .vsel hB x1, .vsel h1 xB,
    .vred hB x1, .vred h1 xB, .vscan hB x1, .vscan h1 xB, .vperm hB x1, .vperm h1 xB, .vbcast hB x1, .vbcast h1 xB, .viota hB x1, .viota h1 xB, .vpack hB x1,
    .vpack h1 xB, .vunpk hB x1, .vunpk h1 xB, .vqnt hB x2, .vqnt h1 yB, .vdqnt hB x2, .vdqnt h1 yB, .vld hB x3, .vld h1 vB, .vst hB x3, .vst h1 vB,
    .vldx hB x4, .vldx h1 wB, .vstx hB x4, .vstx h1 wB] : List Instr), instrWf i = false := by decide +kernel
theorem test_wf_refuses_8 : ∀ i ∈ ([
    .vmovc hB 0 0 0, .vmovc h1 32 0 0, .vmovc h1 0 64 0, .vmovc h1 0 0 2, .vmsk hB 0 0 0 0, .vmsk h1 8 0 0 0, .vmsk h1 0 8 0 0, .vmsk h1 0 0 8 0,
    .vmsk h1 0 0 0 8, .vtbld hB 0 0 0 0, .vtbld h1 8 0 0 0, .vtbld h1 0 16 0 0, .vtbld h1 0 0 32 0, .vtbld h1 0 0 0 32, .vsmx hB 0 0 0 0, .vsmx h1 4 0 0 0,
    .vsmx h1 0 32 0 0, .vsmx h1 0 0 32 0, .vsmx h1 0 0 0 32, .veLanding 512, .mnop hB, .mgo hB, .mmul hB 0 0, .mmul h1 4 0, .mmul h1 0 2, .mgath hB 0 0 0,
    .mgath h1 4 0 0, .mgath h1 0 2 0, .mgath h1 0 0 512, .mlut hB 0 0 0 0, .mlut h1 4 0 0 0, .mlut h1 0 2 0 0, .mlut h1 0 0 4 0, .mlut h1 0 0 0 4, .mzero hB,
    .mdrain hB x5, .mdrain h1 dB, .xnop hB, .xcpy hB 0, .xcpy h1 65536, .xbtab hB 0, .xbtab h1 65536, .xsgl hB 0, .xsgl h1 65536, .xfill hB 0,
    .xfill h1 65536, .xbst hB 0, .xbst h1 65536, .xmap hB 0, .xmap h1 65536, .xmapUnmap hB 0, .xmapUnmap h1 65536, .xmapLazyWriteBack 512 0,
    .xmapLazyWriteBack 0 49152, .gnop hB, .ggath hB 0, .ggath h1 65536, .gscat hB 0, .gscat h1 65536, .gscadd hB 0] : List Instr), instrWf i = false := by decide +kernel
theorem test_wf_refuses_9 : ∀ i ∈ ([
    .gscadd h1 65536, .gcmpct hB 0, .gcmpct h1 65536, .glive hB 0, .glive h1 65536, .lnop hB, .lput hB 0, .lput h1 65536, .lget hB 0, .lget h1 65536,
    .lenq hB 0, .lenq h1 65536, .lsig hB 0, .lsig h1 65536, .lred hB 0, .lred h1 65536, .snop hB, .sattn hB 0, .sattn h1 65536, .skvapp hB 0,
    .skvapp h1 65536, .sscore hB 0, .sscore h1 65536, .scpy hB 0, .scpy h1 65536, .sprobe hB 0, .sprobe h1 65536, .map 10, .unmap 10, .destroy 10,
    .protect 10, .pmcFill 512 0, .pmcFill 0 (2 ^ 56), .walk 10 0 0, .walk 0 (2 ^ 16) 0, .walk 0 0 (2 ^ 56), .mtuFill kB, .mtuWriteBack kB,
    .performHeldWrites kB, .deferredFaultRecord 65, .homeRead 512 k1, .homeRead 0 kB, .homeOwnership 512 k1, .homeOwnership 0 kB, .skim 4 k1, .skim 0 kB,
    .skimAcknowledgement 4 k1, .skimAcknowledgement 0 kB, .skimsDone kB, .dropNotice 4 k1, .dropNotice 0 kB, .ownerWriteBack kB, .ownershipGrant 512 k1,
    .ownershipGrant 0 kB, .rctSweep 4, .scrimwaysChange 4, .snpData (2 ^ 52), .snpInv (2 ^ 52), .snpCur (2 ^ 52), .memRdSnpData (2 ^ 52)] : List Instr), instrWf i = false := by decide +kernel
theorem test_wf_refuses_10 : ∀ i ∈ ([
    .memRdSnpInv (2 ^ 52), .memWr (2 ^ 52) 0, .inboundWrite (2 ^ 52) [], .rseEvaluate (2 ^ 16), .move 4, .deadlineMiss 4, .poisonGranule (2 ^ 52),
    .refetchCleanCopy 4 k1, .refetchCleanCopy 0 kB, .promote 4, .demote 4, .pin 4, .unpin 4, .refetch 4, .residencyEvent 4, .lqprod 65 0 0 0,
    .lqprod 0 4 0 0, .lqprod 0 0 64 0, .lqprod 0 0 0 (2 ^ 32), .launchPacket 4 0, .launchPacket 0 64, .ffence 4 0, .ffence 0 64, .skip 4 0, .skip 0 64,
    .prologue 4 0, .prologue 0 64, .prologueTimeout 4, .formBatch 4 0 0, .formBatch 0 0 4, .pick 4, .windowRestart 4, .kernelLoad 512, .handOff 4,
    .timeSliceEnd 4, .start 4, .preempt 4, .drop 4, .schedulingEvent 4, .phaseUpdate 512 0 0, .phaseUpdate 0 512 0, .phaseUpdate 0 0 4, .tbwaitTimeout 512,
    .promise 512, .watchdog 512, .trapEntry 512, .xeAbandon 512, .keySlotZeroing 512 0 0, .keySlotZeroing 0 16 0, .qcommit (2 ^ 64) .monitor,
    .vfen 2 0 .monitor, .vfen 0 (2 ^ 64) .monitor, .create 4 0, .create 0 (2 ^ 16), .free 4 0, .free 0 (2 ^ 16), .swapout 4 0, .swapout 0 (2 ^ 16),
    .swapin 4 0, .swapin 0 (2 ^ 16)] : List Instr), instrWf i = false := by decide +kernel
theorem test_wf_refuses_11 : ∀ i ∈ ([
    .retrysave 4 0, .retrysave 0 (2 ^ 16), .restart 520 0, .coreWake 520, .dieGating (2 ^ 64) true, .tickadj (2 ^ 64), .rctQuery 4, .pgdQuery 4, .rhtQuery 4,
    .horizon 65 0, .horizon 0 4, .replayInput 65 0, .replayInput 0 4, .causalPause 512, .functionLevelReset 65, .dieOnline 4 true, .parityError 512,
    .registerWrite (2 ^ 48) 1 0 .monitor, .registerWrite 0 3 0 .monitor, .registerWrite 0 1 (2 ^ 64) .monitor, .sleepuTickReached 512,
    .hostAnswer kB .shared, .pluginBudgetExpiry 515, .pluginBudgetExpiry 520, .deadlineLeadReached 4, .frameZeroingEnd (2 ^ 52), .storeLogWriteDone 512] : List Instr), instrWf i = false := by decide +kernel
theorem test_wf_admits_1 : ∀ i ∈ ([
    .add 0 0 0, .sub 0 0 0, .and 0 0 0, .or 0 0 0, .xor 0 0 0, .andn 0 0 0, .sll 0 0 0, .srl 0 0 0, .sra 0 0 0, .mul 0 0 0, .mulh 0 0 0, .mulhu 0 0 0,
    .div 0 0 0, .divu 0 0 0, .rem 0 0 0, .remu 0 0 0, .min 0 0 0, .max 0 0 0, .minu 0 0 0, .maxu 0 0 0, .clz 0 0, .ctz 0 0, .popc 0 0, .bswap 0 0,
    .seq 0 0 0, .slt 0 0 0, .sltu 0 0 0, .sel 0 0 0 0, .bfx 0 0 0, .bfxu 0 0 0, .bfi 0 0 0 0, .addi 0 0 0, .andi 0 0 0, .ori 0 0 0, .xori 0 0 0, .slli 0 0 0,
    .srli 0 0 0, .srai 0 0 0, .slti 0 0 0, .sltui 0 0 0, .seqi 0 0 0, .movi 0 0, .movhi 0 0 0, .lea 0 0 0 0, .addpc 0 0, .fadd 0 0 0 f1, .fsub 0 0 0 f1,
    .fmul 0 0 0 f1, .fdiv 0 0 0 f1, .fsqrt 0 0 f1, .ffma 0 0 0 0 f1, .fmin 0 0 0 f1, .fmax 0 0 0 f1, .fcmp 0 0 0 f1, .fclass 0 0 f1, .fcvt 0 0 0 f1,
    .fmvg 0 0 f1, .fmvf 0 0 f1, .fsgn 0 0 0 f1, .frnd 0 0 f1, .b 0 0 0 0, .bz 0 0 0, .j 0, .jal 0 0, .jalr 0 0 0, .ret 0, .jtab 0 0 0, .ecatch 0 0, .throw 0,
    .ld 0 m1, .st 0 m1, .stn 0 m1, .ldp 0 m1, .stp 0 m1, .pref m1, .clean m1, .czero m1, .cdrop m1, .amo 0 0 m1, .acas 0 m1, .fence 0 0, .semwait 0 c1,
    .semsig 0 c1, .semset 0 c1, .semrd 0 0, .semrsig 0 0 c1 0, .rcfg 0 0 0, .rclm 0 0 c1, .rpub 0 c1, .rwait 0 0 c1] : List Instr), instrWf i = true := by decide +kernel
theorem test_wf_admits_2 : ∀ i ∈ ([
    .rrel 0 c1, .rstat 0 0 0, .tbset 0 0, .tbwait 0 0, .barj 0, .bara 0, .barw 0, .barx 0, .phase 0, .qseq 0 0 0, .qdrain 0, .mcfg 0 0, .mcfgrd 0 0 0,
    .mhset 0 0, .tick 0, .sleepu 0, .prmget 0 0, .prmwait 0, .movxr 0 0 0, .movxw 0 0 0, .fmovxr 0 0 0, .fmovxw 0 0 0, .ctxsw 0 0 0, .yield 0, .node 0 0 0,
    .park 0, .wake 0, .ctxrd 0 0 0, .ctxwr 0 0 0, .launch 0 0 0, .iter 0 0, .bucket 0 0, .trap 0 0, .syscall 0, .sysrd 0 0, .syswr 0 0, .bkpt 0,
    .shoot 0 0 0 0, .replset 0 0 0, .keyload 0 0 0 0, .keykill 0 0, .zerosp 0 0, .mark 0, .causal 0 0 0 0, .cntrd 0 0, .qreset 0 0, .dispatch 0, .vnop h1,
    .vadd h1 x1, .vsub h1 x1, .vmul h1 x1, .vfma h1 x1, .vfms h1 x1, .vmin h1 x1, .vmax h1 x1, .vabs h1 x1, .vneg h1 x1, .vrcp h1 x1, .vrsq h1 x1,
    .vexp2 h1 x1, .vlog2 h1 x1, .vtanh h1 x1, .vcvt h1 x2, .vand h1 x1, .vor h1 x1, .vxor h1 x1, .vshl h1 x1, .vshr h1 x1, .vcmp h1 x1, .vsel h1 x1,
    .vred h1 x1, .vscan h1 x1, .vperm h1 x1, .vbcast h1 x1, .viota h1 x1, .vpack h1 x1, .vunpk h1 x1, .vqnt h1 x2, .vdqnt h1 x2, .vld h1 x3, .vst h1 x3,
    .vldx h1 x4, .vstx h1 x4, .vmovc h1 0 0 0, .vmsk h1 0 0 0 0, .vtbld h1 0 0 0 0, .vsmx h1 0 0 0 0, .veLanding 0, .mnop h1, .mgo h1] : List Instr), instrWf i = true := by decide +kernel
theorem test_wf_admits_3 : ∀ i ∈ ([
    .mmul h1 0 0, .mgath h1 0 0 0, .mlut h1 0 0 0 0, .mzero h1, .mdrain h1 x5, .xnop h1, .xcpy h1 0, .xbtab h1 0, .xsgl h1 0, .xfill h1 0, .xbst h1 0,
    .xmap h1 0, .xmapUnmap h1 0, .xmapLazyWriteBack 0 0, .gnop h1, .ggath h1 0, .gscat h1 0, .gscadd h1 0, .gcmpct h1 0, .glive h1 0, .lnop h1, .lput h1 0,
    .lget h1 0, .lenq h1 0, .lsig h1 0, .lred h1 0, .snop h1, .sattn h1 0, .skvapp h1 0, .sscore h1 0, .scpy h1 0, .sprobe h1 0, .map 0, .unmap 0,
    .destroy 0, .protect 0, .pmcFill 0 0, .walk 0 0 0, .mtuFill k1, .mtuWriteBack k1, .performHeldWrites k1, .deferredFaultRecord 0, .homeRead 0 k1,
    .homeOwnership 0 k1, .skim 0 k1, .skimAcknowledgement 0 k1, .skimsDone k1, .dropNotice 0 k1, .ownerWriteBack k1, .ownershipGrant 0 k1, .rctSweep 0,
    .scrimwaysChange 0, .snpData 0, .snpInv 0, .snpCur 0, .memRdSnpData 0, .memRdSnpInv 0, .memWr 0 0, .inboundWrite 0 [], .rseEvaluate 0, .move 0,
    .deadlineMiss 0, .poisonGranule 0, .refetchCleanCopy 0 k1, .promote 0, .demote 0, .pin 0, .unpin 0, .refetch 0, .residencyEvent 0, .lqprod 0 0 0 0,
    .launchPacket 0 0, .ffence 0 0, .skip 0 0, .prologue 0 0, .prologueTimeout 0, .formBatch 0 0 0, .pick 0, .windowRestart 0, .kernelLoad 0, .handOff 0,
    .timeSliceEnd 0, .start 0, .preempt 0, .drop 0, .schedulingEvent 0, .phaseUpdate 0 0 0, .tbwaitTimeout 0, .promise 0, .watchdog 0] : List Instr), instrWf i = true := by decide +kernel
theorem test_wf_admits_4 : ∀ i ∈ ([
    .trapEntry 0, .xeAbandon 0, .keySlotZeroing 0 0 0, .qcommit 0 .monitor, .vfen 0 0 .monitor, .create 0 0, .free 0 0, .swapout 0 0, .swapin 0 0,
    .retrysave 0 0, .restart 0 0, .coreWake 0, .dieGating 0 true, .tickadj 0, .rctQuery 0, .pgdQuery 0, .rhtQuery 0, .horizon 0 0, .replayInput 0 0,
    .causalPause 0, .functionLevelReset 0, .dieOnline 0 true, .parityError 0, .registerWrite 0 1 0 .monitor, .sleepuTickReached 0, .hostAnswer k1 .shared,
    .pluginBudgetExpiry 516, .deadlineLeadReached 0, .frameZeroingEnd 0, .storeLogWriteDone 0] : List Instr), instrWf i = true := by decide +kernel
-- ## Words written field by field from the encoding tables of R180, R184 to R188, R196, R197, R231, R280, R305 and R325
theorem test_decode_integer : ∀ x ∈ ([
    (0x0000000000000000, .nop), (0x0034AC6800000000, .add 41 22 13), (0x0054AC6800000000, .sub 41 22 13), (0x0074AC6800000000, .and 41 22 13),
    (0x0094AC6800000000, .or 41 22 13), (0x00B4AC6800000000, .xor 41 22 13), (0x00D4AC6800000000, .andn 41 22 13), (0x00F4AC6800000000, .sll 41 22 13),
    (0x0114AC6800000000, .srl 41 22 13), (0x0134AC6800000000, .sra 41 22 13), (0x0154AC6800000000, .mul 41 22 13),
    (0x0174AC6800000000, .mulh 41 22 13), (0x0194AC6800000000, .mulhu 41 22 13), (0x01B4AC6800000000, .div 41 22 13),
    (0x01D4AC6800000000, .divu 41 22 13), (0x01F4AC6800000000, .rem 41 22 13), (0x0214AC6800000000, .remu 41 22 13),
    (0x0234AC6800000000, .min 41 22 13), (0x0254AC6800000000, .max 41 22 13), (0x0274AC6800000000, .minu 41 22 13),
    (0x0294AC6800000000, .maxu 41 22 13), (0x02B4AC0000000000, .clz 41 22), (0x02D4AC0000000000, .ctz 41 22), (0x02F4AC0000000000, .popc 41 22),
    (0x0314AC0000000000, .bswap 41 22), (0x0334AC6800000000, .seq 41 22 13), (0x0354AC6800000000, .slt 41 22 13), (0x0374AC6800000000, .sltu 41 22 13),
    (0x0394AC6F40000000, .sel 41 22 13 58), (0x03B4AC6800000000, .bfx 41 22 13), (0x03D4AC6800000000, .bfxu 41 22 13),
    (0x03F4AC6F40000000, .bfi 41 22 13 58)] : List (Nat × Instr)), decodeTableWord 64 x.1 = some x.2 := by decide +kernel
theorem test_decode_immediate : ∀ x ∈ ([
    (0x0414AD13579BDE00, .addi 41 22 0x89ABCDEF), (0x0434AD13579BDE00, .andi 41 22 0x89ABCDEF), (0x0454AD13579BDE00, .ori 41 22 0x89ABCDEF),
    (0x0474AD13579BDE00, .xori 41 22 0x89ABCDEF), (0x0494AC0000004A00, .slli 41 22 37), (0x04B4AC0000004A00, .srli 41 22 37),
    (0x04D4AC0000004A00, .srai 41 22 37), (0x04F4AD13579BDE00, .slti 41 22 0x89ABCDEF), (0x0514AD13579BDE00, .sltui 41 22 0x89ABCDEF),
    (0x0534AD13579BDE00, .seqi 41 22 0x89ABCDEF), (0x05548113579BDE00, .movi 41 0x89ABCDEF), (0x0574AD13579BDE00, .movhi 41 22 0x89ABCDEF),
    (0x0594AD13579BDE02, .lea 41 22 0x89ABCDEF 2), (0x05B48113579BDE00, .addpc 41 0x89ABCDEF)] : List (Nat × Instr)), decodeTableWord 64 x.1 = some x.2 := by decide +kernel
theorem test_decode_floating : ∀ x ∈ ([
    (0x060A94E807000000, .fadd 21 10 29 ⟨0, 3, 1⟩), (0x062A94E807000000, .fsub 21 10 29 ⟨0, 3, 1⟩), (0x064A94E807000000, .fmul 21 10 29 ⟨0, 3, 1⟩),
    (0x066A94E807000000, .fdiv 21 10 29 ⟨0, 3, 1⟩), (0x068A940003000000, .fsqrt 21 10 ⟨0, 1, 1⟩), (0x06AA94E8D4000000, .ffma 21 10 29 6 ⟨1, 2, 0⟩),
    (0x06CA94E811000000, .fmin 21 10 29 ⟨1, 0, 1⟩), (0x06EA94E811000000, .fmax 21 10 29 ⟨1, 0, 1⟩), (0x0734940001000000, .fclass 41 10 ⟨0, 0, 1⟩),
    (0x074A941807000000, .fcvt 21 10 3 ⟨0, 3, 1⟩), (0x0774940001000000, .fmvg 41 10 ⟨0, 0, 1⟩), (0x078AAC0001000000, .fmvf 21 22 ⟨0, 0, 1⟩),
    (0x07AA94E811000000, .fsgn 21 10 29 ⟨1, 0, 1⟩), (0x07CA940003000000, .frnd 21 10 ⟨0, 1, 1⟩)] : List (Nat × Instr)), decodeTableWord 64 x.1 = some x.2 := by decide +kernel
theorem test_decode_transfer : ∀ x ∈ ([
    (0x080B1ABFFFFFFFFB, .b 22 13 5 137438953467), (0x082B007FFFFFFFFB, .bz 22 3 137438953467), (0x08407FFFFFFFFFFD, .j 140737488355325),
    (0x0874800000000009, .jal 41 9), (0x0894AD13579BDE00, .jalr 41 22 0x89ABCDEF), (0x08A02C0000000000, .ret 22),
    (0x08C02D13579BDF2C, .jtab 22 0x89ABCDEF 300), (0x08F4800000000006, .ecatch 41 6), (0x0900000000000000, .edrop), (0x09202C0000000000, .throw 22)] : List (Nat × Instr)), decodeTableWord 64 x.1 = some x.2 := by decide +kernel
theorem test_decode_memory : ∀ x ∈ ([
    (0x0A14AC6C8AF68001, .ld 41 ⟨22, 13, 9, 0, 2, 1, 1, 3, 2, 1, 2, 32769⟩), (0x0A34AC6CAD28FFF8, .st 41 ⟨22, 13, 9, 1, 3, 0, 2, 1, 1, 0, 0, 65528⟩),
    (0x0A54AC6993580005, .stn 41 ⟨22, 13, 3, 0, 4, 1, 2, 2, 3, 0, 0, 5⟩), (0x0A74AC6894DF0010, .ldp 41 ⟨22, 13, 1, 0, 5, 0, 1, 2, 3, 1, 3, 16⟩),
    (0x0A94AC68B5580010, .stp 41 ⟨22, 13, 1, 1, 5, 0, 2, 2, 3, 0, 0, 16⟩), (0x0AA02C69002D0040, .pref ⟨22, 13, 2, 0, 0, 0, 0, 1, 1, 1, 1, 64⟩),
    (0x0AC02C6A00500080, .clean ⟨22, 13, 4, 0, 0, 0, 0, 2, 2, 0, 0, 128⟩), (0x0AE02C6A00500080, .czero ⟨22, 13, 4, 0, 0, 0, 0, 2, 2, 0, 0, 128⟩),
    (0x0B002C6A00500080, .cdrop ⟨22, 13, 4, 0, 0, 0, 0, 2, 2, 0, 0, 128⟩), (0x0B94AC6AAFC07808, .amo 41 7 ⟨22, 13, 5, 1, 3, 1, 3, 2, 0, 0, 0, 2056⟩),
    (0x0BB4AC6A8BE70FFC, .acas 41 ⟨22, 13, 5, 0, 2, 1, 3, 3, 0, 1, 3, 4092⟩)] : List (Nat × Instr)), decodeTableWord 64 x.1 = some x.2 := by decide +kernel
theorem test_decode_sync : ∀ x ∈ ([
    (0x0C0000052E1C0000, .fence 0xA5C3 2), (0x0C2000064091A000, .semwait 0 ⟨200, 0x1234, 0⟩), (0x0C202C0640000400, .semwait 22 ⟨200, 0, 1⟩),
    (0x0C4000064091A000, .semsig 0 ⟨200, 0x1234, 0⟩), (0x0C402C0640000400, .semsig 22 ⟨200, 0, 1⟩), (0x0C6000064091A000, .semset 0 ⟨200, 0x1234, 0⟩),
    (0x0C602C0640000400, .semset 22 ⟨200, 0, 1⟩), (0x0C94800640000000, .semrd 41 200), (0x0CA02C6E40000600, .semrsig 22 13 ⟨200, 0, 1⟩ 2),
    (0x0CC02C69F8000000, .rcfg 22 13 63), (0x0CF4800140003800, .rclm 41 0 ⟨40, 7, 0⟩), (0x0D002C0140000400, .rpub 22 ⟨40, 0, 1⟩),
    (0x0D34AC0140000400, .rwait 41 22 ⟨40, 0, 1⟩), (0x0D40000140003800, .rrel 0 ⟨40, 7, 0⟩), (0x0D74800140000001, .rstat 41 40 1),
    (0x0D802C6800000000, .tbset 22 13), (0x0DA02C6800000000, .tbwait 22 13), (0x0DC0000278000000, .barj 79), (0x0DE0000278000000, .bara 79),
    (0x0E00000278000000, .barw 79), (0x0E20000278000000, .barx 79), (0x0E40000018000000, .phase 3), (0x0E74800028000002, .qseq 41 5 2),
    (0x0E80000158000000, .qdrain 0x2B)] : List (Nat × Instr)), decodeTableWord 64 x.1 = some x.2 := by decide +kernel
theorem test_decode_units : ∀ x ∈ ([
    (0x0F002C00A0000000, .mcfg 22 0x14), (0x0F348000E8000001, .mcfgrd 41 0x1D 1), (0x0F402C0018000000, .mhset 22 3), (0x0F94800000000000, .tick 41),
    (0x0FA02C0000000000, .sleepu 22), (0x0FD4AC0000000000, .prmget 41 22), (0x0FE02C0000000000, .prmwait 22),
    (0x1014AD13579BDE00, .movxr 41 22 0x89ABCDEF), (0x1034AD13579BDE00, .movxw 41 22 0x89ABCDEF), (0x104AAD13579BDE00, .fmovxr 21 22 0x89ABCDEF),
    (0x106AAD13579BDE00, .fmovxw 21 22 0x89ABCDEF)] : List (Nat × Instr)), decodeTableWord 64 x.1 = some x.2 := by decide +kernel
theorem test_decode_contexts : ∀ x ∈ ([
    (0x1114AC0000000000, .ctxsw 41 22 0), (0x1134800000000000, .yield 41), (0x11402C680091A000, .node 22 13 0x1234), (0x1160000000000001, .park 1),
    (0x11802C0000000000, .wake 22), (0x11B4AC01F8000000, .ctxrd 41 22 63), (0x11C02C69F8000000, .ctxwr 22 13 63),
    (0x11F4AC6800000000, .launch 41 22 13), (0x1214800038000000, .iter 41 7), (0x1234800040000000, .bucket 41 8), (0x1240000000000000, .exit),
    (0x1260000000000000, .kill)] : List (Nat × Instr)), decodeTableWord 64 x.1 = some x.2 := by decide +kernel
theorem test_decode_system : ∀ x ∈ ([
    (0x14002C00B0000000, .trap 22 0x16), (0x1420000007F6E000, .syscall 0xFEDC), (0x1440000000000000, .eretResume),
    (0x1474800012800000, .sysrd 41 0x25), (0x14802C0019000000, .syswr 22 0x32), (0x14A0000000000000, .halt), (0x14C0000000004800, .bkpt 9),
    (0x14E0000000000000, .idle), (0x1514AC6800000000, .shoot 41 22 13 0), (0x1500000000000003, .shoot 0 0 0 3), (0x15202C0500000000, .replset 22 2 1),
    (0x1554AC6878000000, .keyload 41 22 13 15), (0x15602C0078000000, .keykill 22 15), (0x15802C6800000000, .zerosp 22 13),
    (0x15A0000078000000, .mark 15), (0x15C02C681891A000, .causal 22 13 3 0x1234), (0x15F4AC0000000000, .cntrd 41 22),
    (0x16002C0000000001, .qreset 22 1)] : List (Nat × Instr)), decodeTableWord 64 x.1 = some x.2 := by decide +kernel
theorem test_decode_noops : ∀ x ∈ ([
    (0x39129AA000000000, .vnop ⟨200, 9, 77, 5, 0, 0⟩), (0x59129AA000000000, .mnop ⟨200, 9, 77, 5, 0, 0⟩),
    (0x79129AA000000000, .xnop ⟨200, 9, 77, 5, 0, 0⟩), (0x99129AA000000000, .gnop ⟨200, 9, 77, 5, 0, 0⟩),
    (0xB9129AA000000000, .lnop ⟨200, 9, 77, 5, 0, 0⟩), (0xD9129AA000000000, .snop ⟨200, 9, 77, 5, 0, 0⟩)] : List (Nat × Instr)), decodeTableWord 64 x.1 = some x.2 := by decide +kernel
theorem test_decode_vector : ∀ x ∈ ([
    (0x39129AA0808AABB7, .vadd ⟨200, 9, 77, 5, 0, 0⟩ ⟨8, 21, 10, 29, 5, 1, 1⟩),
    (0x39129AA16C0AA815, .vsub ⟨200, 9, 77, 5, 1, 44⟩ ⟨0, 21, 10, 0, 5, 0, 1⟩),
    (0x39129AA1801AABB5, .vmul ⟨200, 9, 77, 5, 0, 0⟩ ⟨1, 21, 10, 29, 5, 0, 1⟩),
    (0x39129AA2001AABB5, .vfma ⟨200, 9, 77, 5, 0, 0⟩ ⟨1, 21, 10, 29, 5, 0, 1⟩),
    (0x39129AA2801AABB5, .vfms ⟨200, 9, 77, 5, 0, 0⟩ ⟨1, 21, 10, 29, 5, 0, 1⟩),
    (0x39129AA3002AABAE, .vmin ⟨200, 9, 77, 5, 0, 0⟩ ⟨2, 21, 10, 29, 3, 1, 0⟩),
    (0x39129AA3809AABAD, .vmax ⟨200, 9, 77, 5, 0, 0⟩ ⟨9, 21, 10, 29, 3, 0, 1⟩),
    (0x39129AA400BAA80E, .vabs ⟨200, 9, 77, 5, 0, 0⟩ ⟨11, 21, 10, 0, 3, 1, 0⟩),
    (0x39129AA4801AA80D, .vneg ⟨200, 9, 77, 5, 0, 0⟩ ⟨1, 21, 10, 0, 3, 0, 1⟩),
    (0x39129AA5000AA819, .vrcp ⟨200, 9, 77, 5, 0, 0⟩ ⟨0, 21, 10, 0, 6, 0, 1⟩),
    (0x39129AA5800AA819, .vrsq ⟨200, 9, 77, 5, 0, 0⟩ ⟨0, 21, 10, 0, 6, 0, 1⟩),
    (0x39129AA6000AA819, .vexp2 ⟨200, 9, 77, 5, 0, 0⟩ ⟨0, 21, 10, 0, 6, 0, 1⟩),
    (0x39129AA6800AA819, .vlog2 ⟨200, 9, 77, 5, 0, 0⟩ ⟨0, 21, 10, 0, 6, 0, 1⟩),
    (0x39129AA7000AA819, .vtanh ⟨200, 9, 77, 5, 0, 0⟩ ⟨0, 21, 10, 0, 6, 0, 1⟩),
    (0x39129AA78E1AA809, .vcvt ⟨200, 9, 77, 5, 0, 0⟩ ⟨1, 1, 1, 0, 1, 21, 10, 0, 2, 0, 1⟩),
    (0x39129AA8000AABB5, .vand ⟨200, 9, 77, 5, 0, 0⟩ ⟨0, 21, 10, 29, 5, 0, 1⟩),
    (0x39129AA8800AABB5, .vor ⟨200, 9, 77, 5, 0, 0⟩ ⟨0, 21, 10, 29, 5, 0, 1⟩),
    (0x39129AA9000AABB5, .vxor ⟨200, 9, 77, 5, 0, 0⟩ ⟨0, 21, 10, 29, 5, 0, 1⟩),
    (0x39129AA980CAABB5, .vshl ⟨200, 9, 77, 5, 0, 0⟩ ⟨12, 21, 10, 29, 5, 0, 1⟩),
    (0x39129AAA00CAABB5, .vshr ⟨200, 9, 77, 5, 0, 0⟩ ⟨12, 21, 10, 29, 5, 0, 1⟩),
    (0x39129AAA800AABB6, .vcmp ⟨200, 9, 77, 5, 0, 0⟩ ⟨0, 21, 10, 29, 5, 1, 0⟩),
    (0x39129AAB000AABB4, .vsel ⟨200, 9, 77, 5, 0, 0⟩ ⟨0, 21, 10, 29, 5, 0, 0⟩),
    (0x39129AAB800AA816, .vred ⟨200, 9, 77, 5, 0, 0⟩ ⟨0, 21, 10, 0, 5, 1, 0⟩),
    (0x39129AAC00BAA815, .vscan ⟨200, 9, 77, 5, 0, 0⟩ ⟨11, 21, 10, 0, 5, 0, 1⟩),
    (0x39129AAC800AABB5, .vperm ⟨200, 9, 77, 5, 0, 0⟩ ⟨0, 21, 10, 29, 5, 0, 1⟩),
    (0x39129AAD000AA815, .vbcast ⟨200, 9, 77, 5, 0, 0⟩ ⟨0, 21, 10, 0, 5, 0, 1⟩),
    (0x39129AAD809A8015, .viota ⟨200, 9, 77, 5, 0, 0⟩ ⟨9, 21, 0, 0, 5, 0, 1⟩),
    (0x39129AAE000AA815, .vpack ⟨200, 9, 77, 5, 0, 0⟩ ⟨0, 21, 10, 0, 5, 0, 1⟩),
    (0x39129AAE806AA800, .vunpk ⟨200, 9, 77, 5, 0, 0⟩ ⟨6, 21, 10, 0, 0, 0, 0⟩),
    (0x39129AAF0E3AABA0, .vqnt ⟨200, 9, 77, 5, 0, 0⟩ ⟨1, 1, 1, 0, 3, 21, 10, 29, 0, 0, 0⟩),
    (0x39129AAF937AABAD, .vdqnt ⟨200, 9, 77, 5, 0, 0⟩ ⟨2, 0, 1, 1, 7, 21, 10, 29, 3, 0, 1⟩),
    (0x39129AB06CD6C321, .vld ⟨200, 9, 77, 5, 1, 44⟩ ⟨1, 21, 5, 0x4321⟩), (0x39129AB0ECD6C321, .vst ⟨200, 9, 77, 5, 1, 44⟩ ⟨1, 21, 5, 0x4321⟩),
    (0x39129AB16C555700, .vldx ⟨200, 9, 77, 5, 1, 44⟩ ⟨0, 21, 10, 5, 3⟩), (0x39129AB1EC555700, .vstx ⟨200, 9, 77, 5, 1, 44⟩ ⟨0, 21, 10, 5, 3⟩),
    (0x39129AB26C0AFC01, .vmovc ⟨200, 9, 77, 5, 1, 44⟩ 21 62 1), (0x39129AB280077002, .vmsk ⟨200, 9, 77, 5, 0, 0⟩ 3 5 6 2),
    (0x39129AB3182AA800, .vtbld ⟨200, 9, 77, 5, 0, 0⟩ 3 2 21 10), (0x39129AB38082AA80, .vsmx ⟨200, 9, 77, 5, 0, 0⟩ 2 5 10 20)] : List (Nat × Instr)), decodeTableWord 64 x.1 = some x.2 := by decide +kernel
theorem test_decode_matrix : ∀ x ∈ ([
    (0x59129AA080000000, .mgo ⟨200, 9, 77, 5, 0, 0⟩), (0x59129AA16CE00000, .mmul ⟨200, 9, 77, 5, 1, 44⟩ 3 1),
    (0x59129AA180500000, .mgath ⟨200, 9, 77, 5, 0, 0⟩ 1 0 256), (0x59129AA200BC0000, .mlut ⟨200, 9, 77, 5, 0, 0⟩ 2 1 3 2),
    (0x59129AA280000000, .mzero ⟨200, 9, 77, 5, 0, 0⟩), (0x59129AA36CBA8000, .mdrain ⟨200, 9, 77, 5, 1, 44⟩ ⟨2, 1, 1, 2, 1, 0, 1⟩)] : List (Nat × Instr)), decodeTableWord 64 x.1 = some x.2 := by decide +kernel
theorem test_decode_descriptors : ∀ x ∈ ([
    (0x79129AA08000B123, .xcpy ⟨200, 9, 77, 5, 0, 0⟩ 0xB123), (0x79129AA16C000000, .xbtab ⟨200, 9, 77, 5, 1, 44⟩ 0),
    (0x79129AA18000B123, .xsgl ⟨200, 9, 77, 5, 0, 0⟩ 0xB123), (0x79129AA26C000000, .xfill ⟨200, 9, 77, 5, 1, 44⟩ 0),
    (0x79129AA28000B123, .xbst ⟨200, 9, 77, 5, 0, 0⟩ 0xB123), (0x79129AA36C000000, .xmap ⟨200, 9, 77, 5, 1, 44⟩ 0),
    (0x99129AA08000B123, .ggath ⟨200, 9, 77, 5, 0, 0⟩ 0xB123), (0x99129AA16C000000, .gscat ⟨200, 9, 77, 5, 1, 44⟩ 0),
    (0x99129AA18000B123, .gscadd ⟨200, 9, 77, 5, 0, 0⟩ 0xB123), (0x99129AA26C000000, .gcmpct ⟨200, 9, 77, 5, 1, 44⟩ 0),
    (0x99129AA28000B123, .glive ⟨200, 9, 77, 5, 0, 0⟩ 0xB123), (0xB9129AA08000B123, .lput ⟨200, 9, 77, 5, 0, 0⟩ 0xB123),
    (0xB9129AA16C000000, .lget ⟨200, 9, 77, 5, 1, 44⟩ 0), (0xB9129AA18000B123, .lenq ⟨200, 9, 77, 5, 0, 0⟩ 0xB123),
    (0xB9129AA26C000000, .lsig ⟨200, 9, 77, 5, 1, 44⟩ 0), (0xB9129AA28000B123, .lred ⟨200, 9, 77, 5, 0, 0⟩ 0xB123),
    (0xD9129AA08000B123, .sattn ⟨200, 9, 77, 5, 0, 0⟩ 0xB123), (0xD9129AA16C000000, .skvapp ⟨200, 9, 77, 5, 1, 44⟩ 0),
    (0xD9129AA18000B123, .sscore ⟨200, 9, 77, 5, 0, 0⟩ 0xB123), (0xD9129AA26C000000, .scpy ⟨200, 9, 77, 5, 1, 44⟩ 0),
    (0xD9129AA28000B123, .sprobe ⟨200, 9, 77, 5, 0, 0⟩ 0xB123), (0x79129AA300010007, .xmapUnmap ⟨200, 9, 77, 5, 0, 0⟩ 7)] : List (Nat × Instr)), decodeTableWord 64 x.1 = some x.2 := by decide +kernel
-- ## Words whose fields fit but that a rule makes illegal: refused by `legal` (R185, R187, R188, R231, R283 to R297, R305, R325)
theorem test_legal_refuses_1 : ∀ i ∈ ([
    .slli 1 2 64, .srli 1 2 64, .srai 1 2 4294967295, .fadd 1 2 3 ⟨0, 5, 0⟩, .fadd 1 2 3 ⟨1, 0, 0⟩, .fadd 32 2 3 ⟨0, 0, 0⟩, .fadd 1 32 3 ⟨0, 0, 0⟩,
    .fadd 1 2 32 ⟨0, 0, 0⟩, .fsub 1 2 3 ⟨0, 5, 0⟩, .fsub 1 2 3 ⟨1, 0, 0⟩, .fsub 32 2 3 ⟨0, 0, 0⟩, .fsub 1 32 3 ⟨0, 0, 0⟩, .fsub 1 2 32 ⟨0, 0, 0⟩,
    .fmul 1 2 3 ⟨0, 5, 0⟩, .fmul 1 2 3 ⟨1, 0, 0⟩, .fmul 32 2 3 ⟨0, 0, 0⟩, .fmul 1 32 3 ⟨0, 0, 0⟩, .fmul 1 2 32 ⟨0, 0, 0⟩, .fdiv 1 2 3 ⟨0, 5, 0⟩,
    .fdiv 1 2 3 ⟨1, 0, 0⟩, .fdiv 32 2 3 ⟨0, 0, 0⟩, .fdiv 1 32 3 ⟨0, 0, 0⟩, .fdiv 1 2 32 ⟨0, 0, 0⟩, .fmin 1 2 3 ⟨0, 5, 0⟩, .fmin 32 2 3 ⟨0, 0, 0⟩,
    .fmin 1 2 32 ⟨1, 0, 0⟩, .fmax 1 2 3 ⟨0, 5, 0⟩, .fmax 32 2 3 ⟨0, 0, 0⟩, .fmax 1 2 32 ⟨1, 0, 0⟩, .fsgn 1 2 3 ⟨0, 5, 0⟩, .fsgn 32 2 3 ⟨0, 0, 0⟩,
    .fsgn 1 2 32 ⟨1, 0, 0⟩, .fsqrt 1 2 ⟨0, 7, 0⟩, .fsqrt 1 2 ⟨1, 0, 0⟩, .fsqrt 32 2 ⟨0, 0, 0⟩, .fsqrt 1 32 ⟨0, 0, 0⟩, .frnd 1 2 ⟨0, 7, 0⟩,
    .frnd 1 2 ⟨1, 0, 0⟩, .frnd 32 2 ⟨0, 0, 0⟩, .frnd 1 32 ⟨0, 0, 0⟩, .ffma 1 2 3 32 ⟨0, 0, 0⟩, .ffma 1 2 3 4 ⟨0, 5, 0⟩, .fcmp 1 2 3 ⟨1, 0, 0⟩,
    .fcmp 1 32 3 ⟨0, 0, 0⟩, .fclass 1 32 ⟨0, 0, 0⟩, .fclass 1 2 ⟨1, 0, 0⟩, .fmvg 1 32 ⟨0, 0, 0⟩, .fmvf 32 1 ⟨0, 0, 0⟩, .fcvt 1 2 10 ⟨0, 0, 0⟩,
    .fcvt 1 2 0 ⟨0, 0, 1⟩, .fcvt 1 2 6 ⟨0, 0, 1⟩, .fcvt 1 2 0 ⟨1, 0, 0⟩, .fcvt 1 2 2 ⟨1, 0, 0⟩, .fcvt 1 2 1 ⟨0, 5, 0⟩, .fcvt 32 2 1 ⟨0, 0, 0⟩,
    .fcvt 1 32 2 ⟨0, 0, 0⟩, .b 1 2 6 0, .bz 1 4 0, .ld 8 ⟨1, 2, 0, 2, 0, 0, 0, 0, 0, 0, 0, 0⟩, .ld 8 ⟨1, 2, 0, 0, 4, 0, 0, 0, 0, 0, 0, 0⟩] : List Instr), instrWf i = true ∧ legal i = false := by decide +kernel
theorem test_legal_refuses_2 : ∀ i ∈ ([
    .ld 8 ⟨1, 2, 0, 0, 0, 0, 2, 0, 0, 0, 0, 0⟩, .ld 8 ⟨1, 2, 0, 0, 0, 0, 3, 0, 0, 0, 0, 0⟩, .ld 8 ⟨1, 2, 0, 1, 0, 0, 0, 0, 0, 1, 1, 0⟩,
    .st 8 ⟨1, 2, 0, 2, 0, 0, 0, 0, 0, 0, 0, 0⟩, .st 8 ⟨1, 2, 0, 0, 4, 0, 0, 0, 0, 0, 0, 0⟩, .st 8 ⟨1, 2, 0, 0, 0, 0, 1, 0, 0, 0, 0, 0⟩,
    .st 8 ⟨1, 2, 0, 0, 0, 0, 3, 0, 0, 0, 0, 0⟩, .st 8 ⟨1, 2, 0, 0, 0, 1, 0, 0, 0, 0, 0, 0⟩, .st 8 ⟨1, 2, 0, 0, 0, 0, 0, 0, 0, 1, 1, 0⟩,
    .stn 8 ⟨1, 2, 0, 2, 4, 0, 0, 0, 0, 0, 0, 0⟩, .stn 8 ⟨1, 2, 0, 0, 0, 0, 0, 0, 0, 0, 0, 0⟩, .stn 8 ⟨1, 2, 0, 0, 4, 0, 1, 0, 0, 0, 0, 0⟩,
    .stn 8 ⟨1, 2, 0, 0, 4, 0, 3, 0, 0, 0, 0, 0⟩, .stn 8 ⟨1, 2, 0, 0, 4, 0, 0, 0, 0, 1, 1, 0⟩, .ldp 8 ⟨1, 2, 0, 2, 5, 0, 0, 0, 0, 0, 0, 0⟩,
    .ldp 8 ⟨1, 2, 0, 0, 3, 0, 0, 0, 0, 0, 0, 0⟩, .ldp 8 ⟨1, 2, 0, 0, 5, 0, 2, 0, 0, 0, 0, 0⟩, .ldp 8 ⟨1, 2, 0, 0, 5, 1, 0, 0, 0, 0, 0, 0⟩,
    .ldp 8 ⟨1, 2, 0, 1, 5, 0, 0, 0, 0, 1, 1, 0⟩, .stp 8 ⟨1, 2, 0, 2, 5, 0, 0, 0, 0, 0, 0, 0⟩, .stp 8 ⟨1, 2, 0, 0, 4, 0, 0, 0, 0, 0, 0, 0⟩,
    .stp 8 ⟨1, 2, 0, 0, 5, 0, 1, 0, 0, 0, 0, 0⟩, .stp 8 ⟨1, 2, 0, 0, 5, 1, 0, 0, 0, 0, 0, 0⟩, .stp 8 ⟨1, 2, 0, 0, 5, 0, 0, 0, 0, 1, 1, 0⟩,
    .ldp 63 ⟨1, 2, 0, 0, 5, 0, 0, 0, 0, 0, 0, 0⟩, .stp 63 ⟨1, 2, 0, 0, 5, 0, 0, 0, 0, 0, 0, 0⟩, .pref ⟨1, 2, 0, 1, 0, 0, 0, 0, 0, 0, 0, 0⟩,
    .pref ⟨1, 2, 0, 0, 1, 0, 0, 0, 0, 0, 0, 0⟩, .pref ⟨1, 2, 0, 0, 0, 0, 1, 0, 0, 0, 0, 0⟩, .pref ⟨1, 2, 0, 0, 0, 1, 0, 0, 0, 0, 0, 0⟩,
    .clean ⟨1, 2, 0, 1, 0, 0, 0, 0, 0, 0, 0, 0⟩, .clean ⟨1, 2, 0, 0, 1, 0, 0, 0, 0, 0, 0, 0⟩, .clean ⟨1, 2, 0, 0, 0, 0, 1, 0, 0, 0, 0, 0⟩,
    .clean ⟨1, 2, 0, 0, 0, 1, 0, 0, 0, 0, 0, 0⟩, .czero ⟨1, 2, 0, 1, 0, 0, 0, 0, 0, 0, 0, 0⟩, .czero ⟨1, 2, 0, 0, 1, 0, 0, 0, 0, 0, 0, 0⟩,
    .czero ⟨1, 2, 0, 0, 0, 0, 1, 0, 0, 0, 0, 0⟩, .czero ⟨1, 2, 0, 0, 0, 1, 0, 0, 0, 0, 0, 0⟩, .cdrop ⟨1, 2, 0, 1, 0, 0, 0, 0, 0, 0, 0, 0⟩,
    .cdrop ⟨1, 2, 0, 0, 1, 0, 0, 0, 0, 0, 0, 0⟩, .cdrop ⟨1, 2, 0, 0, 0, 0, 1, 0, 0, 0, 0, 0⟩, .cdrop ⟨1, 2, 0, 0, 0, 1, 0, 0, 0, 0, 0, 0⟩,
    .clean ⟨1, 2, 0, 0, 0, 0, 0, 0, 0, 1, 0, 0⟩, .amo 8 0 ⟨1, 2, 0, 2, 2, 0, 0, 0, 0, 0, 0, 0⟩, .amo 8 0 ⟨1, 2, 0, 0, 2, 0, 0, 0, 1, 0, 0, 0⟩,
    .amo 8 0 ⟨1, 2, 0, 0, 2, 0, 0, 0, 0, 0, 0, 4096⟩, .amo 8 0 ⟨1, 2, 0, 0, 4, 0, 0, 0, 0, 0, 0, 0⟩, .amo 8 0 ⟨1, 2, 0, 1, 2, 0, 0, 0, 0, 1, 0, 0⟩,
    .acas 8 ⟨1, 2, 0, 2, 2, 0, 0, 0, 0, 0, 0, 0⟩, .acas 8 ⟨1, 2, 0, 0, 2, 0, 0, 0, 1, 0, 0, 0⟩, .acas 8 ⟨1, 2, 0, 0, 2, 0, 0, 0, 0, 0, 0, 4096⟩,
    .acas 8 ⟨1, 2, 0, 0, 4, 0, 0, 0, 0, 0, 0, 0⟩, .acas 8 ⟨1, 2, 0, 1, 2, 0, 0, 0, 0, 1, 0, 0⟩, .amo 8 11 ⟨1, 2, 0, 0, 2, 0, 0, 0, 0, 0, 0, 0⟩,
    .amo 8 10 ⟨1, 2, 0, 0, 2, 0, 0, 0, 0, 0, 0, 0⟩, .amo 8 9 ⟨1, 2, 0, 0, 3, 0, 0, 0, 0, 0, 0, 0⟩, .amo 8 1 ⟨1, 2, 0, 0, 1, 0, 0, 0, 0, 0, 0, 0⟩,
    .semwait 3 ⟨4, 1, 0⟩, .semwait 3 ⟨4, 1, 1⟩, .semsig 3 ⟨4, 1, 0⟩] : List Instr), instrWf i = true ∧ legal i = false := by decide +kernel
theorem test_legal_refuses_3 : ∀ i ∈ ([
    .semsig 3 ⟨4, 1, 1⟩, .semset 3 ⟨4, 1, 0⟩, .semset 3 ⟨4, 1, 1⟩, .semrsig 1 0 ⟨4, 1, 0⟩ 0, .semrsig 1 0 ⟨4, 1, 0⟩ 3, .semrsig 1 2 ⟨4, 1, 0⟩ 1,
    .rcfg 1 2 64, .rclm 1 3 ⟨4, 1, 0⟩, .rclm 1 0 ⟨64, 1, 0⟩, .rpub 3 ⟨4, 1, 0⟩, .rpub 0 ⟨64, 1, 0⟩, .rwait 1 3 ⟨4, 1, 0⟩, .rwait 1 0 ⟨64, 1, 0⟩,
    .rrel 3 ⟨4, 1, 0⟩, .rrel 0 ⟨64, 1, 0⟩, .rstat 1 64 0, .rstat 1 2 2, .barj 80, .bara 80, .barw 80, .barx 80, .phase 4, .qseq 1 6 0, .qseq 1 2 3,
    .qdrain 64, .mcfg 1 5, .mcfg 1 8, .mcfg 1 30, .mcfgrd 1 5 0, .mcfgrd 1 3 2, .mhset 1 4, .fmovxr 32 1 0, .fmovxw 32 1 0, .ctxsw 1 2 1, .ctxsw 1 2 2,
    .park 2, .ctxrd 1 2 64, .ctxwr 1 2 64, .iter 1 8, .bucket 1 9, .trap 1 0, .trap 1 7, .trap 1 17, .trap 1 23, .sysrd 1 18, .sysrd 1 31, .sysrd 1 38,
    .syswr 1 47, .syswr 1 51, .shoot 1 2 3 1, .shoot 0 2 3 2, .keyload 1 2 3 16, .keykill 1 16, .mark 16, .causal 1 2 4 0, .qreset 1 2,
    .vnop ⟨1, 0, 0, 0, 0, 0⟩, .vnop ⟨0, 0, 1, 0, 0, 0⟩, .vnop ⟨0, 0, 0, 0, 1, 5⟩, .mnop ⟨1, 0, 0, 0, 0, 0⟩] : List Instr), instrWf i = true ∧ legal i = false := by decide +kernel
theorem test_legal_refuses_4 : ∀ i ∈ ([
    .mnop ⟨0, 0, 1, 0, 0, 0⟩, .mnop ⟨0, 0, 0, 0, 1, 5⟩, .xnop ⟨1, 0, 0, 0, 0, 0⟩, .xnop ⟨0, 0, 1, 0, 0, 0⟩, .xnop ⟨0, 0, 0, 0, 1, 5⟩,
    .gnop ⟨1, 0, 0, 0, 0, 0⟩, .gnop ⟨0, 0, 1, 0, 0, 0⟩, .gnop ⟨0, 0, 0, 0, 1, 5⟩, .lnop ⟨1, 0, 0, 0, 0, 0⟩, .lnop ⟨0, 0, 1, 0, 0, 0⟩,
    .lnop ⟨0, 0, 0, 0, 1, 5⟩, .snop ⟨1, 0, 0, 0, 0, 0⟩, .snop ⟨0, 0, 1, 0, 0, 0⟩, .snop ⟨0, 0, 0, 0, 1, 5⟩, .mgo ⟨1, 0, 0, 0, 0, 0⟩,
    .mgo ⟨0, 0, 1, 0, 0, 0⟩, .mgo ⟨0, 0, 0, 0, 1, 5⟩, .mzero ⟨1, 0, 0, 0, 0, 0⟩, .mzero ⟨0, 0, 1, 0, 0, 0⟩, .mzero ⟨0, 0, 0, 0, 1, 5⟩,
    .vadd ⟨0, 0, 0, 0, 0, 0⟩ ⟨3, 1, 2, 3, 0, 0, 0⟩, .vadd ⟨0, 0, 0, 0, 0, 0⟩ ⟨14, 1, 2, 3, 0, 0, 0⟩, .vadd ⟨0, 0, 0, 0, 0, 0⟩ ⟨0, 1, 2, 3, 0, 1, 0⟩,
    .vadd ⟨0, 0, 0, 0, 1, 5⟩ ⟨0, 1, 2, 3, 0, 0, 0⟩, .vsub ⟨0, 0, 0, 0, 0, 0⟩ ⟨3, 1, 2, 3, 0, 0, 0⟩, .vsub ⟨0, 0, 0, 0, 0, 0⟩ ⟨14, 1, 2, 3, 0, 0, 0⟩,
    .vsub ⟨0, 0, 0, 0, 0, 0⟩ ⟨0, 1, 2, 3, 0, 1, 0⟩, .vsub ⟨0, 0, 0, 0, 1, 5⟩ ⟨0, 1, 2, 3, 0, 0, 0⟩, .vmul ⟨0, 0, 0, 0, 0, 0⟩ ⟨3, 1, 2, 3, 0, 0, 0⟩,
    .vmul ⟨0, 0, 0, 0, 0, 0⟩ ⟨8, 1, 2, 3, 0, 1, 0⟩, .vfma ⟨0, 0, 0, 0, 0, 0⟩ ⟨3, 1, 2, 3, 0, 0, 0⟩, .vfma ⟨0, 0, 0, 0, 0, 0⟩ ⟨8, 1, 2, 3, 0, 1, 0⟩,
    .vfms ⟨0, 0, 0, 0, 0, 0⟩ ⟨3, 1, 2, 3, 0, 0, 0⟩, .vfms ⟨0, 0, 0, 0, 0, 0⟩ ⟨8, 1, 2, 3, 0, 1, 0⟩, .vmin ⟨0, 0, 0, 0, 0, 0⟩ ⟨5, 1, 2, 3, 0, 0, 0⟩,
    .vmin ⟨0, 0, 0, 0, 0, 0⟩ ⟨8, 1, 2, 3, 0, 1, 0⟩, .vmax ⟨0, 0, 0, 0, 0, 0⟩ ⟨5, 1, 2, 3, 0, 0, 0⟩, .vmax ⟨0, 0, 0, 0, 0, 0⟩ ⟨8, 1, 2, 3, 0, 1, 0⟩,
    .vabs ⟨0, 0, 0, 0, 0, 0⟩ ⟨0, 1, 2, 3, 0, 0, 0⟩, .vabs ⟨0, 0, 0, 0, 0, 0⟩ ⟨0, 1, 2, 0, 0, 1, 0⟩, .vabs ⟨0, 0, 0, 0, 1, 5⟩ ⟨0, 1, 2, 0, 0, 0, 0⟩,
    .vneg ⟨0, 0, 0, 0, 0, 0⟩ ⟨0, 1, 2, 3, 0, 0, 0⟩, .vneg ⟨0, 0, 0, 0, 0, 0⟩ ⟨0, 1, 2, 0, 0, 1, 0⟩, .vneg ⟨0, 0, 0, 0, 1, 5⟩ ⟨0, 1, 2, 0, 0, 0, 0⟩,
    .vrcp ⟨0, 0, 0, 0, 0, 0⟩ ⟨1, 1, 2, 0, 0, 0, 0⟩, .vrcp ⟨0, 0, 0, 0, 0, 0⟩ ⟨0, 1, 2, 3, 0, 0, 0⟩, .vrsq ⟨0, 0, 0, 0, 0, 0⟩ ⟨1, 1, 2, 0, 0, 0, 0⟩,
    .vrsq ⟨0, 0, 0, 0, 0, 0⟩ ⟨0, 1, 2, 3, 0, 0, 0⟩, .vexp2 ⟨0, 0, 0, 0, 0, 0⟩ ⟨1, 1, 2, 0, 0, 0, 0⟩, .vexp2 ⟨0, 0, 0, 0, 0, 0⟩ ⟨0, 1, 2, 3, 0, 0, 0⟩,
    .vlog2 ⟨0, 0, 0, 0, 0, 0⟩ ⟨1, 1, 2, 0, 0, 0, 0⟩, .vlog2 ⟨0, 0, 0, 0, 0, 0⟩ ⟨0, 1, 2, 3, 0, 0, 0⟩, .vtanh ⟨0, 0, 0, 0, 0, 0⟩ ⟨1, 1, 2, 0, 0, 0, 0⟩,
    .vtanh ⟨0, 0, 0, 0, 0, 0⟩ ⟨0, 1, 2, 3, 0, 0, 0⟩, .vand ⟨0, 0, 0, 0, 0, 0⟩ ⟨8, 1, 2, 3, 0, 0, 0⟩, .vand ⟨0, 0, 0, 0, 0, 0⟩ ⟨0, 1, 2, 3, 0, 1, 0⟩,
    .vor ⟨0, 0, 0, 0, 0, 0⟩ ⟨8, 1, 2, 3, 0, 0, 0⟩, .vor ⟨0, 0, 0, 0, 0, 0⟩ ⟨0, 1, 2, 3, 0, 1, 0⟩, .vxor ⟨0, 0, 0, 0, 0, 0⟩ ⟨8, 1, 2, 3, 0, 0, 0⟩,
    .vxor ⟨0, 0, 0, 0, 0, 0⟩ ⟨0, 1, 2, 3, 0, 1, 0⟩] : List Instr), instrWf i = true ∧ legal i = false := by decide +kernel
theorem test_legal_refuses_5 : ∀ i ∈ ([
    .vshl ⟨0, 0, 0, 0, 0, 0⟩ ⟨0, 1, 2, 3, 0, 0, 0⟩, .vshl ⟨0, 0, 0, 0, 0, 0⟩ ⟨8, 1, 2, 3, 0, 1, 0⟩, .vshr ⟨0, 0, 0, 0, 0, 0⟩ ⟨0, 1, 2, 3, 0, 0, 0⟩,
    .vshr ⟨0, 0, 0, 0, 0, 0⟩ ⟨8, 1, 2, 3, 0, 1, 0⟩, .vcmp ⟨0, 0, 0, 0, 0, 0⟩ ⟨1, 1, 2, 3, 0, 0, 0⟩, .vcmp ⟨0, 0, 0, 0, 0, 0⟩ ⟨0, 1, 2, 3, 0, 0, 1⟩,
    .vcmp ⟨0, 0, 0, 0, 0, 0⟩ ⟨8, 1, 2, 3, 0, 1, 0⟩, .vsel ⟨0, 0, 0, 0, 0, 0⟩ ⟨8, 1, 2, 3, 0, 0, 0⟩, .vsel ⟨0, 0, 0, 0, 0, 0⟩ ⟨0, 1, 2, 3, 0, 1, 0⟩,
    .vsel ⟨0, 0, 0, 0, 0, 0⟩ ⟨0, 1, 2, 3, 0, 0, 1⟩, .vred ⟨0, 0, 0, 0, 0, 0⟩ ⟨1, 1, 2, 0, 0, 0, 0⟩, .vred ⟨0, 0, 0, 0, 0, 0⟩ ⟨0, 1, 2, 3, 0, 0, 0⟩,
    .vred ⟨0, 0, 0, 0, 0, 0⟩ ⟨0, 1, 2, 0, 0, 1, 1⟩, .vred ⟨0, 0, 0, 0, 1, 5⟩ ⟨0, 1, 2, 0, 0, 0, 0⟩, .vscan ⟨0, 0, 0, 0, 0, 0⟩ ⟨1, 1, 2, 0, 0, 0, 0⟩,
    .vscan ⟨0, 0, 0, 0, 0, 0⟩ ⟨0, 1, 2, 3, 0, 0, 0⟩, .vscan ⟨0, 0, 0, 0, 0, 0⟩ ⟨0, 1, 2, 0, 0, 1, 1⟩, .vscan ⟨0, 0, 0, 0, 1, 5⟩ ⟨0, 1, 2, 0, 0, 0, 0⟩,
    .vperm ⟨0, 0, 0, 0, 0, 0⟩ ⟨8, 1, 2, 3, 0, 0, 0⟩, .vperm ⟨0, 0, 0, 0, 0, 0⟩ ⟨0, 1, 2, 3, 0, 1, 0⟩, .vbcast ⟨0, 0, 0, 0, 0, 0⟩ ⟨8, 1, 2, 0, 0, 0, 0⟩,
    .vbcast ⟨0, 0, 0, 0, 1, 5⟩ ⟨0, 1, 2, 0, 0, 0, 0⟩, .viota ⟨0, 0, 0, 0, 0, 0⟩ ⟨0, 1, 0, 0, 0, 0, 0⟩, .viota ⟨0, 0, 0, 0, 0, 0⟩ ⟨8, 1, 2, 0, 0, 0, 0⟩,
    .viota ⟨0, 0, 0, 0, 0, 0⟩ ⟨8, 1, 0, 3, 0, 0, 0⟩, .vpack ⟨0, 0, 0, 0, 0, 0⟩ ⟨3, 1, 2, 0, 0, 0, 0⟩, .vpack ⟨0, 0, 0, 0, 0, 0⟩ ⟨5, 1, 2, 0, 1, 0, 0⟩,
    .vpack ⟨0, 0, 0, 0, 0, 0⟩ ⟨5, 1, 2, 0, 0, 0, 1⟩, .vunpk ⟨0, 0, 0, 0, 0, 0⟩ ⟨3, 1, 2, 0, 0, 0, 0⟩, .vunpk ⟨0, 0, 0, 0, 0, 0⟩ ⟨5, 1, 2, 0, 1, 0, 0⟩,
    .vunpk ⟨0, 0, 0, 0, 0, 0⟩ ⟨5, 1, 2, 0, 0, 0, 1⟩, .vcvt ⟨0, 0, 0, 0, 0, 0⟩ ⟨0, 0, 0, 0, 14, 1, 2, 2, 0, 0, 0⟩,
    .vcvt ⟨0, 0, 0, 0, 0, 0⟩ ⟨0, 0, 0, 0, 0, 1, 2, 28, 0, 0, 0⟩, .vcvt ⟨0, 0, 0, 0, 0, 0⟩ ⟨0, 0, 0, 0, 0, 1, 2, 1, 0, 0, 0⟩,
    .vcvt ⟨0, 0, 0, 0, 0, 0⟩ ⟨0, 0, 0, 1, 0, 1, 2, 2, 0, 0, 0⟩, .vcvt ⟨0, 0, 0, 0, 0, 0⟩ ⟨2, 0, 0, 0, 1, 1, 2, 0, 0, 0, 0⟩,
    .vcvt ⟨0, 0, 0, 0, 0, 0⟩ ⟨0, 1, 0, 0, 8, 1, 2, 0, 0, 0, 0⟩, .vcvt ⟨0, 0, 0, 0, 0, 0⟩ ⟨0, 0, 1, 0, 8, 1, 2, 0, 0, 0, 0⟩,
    .vqnt ⟨0, 0, 0, 0, 0, 0⟩ ⟨0, 0, 0, 0, 0, 1, 2, 3, 0, 0, 0⟩, .vqnt ⟨0, 0, 0, 0, 0, 0⟩ ⟨4, 0, 0, 0, 3, 1, 2, 3, 0, 0, 0⟩,
    .vqnt ⟨0, 0, 0, 0, 0, 0⟩ ⟨0, 0, 0, 0, 3, 1, 2, 3, 1, 0, 0⟩, .vdqnt ⟨0, 0, 0, 0, 0, 0⟩ ⟨0, 1, 0, 0, 3, 1, 2, 3, 0, 0, 0⟩,
    .vdqnt ⟨0, 0, 0, 0, 0, 0⟩ ⟨4, 0, 0, 0, 3, 1, 2, 3, 0, 0, 0⟩, .vmovc ⟨0, 0, 0, 0, 0, 0⟩ 1 3 1, .vmsk ⟨0, 0, 0, 0, 0, 0⟩ 1 2 3 6,
    .vmsk ⟨0, 0, 0, 0, 1, 5⟩ 1 2 3 0, .vmsk ⟨0, 0, 0, 0, 0, 0⟩ 1 2 0 4, .vtbld ⟨0, 0, 0, 0, 0, 0⟩ 4 0 1 2, .vtbld ⟨0, 0, 0, 0, 0, 0⟩ 0 3 1 2,
    .vsmx ⟨0, 0, 0, 0, 0, 0⟩ 1 31 2 3, .vsmx ⟨0, 0, 0, 0, 0, 0⟩ 3 1 2 28, .mmul ⟨3, 0, 0, 0, 0, 0⟩ 0 0, .mgath ⟨0, 0, 0, 0, 0, 0⟩ 0 0 0,
    .mgath ⟨0, 0, 0, 0, 0, 0⟩ 0 0 257, .mlut ⟨0, 0, 0, 0, 0, 0⟩ 0 0 0 3, .xcpy ⟨0, 0, 0, 0, 1, 5⟩ 8, .xbtab ⟨0, 0, 0, 0, 1, 5⟩ 8,
    .xsgl ⟨0, 0, 0, 0, 1, 5⟩ 8, .xfill ⟨0, 0, 0, 0, 1, 5⟩ 8, .xbst ⟨0, 0, 0, 0, 1, 5⟩ 8] : List Instr), instrWf i = true ∧ legal i = false := by decide +kernel
theorem test_legal_refuses_6 : ∀ i ∈ ([
    .xmap ⟨0, 0, 0, 0, 1, 5⟩ 8, .xmapUnmap ⟨0, 0, 0, 0, 1, 5⟩ 8, .ggath ⟨0, 0, 0, 0, 1, 5⟩ 8, .gscat ⟨0, 0, 0, 0, 1, 5⟩ 8,
    .gscadd ⟨0, 0, 0, 0, 1, 5⟩ 8, .gcmpct ⟨0, 0, 0, 0, 1, 5⟩ 8, .glive ⟨0, 0, 0, 0, 1, 5⟩ 8, .lput ⟨0, 0, 0, 0, 1, 5⟩ 8, .lget ⟨0, 0, 0, 0, 1, 5⟩ 8,
    .lenq ⟨0, 0, 0, 0, 1, 5⟩ 8, .lsig ⟨0, 0, 0, 0, 1, 5⟩ 8, .lred ⟨0, 0, 0, 0, 1, 5⟩ 8, .sattn ⟨0, 0, 0, 0, 1, 5⟩ 8, .skvapp ⟨0, 0, 0, 0, 1, 5⟩ 8,
    .sscore ⟨0, 0, 0, 0, 1, 5⟩ 8, .scpy ⟨0, 0, 0, 0, 1, 5⟩ 8, .sprobe ⟨0, 0, 0, 0, 1, 5⟩ 8] : List Instr), instrWf i = true ∧ legal i = false := by decide +kernel
-- ## Results the spec's tables and worked examples give (AES and SHA-256: the examples of FIPS 197 and FIPS 180)

/-- What `exec` leaves, or the state itself. -/
def after (i : Instr) (s : State) : State := match Sys2Proof.Machine.exec i s with
  | .next t => t
  | _ => s
def gOf (i : Instr) (d : Nat) (l : List (Nat × Word)) : Word := (after i (gs l z)).g d
def fOf (i : Instr) (d : Nat) (l : List (Nat × Word)) : Word := (after i (l.foldl (fun s p => s.setF p.1 p.2) z)).f d
/-- The words of the worked examples of chapters 7, 9, 10, 11 and 12. -/
theorem test_example_words : ∀ x ∈ ([
    (0x0A050A318C980040, .ld 10 ⟨5, 6, 3, 0, 3, 0, 1, 0, 3, 0, 0, 0x40⟩), (0x0804943FFFFFFFFD, .b 9 10 1 0x1FFFFFFFFD),
    (0x61821A2000000000, .xnop ⟨12, 1, 13, 1, 0, 0⟩), (0x2000000080029060, .vadd h1 ⟨0, 5, 4, 3, 0, 0, 0⟩),
    (0x22822A2080018440, .vadd ⟨20, 1, 21, 1, 0, 0⟩ ⟨0, 3, 1, 2, 0, 0, 0⟩), (0x08E4800000000006, .ecatch 9 6), (0x0860800000000003, .jal 1 3),
    (0x0920280000000000, .throw 20), (0x0F00500080000000, .mcfg 40 0x10), (0x4000282080000000, .mgo ⟨0, 0, 20, 1, 0, 0⟩),
    (0x4000000168200000, .mmul ⟨0, 0, 0, 0, 1, 40⟩ 0 1), (0x40002A2369000000, .mdrain ⟨0, 0, 21, 1, 1, 41⟩ ⟨0, 0, 0, 0, 0, 0, 0⟩),
    (0x61821A2080000020, .xcpy ⟨12, 1, 13, 1, 0, 0⟩ 0x20)] : List (Nat × Instr)), decodeTableWord 64 x.1 = some x.2 := by decide +kernel
/-- R179, R183, R184, R198: class 7, free opcodes and set must-be-zero fields are no instructions. -/
theorem test_no_instruction : ∀ w ∈ ([
    0xE000000000000000, 0x0FFFFFFFFFFFFFFF, 0x0B40000000000000, 1, 0x0020000000000001, 0x02A0000800000000, 0x0400000000000001, 0x0540020000000000,
    0x0840800000000000, 0x0920280000000004, 0x0C00000000000001, 0x2000001400000000, 0x4000000380000000, 0x4000000080000001, 0x6000000380000000,
    0x8000000300000000, 0xA000000300000000, 0xC000000300000000, 0x2000000000000001, 0x6000000300020000] : List Nat), decodeTableWord 64 w = none := by
  decide +kernel
theorem test_division : gOf (.div 1 2 3) 1 [(2, 0x8000000000000000), (3, -1)] = 0x8000000000000000 ∧ gOf (.rem 1 2 3) 1 [(2, -7), (3, 2)] = -1 ∧
    gOf (.div 1 2 3) 1 [(2, -7), (3, 2)] = -3 ∧ gOf (.divu 1 2 3) 1 [(2, -7), (3, 2)] = 0x7FFFFFFFFFFFFFFC ∧ gOf (.remu 1 2 3) 1 [(2, 9)] = 9 ∧
    gOf (.rem 1 2 3) 1 [(2, 0x8000000000000000), (3, -1)] = 0 := by decide +kernel
theorem test_products : gOf (.mulh 1 2 3) 1 [(2, -1), (3, 5)] = -1 ∧ gOf (.mulhu 1 2 3) 1 [(2, -1), (3, 5)] = 4 ∧ gOf (.mul 1 2 2) 1 [(2, 0x100000001)] = 0x200000001 := by
  decide +kernel
theorem test_bits : gOf (.bfx 1 2 3) 1 [(2, 0xF0), (3, 0x404)] = -1 ∧ gOf (.bfxu 1 2 3) 1 [(2, 0xF0), (3, 0x404)] = 15 ∧
    gOf (.bfi 1 2 3 4) 1 [(2, 0x5), (3, 0x404), (4, 0xFFF)] = 0xF5F ∧ gOf (.clz 1 2) 1 [(2, 1)] = 63 ∧ gOf (.ctz 1 2) 1 [] = 64 ∧ gOf (.popc 1 2) 1 [(2, -1)] = 64 ∧
    gOf (.bswap 1 2) 1 [(2, 0x0102030405060708)] = 0x0807060504030201 ∧ gOf (.sra 1 2 3) 1 [(2, -8), (3, 65)] = -4 := by decide +kernel
theorem test_immediates : gOf (.sltui 1 2 0xFFFFFFFF) 1 [(2, 5)] = 1 ∧ gOf (.movhi 1 2 0x12345678) 1 [(2, -1)] = 0x12345678FFFFFFFF ∧
    gOf (.lea 1 2 0xFFFFFFFF 3) 1 [(2, 100)] = 92 ∧ gOf (.movi 1 0x80000000) 1 [] = 0xFFFFFFFF80000000 ∧ gOf (.slti 1 2 0) 1 [(2, -1)] = 1 := by decide +kernel
/-- R210: 1 + 2^-24 ties to 1; 1/3 and √2 correctly rounded; 2.5 to an integral value; R212, R237. -/
theorem test_floating : fOf (.fadd 1 2 3 ⟨0, 0, 0⟩) 1 [(2, 0x3F800000), (3, 0x33800000)] = 0x3F800000 ∧
    fOf (.fadd 1 2 3 ⟨0, 2, 0⟩) 1 [(2, 0x3F800000), (3, 0x33800000)] = 0x3F800001 ∧ fOf (.fdiv 1 2 3 ⟨0, 0, 0⟩) 1 [(2, 0x3F800000), (3, 0x40400000)] = 0x3EAAAAAB ∧
    fOf (.fdiv 1 2 3 ⟨0, 0, 1⟩) 1 [(2, 0x3FF0000000000000), (3, 0x4008000000000000)] = 0x3FD5555555555555 ∧
    fOf (.fsqrt 1 2 ⟨0, 0, 0⟩) 1 [(2, 0x40000000)] = 0x3FB504F3 ∧ fOf (.frnd 1 2 ⟨0, 0, 0⟩) 1 [(2, 0x40200000)] = 0x40000000 ∧
    fOf (.frnd 1 2 ⟨0, 4, 0⟩) 1 [(2, 0x40200000)] = 0x40400000 ∧ fOf (.fsub 1 2 2 ⟨0, 3, 0⟩) 1 [(2, 0x40200000)] = 0x80000000 ∧
    fOf (.fmin 1 2 3 ⟨0, 0, 0⟩) 1 [(2, 0x7FC00000), (3, 0x3F800000)] = 0x3F800000 ∧ fOf (.fcvt 1 2 1 ⟨0, 0, 0⟩) 1 [(2, 0x3FF4CCCCCCCCCCCD)] = 0x3FA66666 := by decide +kernel
/-- The worked example of chapter 8: 1.3 in E4M3 by RNE and by SR with the stream of seed 1; 500 in E4M3 and E5M2. -/
theorem test_three_conversions : nextRandom 1 = 0x42021 ∧ nextRandom 0x42021 = 0x04080601 ∧ e4m3.round 0 true (dec32 0x3FA66666) = 0x3A ∧
    e4m3.roundSr 0x42021 true (dec32 0x3FA66666) = 0x3B ∧ e4m3.round 0 true (intVal 500) = 0x7E ∧ e4m3.round 0 false (intVal 500) = 0x7F ∧
    e5m2.round 0 false (intVal 500) = 0x60 := by decide +kernel
/-- The worked example of chapter 11: one chunk, one rounding. -/
theorem test_one_chunk_one_rounding : accumulate 0 [.num false 1 16, .num false 1 (-8), .num false 1 (-8)] = 0x47800001 ∧ bf16.round 0 false (dec32 0x47800001) = 0x4780 := by
  decide +kernel
/-- The worked example of R79, AES-128 and SHA-256. -/
theorem test_ciphers : counterBlock 5 309 52 72 2 7 = 0x0166BA0090400000000000E000000000 ∧
    aes128 (List.range 16) ((List.range 16).map (17 * ·)) =
      [0x69, 0xC4, 0xE0, 0xD8, 0x6A, 0x7B, 0x04, 0x30, 0xD8, 0xCD, 0xB7, 0x80, 0x70, 0xB4, 0xC5, 0x5A] ∧
    sha256 [0x61, 0x62, 0x63] = 0xBA7816BF8F01CFEA414140DE5DAE2223B00361A396177A9CB410FF61F20015AD := by decide +kernel
/-- The worked example of chapter 9: the frame an ECATCH pushes, and where a THROW of 77 goes. -/
def caught : State := after (.ecatch 9 6) (gs [(2, 0x180000), (20, 77)] z)
theorem test_throw_across_call : caught.g 2 = 0x17FFE0 ∧ caught.here.exc = 0x10017FFE0 ∧ caught.pc = 8 ∧
    (after (.throw 20) caught).g 9 = 77 ∧ (after (.throw 20) caught).g 2 = 0x180000 ∧ (after (.throw 20) caught).here.exc = 0 ∧
    (after (.throw 20) caught).pc = 0x30 := by decide +kernel
/-- R239: the offset counts words from the transfer itself. -/
theorem test_transfers : (after (.jal 1 3) z).pc = 24 ∧ (after (.jal 1 3) z).g 1 = 8 ∧ (after (.b 2 3 1 0x1FFFFFFFFD) (gs [(2, 1)] (at0 fun t => { t with cc := { t.cc with pc := 24 } }))).pc = 0 ∧
    (after (.b 2 3 1 5) z).pc = 8 := by decide +kernel

-- ## States and operands that meet the hypotheses of each statement

theorem witness_IntegerInstructionResults :
    arithRule z.g (.div 1 2 3) = some (1, [1, 2, 3], 0xFFFFFFFFFFFFFFFF) ∧ z.inBound [1, 2, 3] [] ∧ z.unarmed ∧
    (bitRule (gs [(2, 0xF0), (3, 0x404)] z).g (.bfx 63 2 3) = some (63, [63, 2, 3], -1)) ∧ (gs [(2, 0xF0), (3, 0x404)] z).inBound [63, 2, 3] [] := by
  simp only [State.inBound, State.unarmed]; decide +kernel
theorem witness_ImmediateResults :
    immRule z.g z.pc (.addpc 63 0xFFFFFFFF) = some (63, [63], -1) ∧ z.inBound [63] [] ∧ z.unarmed := by
  simp only [State.inBound, State.unarmed]; decide +kernel
theorem witness_FloatingResults :
    roundRule z.f (.ffma 31 1 2 3 ⟨0, 0, 1⟩) = some (31, [31, 1, 2, 3], 0) ∧ z.inBound [] [31, 1, 2, 3] ∧ z.unarmed := by
  simp only [State.inBound, State.unarmed]; decide +kernel
theorem witness_FloatingMovesAndConversions :
    floatToG z.f (.fcmp 63 31 0 ⟨0, 0, 1⟩) = some (63, [31, 0], 2) ∧ z.inBound [63] [31, 0] ∧
    floatFromG z.g (.fmvf 31 63 ⟨0, 0, 1⟩) = some (31, [63], 0) ∧ z.inBound [63] [31] ∧
    floatRow z.f (.fsgn 31 1 2 ⟨1, 0, 1⟩) = some (31, [31, 1, 2], 2 ^ 63) ∧ z.inBound [] [31, 1, 2] ∧ z.unarmed := by
  simp only [State.inBound, State.unarmed]; decide +kernel
theorem witness_FiniteNumbersRoundToThemselves :
    (448 < 2 ^ fp32.w ∧ fp32.dec 448 = .num false 448 (-149)) ∧ (7 < 2 ^ e2m1.w ∧ e2m1.dec 7 = .num false 3 1) := by decide +kernel
theorem witness_TransfersGoToTheirTargets :
    (transferRule z (.b 0 0 0 3) = some (24, [0, 0], none) ∧ mayContinue 24 ∧ z.inBound [0, 0] []) ∧
    (transferRule (gs [(2, 8)] z) (.jalr 63 2 8) = some (16, [63, 2], some 63) ∧ mayContinue 16) ∧
    (notTaken z (.bz 0 1 5) = some [0] ∧ z.inBound [0] [] ∧ z.unarmed) ∧
    (transferRule z (.jalr 1 0 4) = some (4, [1, 0], some 1) ∧ z.inBound [1, 0] [] ∧ (4 : Word).toNat % 8 ≠ 0) ∧
    (transferRule (gs [(1, 0x100000000000000)] z) (.ret 1) = some (0x100000000000000, [1], none) ∧
      (0x100000000000000 : Word).toNat % 8 = 0 ∧ 2 ^ 56 ≤ (0x100000000000000 : Word).toNat) ∧
    (0x44 * 2 ^ 53 + 511 : Nat) / 2 ^ 53 = 0x44 ∧ (0x44 * 2 ^ 53 + 511) / 2 ^ 0 % 2 ^ 9 ≠ 0 := by
  simp only [State.inBound, State.unarmed, mayContinue]
  and_intros <;> decide +kernel
/-- A jump table of physical memory on the monitor core. -/
theorem witness_JumpTableSelectsEntry : mon.inBound [0] [] ∧ (mon.pc + simm 0x1000).toNat % 4 = 0 ∧ Passes (formed plain15 0x1000 4 4) mon ∧
    (∃ bs, (loadBytes plain15 0x1000 4).run mon = .ok bs (left (loadBytes plain15 0x1000 4) mon)) ∧ mayContinue mon.pc := by
  refine ⟨?_, by decide +kernel, still_passes (by decide +kernel), goes_ok (by decide +kernel), ?_⟩
  · simp only [State.inBound]; decide +kernel
  · simp only [mayContinue]; decide +kernel
/-- Tile 0 with `sp` at 64 and one exception frame at 32. -/
def framed : State := gs [(2, 64)] (at0 fun t => { t with exc := 0x100000020 })
theorem witness_ExceptionFramesPushAndPop :
    (framed.inBound [63] [] ∧ framed.unarmed ∧ (framed.g 2).toNat % 8 = 0 ∧ 32 ≤ (framed.g 2).toInt ∧ (framed.g 2).toInt ≤ spSize framed.cur ∧
      Passes (orderWrite cm15) framed ∧ Passes (spTouch framed.acc 32 32) framed.sequenced) ∧
    (framed.here.exc.getLsbD 32 = true ∧ (framed.here.exc &&& 0x1FFFFF).toNat + 32 ≤ spSize framed.cur ∧ Passes (orderRead 15) framed ∧
      framed.here.spBad 32 32 = false ∧ Passes (spTouch framed.acc 32 32) framed ∧ mayContinue (spWord framed 32) ∧
      ((spWord framed 56) &&& 0x3F).toNat < framed.here.regbnd) ∧
    z.here.exc.getLsbD 32 = false := by
  refine ⟨⟨?_, ?_, by decide +kernel, by decide +kernel, by decide +kernel, still_passes (by decide +kernel), still_passes (by decide +kernel)⟩,
    ⟨by decide +kernel, by decide +kernel, still_passes (by decide +kernel), by decide +kernel, still_passes (by decide +kernel), ?_, by decide +kernel⟩,
    by decide +kernel⟩
  all_goals simp only [State.inBound, State.unarmed, mayContinue]; decide +kernel
theorem witness_LoadsWriteWhatTheyRead :
    (z.inBound [63, 1, 0] [] ∧ Passes (formed (cmSp 3) 0 8 8) z ∧ ∃ bs, (loadBytes (cmSp 3) 0 8).run z = .ok bs (left (loadBytes (cmSp 3) 0 8) z)) ∧
    (z.inBound [62, 63, 1, 0] [] ∧ Passes (formed (cmSp 3) 0 16 16) z ∧ goes (loadBytes (cmSp 3) 0 8) z = true ∧
      goes (loadBytes (cmSp 3) 8 8) (left (loadBytes (cmSp 3) 0 8) z) = true) := by
  refine ⟨⟨?_, still_passes (by decide +kernel), goes_ok (by decide +kernel)⟩, ?_, still_passes (by decide +kernel), by decide +kernel, by decide +kernel⟩
  all_goals simp only [State.inBound]; decide +kernel
theorem witness_LoadsReadTheirSource :
    (Passes (orderRead 0) z ∧ z.here.spBad 0x17FFF8 8 = false ∧ Passes (spTouch z.acc 0x17FFF8 8) z) ∧
    ((at0 fun t => { t with spPoison := [(1, true)] }).here.spBad 7 1 = true) ∧
    Physical mon 0x1000 8 [1] ∧
    (Permitted owned 127 .r ∧ 127 % 128 + 1 ≤ 128 ∧ Holds owned 127 1 ∧ Passes (orderRead 0) owned) := by
  refine ⟨⟨still_passes (by decide +kernel), by decide +kernel, still_passes (by decide +kernel)⟩, by decide +kernel, ?_,
    ⟨by decide +kernel, by decide +kernel, ⟨fullPerm, by decide +kernel⟩⟩, by decide +kernel,
    ⟨by decide +kernel, by decide +kernel, fun i h1 h2 => by
      obtain rfl : i = 127 := Nat.le_antisymm (by omega) h1
      decide +kernel⟩, still_passes (by decide +kernel)⟩
  simp only [Physical]; decide +kernel
theorem witness_StoresWriteTheirRegister :
    (z.inBound [63, 1, 0] [] ∧ Passes (formed (cmSp 0) 0 1 1) z ∧ goes (storeBytes (cmSp 0) true 0 (full 1) (bytesOf 1 (z.g 63).toNat)) z = true) ∧
    (Passes (formed (cmSp 3) 0 16 16) z ∧ goes (storeBytes (cmSp 3) true 0 (full 8) (bytesOf 8 (z.g 62).toNat)) z = true ∧
      goes (storeBytes (cmSp 3) false 8 (full 8) (bytesOf 8 (z.g 63).toNat)) (left (storeBytes (cmSp 3) true 0 (full 8) (bytesOf 8 (z.g 62).toNat)) z) = true) ∧
    goes (storeBytes (cmSp 0) true 0 0xF0 [0]) z = true := by
  refine ⟨⟨?_, still_passes (by decide +kernel), by decide +kernel⟩, ⟨still_passes (by decide +kernel), by decide +kernel, by decide +kernel⟩, by decide +kernel⟩
  simp only [State.inBound]; decide +kernel
theorem witness_StoresReachTheirDestination :
    (Passes (orderWrite (cmSp 3)) z ∧ Passes (spTouch z.acc 0x17FFF8 8) z.sequenced) ∧
    (Physical mon 0x1000 8 [2] ∧ Passes (orderWrite (cm 3)) mon ∧ KeepsSpaces mon 0x1000 (bytesOf 8 0)) ∧
    (Permitted owned 120 .w ∧ 120 % 128 + 8 ≤ 128 ∧ (∀ l ∈ owned.here.l1, l.2.pend = [] ∧ l.2.mark = false) ∧ Passes (release allClasses 0) owned ∧
      (copyOf owned 120).st = .m ∧ (copyOf owned 120).key = lineKey owned 120 ∧ Passes (orderWrite (cm 3)) owned) := by
  refine ⟨⟨still_passes (by decide +kernel), still_passes (by decide +kernel)⟩, ⟨?_, still_passes (by decide +kernel), no_spaces rfl _ _⟩,
    ⟨by decide +kernel, by decide +kernel, ⟨fullPerm, by decide +kernel⟩⟩, by decide +kernel,
    by decide +kernel, still_passes (by decide +kernel), by decide +kernel, by decide +kernel, still_passes (by decide +kernel)⟩
  simp only [Physical]; decide +kernel
theorem witness_StoredBytesReadBack : isTile z.cur = true ∧ (516 : Nat) ≠ z.cur ∧ memWf z.mem = true := by decide +kernel
theorem witness_AtomicsReadModifyWrite :
    (z.inBound [63, 1, 0] [] ∧ Passes (formed (cmSp 3) 0 8 8) z ∧ goes (atomic (cmSp 3) 0 8 fun old => some (aopResult 0 8 old 1)) z = true) ∧
    (goes (atomic (cmSp 3) 0 8 fun old => if old = 0 then some 1 else none) z = true ∧ goes (atomic (cmSp 3) 0 8 fun old => if old = 5 then some 1 else none) z = true) ∧
    (Passes (orderWrite (cmSp 3)) z ∧ z.here.spBad 0 8 = false ∧ Passes (spTouch z.acc 0 8) z ∧ Passes (spTouch z.acc 0 8) z.sequenced) ∧
    (Physical mon 0x1000 8 [1, 2] ∧ Passes (orderWrite (cm 3)) mon ∧ ∀ v, KeepsSpaces mon 0x1000 (bytesOf 8 v)) ∧
    amoRule 7 (5 : BitVec 8) (250 : BitVec 8) = some 250 := by
  refine ⟨⟨?_, still_passes (by decide +kernel), by decide +kernel⟩, ⟨by decide +kernel, by decide +kernel⟩, ⟨still_passes (by decide +kernel),
    by decide +kernel, still_passes (by decide +kernel), still_passes (by decide +kernel)⟩, ⟨?_, still_passes (by decide +kernel), fun _ => no_spaces rfl _ _⟩, by decide +kernel⟩
  all_goals simp only [State.inBound, Physical]; decide +kernel
theorem witness_CacheOperationsActOnTheLine :
    (owned.inBound [1, 0] [] ∧ Passes (formed (cm 0) 0 1 1) owned) ∧
    (∃ w s1, (wayTo 0 128 .w).run owned = .ok w s1 ∧ (∀ o, w ≠ .dev o) ∧ goes (storeBytes (cm 0) true 0 (2 ^ 1024 - 1) (List.replicate 128 0)) s1 = true) ∧
    (∃ a va sa, (wayTo 0 128 .r).run owned = .ok (.l1 a va sa) owned ∧ Passes (orderWrite (cm 0)) owned ∧ goes (cleanOp (.l1 a va sa)) owned = true) ∧
    (∃ a va sa, (wayTo 0 128 .w).run owned = .ok (.l1 a va sa) owned ∧ goes (dropOp (.l1 a va sa)) owned = true) ∧
    (mon.inBound [1, 0] [] ∧ Physical mon 0 128 [1] ∧ Physical mon 0 128 [2] ∧ Passes (orderWrite (cm 0)) mon ∧ mon.unarmed ∧
      KeepsSpaces mon 0 (List.replicate 128 0)) := by
  refine ⟨⟨?_, still_passes (by decide +kernel)⟩, ⟨.l1 owned.acc 0 true, owned, by rfl, nofun, by decide +kernel⟩,
    ⟨owned.acc, 0, true, by rfl, still_passes (by decide +kernel), by decide +kernel⟩, ⟨owned.acc, 0, true, by rfl, by decide +kernel⟩,
    ?_, ?_, ?_, still_passes (by decide +kernel), ?_, no_spaces rfl _ _⟩
  all_goals simp only [State.inBound, State.unarmed, Physical]; decide +kernel

/-- A write of context 0 and class 0 is held. -/
def heldOne : Held := ⟨0, ⟨some 0, 0⟩, 1, 0, 1, [(0, ⟨0, none, 0, 1, 0, 0, 0, [(ccAgent, 0)]⟩)], 0, 0x11, 0, 1, 0, false, false⟩
/-- A store of class 15 that has not merged. -/
def unmerged : State := owned.setL1 0 { L1Line.empty ⟨some 0, 0⟩ with pend := [⟨1, 0, 15, 1, false, 0, ⟨0, none, 0, 0x8000, 0, 0, 0, []⟩⟩] }
theorem witness_FenceWaitsForStores :
    (Drained z ∧ z.unarmed) ∧ (({ z with held := [heldOne] }).onCc = true ∧ ({ z with held := [heldOne] }).heldBy 0 (1 ||| 0x8000) = some heldOne) ∧
    (unmerged.heldBy 0 (0 ||| 0x8000) = none ∧ ∃ l ∈ unmerged.here.l1, ∃ p ∈ l.2.pend, p.prov.ctx = 0 ∧ p.prov.queue = none ∧ p.oc = 15) ∧
    (({ z with held := [heldOne] }).inBound [1] [] ∧ ({ z with held := [heldOne] }).heldCovered 0 0 ccAgent = [heldOne]) := by
  refine ⟨?_, by decide +kernel, by decide +kernel, by simp only [State.inBound]; decide +kernel, by decide +kernel⟩
  simp only [Drained, State.unarmed]; decide +kernel
def semmed : State := gs [(1, 0x300)] (at0 fun t => t.setSem 5 3)
theorem witness_SemaphoresCountAndSignal :
    (notSteward semmed ∧ semmed.inBound [1, 63] [] ∧ semmed.unarmed ∧ Passes (release allClasses 0) semmed) ∧
    (countOf semmed 0 ⟨5, 3, 0⟩ ≤ semmed.here.getSem 5 ∧ semmed.here.getSem 5 < countOf semmed 0 ⟨5, 4, 0⟩) ∧
    (semmed.here.getSem 5 + countOf semmed 0 ⟨5, 65532, 0⟩ ≤ 65535 ∧ 65535 < semmed.here.getSem 5 + countOf semmed 0 ⟨5, 65533, 0⟩) ∧
    ((semmed.g 1).toNat < 2 ^ 40 ∧ semmed.reaches semmed.cur (peerPkg (semmed.g 1).toNat) = true) ∧
    ((gs [(1, 0x40000000)] z).g 1 = 0x40000000 ∧ (gs [(1, 0x40000000)] z).reaches 0 (peerPkg 0x40000000) = false ∧ Passes (release allClasses 3) (gs [(1, 0x40000000)] z)) ∧
    2 ^ 40 ≤ ((gs [(1, 0x10000000000)] z).g 1).toNat := by
  refine ⟨⟨?_, ?_, ?_, still_passes (by decide +kernel)⟩, by decide +kernel, by decide +kernel, by decide +kernel, ⟨by decide +kernel, by decide +kernel,
    still_passes (by decide +kernel)⟩, by decide +kernel⟩
  all_goals simp only [notSteward, State.inBound, State.unarmed]; decide +kernel
/-- Ring 8: four slots of 16 bytes at 0, one published and two claimed. -/
def ringed : State := at0 fun t => { t with rings := [(8, ⟨0, 1, 2, 2, 0, 0, true, 0⟩)] }
/-- Of the two, the second is a push's. -/
def pushedTo : State :=
  { at0 fun t => { t with step := some 0, rings := [(8, ⟨0, 1, 2, 2, 0, 0, true, 0⟩)] } with
    pushes := [⟨0, 0, 8, 2, ⟨0, 0, 0, 0, .enq 8, 0, 0, 0, [], 0, none, none⟩⟩] }
theorem witness_RingsProduceAndConsume :
    (notSteward z ∧ z.inBound [1, 2, 63] [] ∧ z.unarmed) ∧
    (8 ≤ 8 ∧ ((gs [(2, 0x2002)] z).g 1).toNat < 2 ^ 21 ∧ ((gs [(2, 0x2002)] z).g 2).toNat < 2 ^ 16 ∧ (ringFrom 0 0x2002).base % 16 = 0 ∧
      ringInside (ringFrom 0 0x2002) ∧ (ringFrom 0 0x2002).v = true) ∧
    (7 : Nat) < 8 ∧ ((ringOf z 7).base < 2 ^ 64 ∧ (8 : Nat) ≠ 6 ∧ (8 : Nat) ≠ 7) ∧
    (notSteward ringed ∧ ringed.inBound [1, 63] [] ∧ ringed.unarmed ∧ Passes (release allClasses (ringOf ringed 8).scope) ringed) ∧
    (usable ringed 8 1 ∧ published ringed 8 + (ringOf ringed 8).claimed + 1 ≤ 2 ^ (ringOf ringed 8).slog ∧
      2 ^ (ringOf ringed 8).slog < published ringed 8 + (ringOf ringed 8).claimed + 2 ∧ usable ringed 8 2) ∧
    (2 ≤ (ringOf ringed 8).claimed ∧ (ringOf ringed 8).claimed < 3 ∧ usable ringed 8 3 ∧ ringed.pushSlots 0 8 = []) ∧
    (pushedTo.pushSlots 0 8 = [2] ∧ 1 + (pushedTo.pushSlots 0 8).length ≤ (ringOf pushedTo 8).claimed ∧ (ringOf pushedTo 8).tail < 65536 ∧
      (ringOf pushedTo 8).tail ∉ pushedTo.pushSlots 0 8 ∧ publishes (ringOf pushedTo 8) [2] 1 2 ∧ usable pushedTo 8 1 ∧
      Passes (release allClasses (ringOf pushedTo 8).scope) pushedTo ∧ (ringOf pushedTo 8).claimed < 2 + (pushedTo.pushSlots 0 8).length) ∧
    (1 ≤ published ringed 8 ∧ published ringed 8 < 2) ∧ ¬ usable ringed 8 5 := by
  simp only [notSteward, State.inBound, State.unarmed, ringInside, usable, publishes]
  refine ⟨by decide +kernel, by decide +kernel, (by decide +kernel), by decide +kernel, ⟨by decide +kernel, by decide +kernel, by decide +kernel,
    still_passes (by decide +kernel)⟩, by decide +kernel, by decide +kernel, ?_, by decide +kernel⟩
  and_intros <;> first | decide +kernel | exact still_passes (by decide +kernel)
/-- The step's tile in barrier 3, with generation 1 begun; and arrived in it. -/
def joined : State := { run0 with cur := 0, barriers := [(barKey 0 3, ⟨0, [0], [], 1, []⟩)] }
def arrived : State := { joined with barriers := [(barKey 0 3, ⟨0, [0], [0], 1, [(0, 1)]⟩)] }
theorem joined_member : isMember joined 3 := ⟨0, by decide +kernel⟩
theorem arrived_member : isMember arrived 3 := ⟨0, by decide +kernel⟩
theorem witness_BarriersWaitAndComplete :
    (notSteward z ∧ z.inBound [1, 2] [] ∧ z.unarmed ∧ (z.g 1).toNat + 8 ≤ spSize z.cur ∧ (z.g 1).toNat % 8 = 0 ∧ Passes (orderWrite cmTb) z ∧
      Passes (spTouch z.acc 0 8) z.sequenced ∧ Passes (orderRead 15) (watching z 0 0) ∧ Passes (spTouch z.acc 0 8) (watching z 0 0) ∧ z.here.spNum 0 8 = 0) ∧
    (orderRead 15).run (watching unmerged 0 0) = .error .stall (watching unmerged 0 0) ∧
    ((at0 fun t => { t with sp := [(0, 1)], tb := some (0, 0, true) }).here.tb = some (0, 0, true) ∧
      (at0 fun t => { t with sp := [(0, 1)] }).here.spNum 0 8 ≠ 0 ∧ (at0 fun t => { t with sp := [(0, 1)] }).here.tb = none) ∧
    (({ (at0 fun t => { t with sp := [(0, 1)], tb := some (0, 5, false) }) with tick := 5 }).here.tb = some (0, 5, false) ∧
      5 ≤ ({ (at0 fun t => { t with sp := [(0, 1)], tb := some (0, 5, false) }) with tick := 5 }).tick) ∧
    ((at0 fun t => { t with spPoison := [(0, true)] }).here.spBad 0 8 = true ∧ z.here.spBad 0 8 = false) ∧
    (run0.here.step = some 0 ∧ (run0.bar (barKey run0.cur 3)).m = []) ∧
    (({ joined with barriers := [(barKey 0 3, ⟨9, [0], [], 1, []⟩)] }).bar (barKey 0 3)).step ≠ 0 ∧
    (isMember joined 3 ∧ (joined.bar (barKey 0 3)).a.contains joined.here.gpos = false ∧ Passes (release allClasses 1) joined) ∧
    (isMember arrived 3 ∧ (arrived.bar (barKey 0 3)).a.contains arrived.here.gpos = true ∧ fget? (arrived.bar (barKey 0 3)).last 0 = some 1 ∧
      1 ≤ (arrived.bar (barKey 0 3)).gen) ∧
    fget? (joined.bar (barKey 0 3)).last 0 = none ∧ ¬ isMember z 3 := by
  have none : ¬ isMember z 3 := fun ⟨_, h, _⟩ => absurd (h.symm.trans (show z.here.step = none from rfl)) (by simp)
  simp only [notSteward, State.inBound, State.unarmed]
  refine ⟨?_, stalls_is ?_, ?_, ?_, ?_, ?_, ?_, ⟨joined_member, ?_, still_passes ?_⟩, ⟨arrived_member, ?_⟩, ?_, none⟩
  case refine_1 => and_intros <;> first | decide +kernel | exact still_passes (by decide +kernel)
  all_goals decide +kernel
theorem witness_PhasesAndQueueQueries :
    (notSteward z ∧ z.unarmed ∧ (∀ j ∈ neighboursOf z, signedN 32 (fget 0 z.here.phase 3 + 2 ^ 32 - fget 0 z.here.nbPhase (4 * j + 3)) ≤ z.here.lead)) ∧
    z.inBound [63] [] ∧ (z.here.landing = [] ∧ (z.engq z.cur 0).cur = none) ∧
    (∃ f, ((z.setEngq 0 1 { EngQ.reset with cur := some ⟨7, 0, 0, 0, false, [], none⟩ }).engq 0 1).cur = some f) ∧
    (∃ l r, (at0 fun t => { t with landing := [⟨3, 0, [], [], 1, 0, false, [], 0, 0, 0, false, false⟩] }).here.landing = l :: r) ∧
    (∀ q < 6, (63 : Nat).testBit q = true → (z.engq z.cur q).cur = none ∧ published z q = 0 ∧ (q = 0 → z.here.landing = [])) ∧
    (5 < 6 ∧ (32 : Nat).testBit 5 = true ∧ published (z.setRing 0 5 { Ring.reset with tail := 1 }) 5 ≠ 0) := by
  simp only [notSteward, State.inBound, State.unarmed]
  exact ⟨by decide +kernel, by decide +kernel, by decide +kernel, ⟨_, rfl⟩, ⟨_, _, rfl⟩, by decide +kernel, by decide +kernel⟩
/-- Two tiles of one gang; tile 0's phase 0 is one ahead of its neighbour's. -/
def gangOfTwo : State :=
  ({ run0 with steps := run0.steps.map fun st => { st with
    gang := 2, levels := [(0x80, 2)], positions := st.positions ++ [{ Position.new 0 1 with point := some [1], busy := true }] } } : State).modPlace 0
    fun t => { t with phase := [(0, 1)] }
theorem witness_PhasesAndQueueQueries_neighbour :
    1 ∈ neighboursOf gangOfTwo ∧ (gangOfTwo.here.lead : Int) < signedN 32 (fget 0 gangOfTwo.here.phase 0 + 2 ^ 32 - fget 0 gangOfTwo.here.nbPhase (4 * 1 + 0)) := by
  decide +kernel
theorem witness_MatrixConfigurationRegisters :
    (notSteward z ∧ z.inBound [1, 63] [] ∧ z.unarmed) ∧ ((gs [(1, 0x17FFE0)] z).g 1).toNat % 32 = 0 ∧ ((gs [(1, 0x17FFE0)] z).g 1).toNat < 0x17FFE1 ∧
    ((gs [(1, 1)] z).g 1).toNat % 32 ≠ 0 ∧ ((gs [(1, 0x180000)] z).g 1).toNat % 32 = 0 ∧ 0x17FFE1 ≤ ((gs [(1, 0x180000)] z).g 1).toNat := by
  simp only [notSteward, State.inBound, State.unarmed]; decide +kernel
/-- A copy with sequence 0 runs, promised for tick 9. -/
def copying : State := z.setEngq 0 2 { EngQ.reset with next := 1, cur := some ⟨0, 0, 0, 9, false, [], none⟩ }
theorem witness_TimeAndPromises :
    (z.inBound [63] [] ∧ z.unarmed ∧ Unrecorded z) ∧ ((z.g 0).toNat ≤ z.tick ∧ z.tick < ((gs [(1, 1)] z).g 1).toNat) ∧
    (notSteward z ∧ ¬ copyRuns z 0) ∧ (copyRuns copying 0 ∧ copying.tick ≤ promised copying 0) ∧
    (promised { copying with tick := 10 } 0 < ({ copying with tick := 10 } : State).tick ∧ fget false (({ copying with tick := 10 } : State).engq 0 2).reported 0 = false ∧
      copyRuns { copying with tick := 10 } 0) := by
  have hd : ¬ undispatched copying 0 := by simp only [undispatched]; decide +kernel
  have hc : ∀ t, copyRuns { copying with tick := t } 0 := fun t => ⟨fun h => hd h, .inr ⟨_, rfl, rfl⟩⟩
  refine ⟨?_, by decide +kernel, ⟨?_, fun h => h.1 ?_⟩, ⟨hc copying.tick, by decide +kernel⟩, by decide +kernel, by decide +kernel, hc 10⟩
  all_goals simp only [notSteward, State.inBound, State.unarmed, Unrecorded, undispatched]; decide +kernel
theorem witness_IndexedRegisterMoves :
    (z.unarmed ∧ z.inBound [63, 1] [31]) ∧ indexIn (indexOf z 1 63) z.here.regbnd ∧ ¬ indexIn (indexOf z 1 64) z.here.regbnd ∧
    ¬ indexIn (indexOf z 1 0xFFFFFFFF) z.here.regbnd ∧ indexIn (indexOf z 1 31) (z.here.regbnd / 2) ∧ ¬ indexIn (indexOf z 1 32) (z.here.regbnd / 2) := by
  simp only [State.inBound, State.unarmed, indexIn]; decide +kernel
theorem witness_ContextRecordsAndLaunchData :
    (z.inBound [1, 63] [] ∧ z.unarmed ∧ z.ctxVf 0 = z.here.vf) ∧ (¬ (2 ≤ (at0 fun t => { t with vf := 3 }).here.core.priv ∨ (at0 fun t => { t with vf := 3 }).ctxVf 0 = 3)) ∧
    (mayWriteWord z 0 1 ∧ mayWriteWord mon 0 0 ∧ ¬ mayWriteWord z 0 0) ∧
    (run0.onCc = true ∧ run0.unarmed ∧ ∃ st, run0.stepAt run0.cur = some st ∧ st.bucket = none) ∧
    (∃ st, ({ run0 with steps := run0.steps.map fun st => { st with bucket := some (3, 77) } } : State).stepAt 0 = some st ∧ st.bucket = some (3, 77)) ∧
    mon.onCc = false := by
  refine ⟨?_, by decide +kernel, ?_, ⟨by decide +kernel, ?_, ⟨_, rfl, rfl⟩⟩, ⟨_, rfl, rfl⟩, by decide +kernel⟩
  all_goals simp only [State.inBound, State.unarmed, mayWriteWord]; decide +kernel
/-- A second step of context 0, which needs one tile of die 0 and has not started; its record is Ready. -/
def pendingToo : State :=
  ({ run0 with steps := run0.steps ++ run0.steps.map fun st => { st with id := 4, members := [0], started := false, positions := [] }, dreg := [(0x10, 1)] } : State).setCtxd 0 63 61 1 |>.setCtxd 0 27 21 64
/-- The same beside a batched step. -/
def batchedToo : State := { pendingToo with steps := pendingToo.steps.map fun st => { st with batched := true } }
theorem witness_SwitchParkAndWake :
    (z.onCc = true ∧ z.inBound [63, 1] [] ∧ z.unarmed ∧ z.ctxState 0 ≠ 1) ∧
    ((pendingToo.ctxState 0 = 1 ∧ pendingToo.soundCtx 0 = true ∧ z.soundCtx 0 = false ∧ pendingToo.ctxVf 0 = pendingToo.here.vf ∧ pendingToo.batchedHere = false ∧ pendingToo.onCc = true) ∧
      ∃ k, pendingToo.pickContext 0 (some pendingToo.here.ctx) = some k) ∧
    (z.batchedHere = false ∧ z.pickContext z.cur (some z.here.ctx) = none) ∧
    (pendingToo.elsewhere 0 0 = false ∧ ({ pendingToo with steps := pendingToo.steps.map fun st => if st.id = 4 then { st with gang := 2 } else st } : State).elsewhere 0 0 = true) ∧
    ((pendingToo.modPlace 0 fun t => { t with vf := 3 }).ctxVf 0 ≠ 3 ∧ (pendingToo.modPlace 0 fun t => { t with vf := 3 }).here.cc.priv = 0) ∧
    ({ run0 with steps := run0.steps.map fun st => { st with batched := true } } : State).batchedHere = true ∧
    (batchedToo.batchedHere = true ∧ batchedToo.ctxState 0 = 1 ∧ batchedToo.soundCtx 0 = true ∧ batchedToo.ctxVf 0 = batchedToo.here.vf ∧ batchedToo.onCc = true) ∧
    (traceOff z 0 ∧ z.here.victim = false) ∧
    (run0.here.step = some 0 ∧ (run0.setCtxd 1 51 51 1).ctxd (run0.setCtxd 1 51 51 1).here.ctx 51 51 = 1 ∧ run0.ctxd run0.here.ctx 51 51 ≠ 1) ∧
    (ccOrSteward z ∧ ¬ ((at0 fun t => { t with vf := 3 }).ctxVf 0 = 3 ∨ 2 ≤ (at0 fun t => { t with vf := 3 }).here.core.priv)) ∧
    (Passes (release allClasses 2) z ∧ z.ctxVf 0 = z.here.vf ∧ z.ctxState 0 = 0) ∧
    ((z.setCtxd 0 63 57 (3 * 16 + 5)).ctxState 0 = 3 ∧ (z.setCtxd 0 63 57 (3 * 16 + 5)).ctxReason 0 = 5) ∧
    ((z.setCtxd 0 63 57 (3 * 16 + 4)).ctxState 0 ≠ 0 ∧ (z.setCtxd 0 63 57 (3 * 16 + 4)).ctxReason 0 ≠ 5) := by
  refine ⟨?_, ⟨by decide +kernel, ⟨0, by decide +kernel⟩⟩, by decide +kernel, by decide +kernel, (by decide +kernel), by decide +kernel, by decide +kernel, ?_, by decide +kernel, ⟨.inl (by decide +kernel), by decide +kernel⟩,
    ⟨still_passes (by decide +kernel), by decide +kernel⟩, by decide +kernel, by decide +kernel⟩
  all_goals simp only [State.inBound, State.unarmed, traceOff]; decide +kernel

/-- Queue 0 of die 0 is served, for function 0 and address space 0; its ring and the packet lie in the mapped page. -/
def queued : State := { run0 with dreg := [(dieReg 0 0, 4 * 2 ^ 44 + 1), (dieReg 0 8, 0x200000 * 2 ^ 8)] }
def launching : State := gs [(3, 0x200800)] queued
def reached : State := left (wayTo 0x200800 8 .r) launching
def reached2 : State := left (wayTo 0x200878 8 .r) reached
theorem witness_LaunchExitAndKill_launch : ∃ (w w' : Way) (s1 s2 s3 s4 : State) (bs : List Byte),
    ccOrSteward launching ∧ launching.inBound [2, 1, 3] [] ∧ (launching.g 1).toNat < 256 ∧ (launching.g 3).toNat % 8 = 0 ∧ launching.lqEn 0 0 = true ∧
    launching.lqVf 0 0 = launching.here.vf ∧ (launching.g 3).toNat < 2 ^ 56 ∧ (wayTo 0x200800 8 .r).run launching = .ok w s1 ∧
    (wayTo 0x200878 8 .r).run s1 = .ok w' s2 ∧ Passes (release allClasses 2) s2 ∧
    ((launching.lq 0 0).prod + 2 ^ 32 - (launching.lq 0 0).cons) % 2 ^ 32 ≠ 2 ^ launching.lqNlog 0 0 ∧ (w.read 128).run s2 = .ok bs s3 ∧
    (writeHome { s3.acc with asid := 0 } 0x200000 bs).run s3 = .ok ⟨⟩ s4 ∧ Passes (release allClasses 3) s4 := by
  refine ⟨.l1 ⟨0, 0, 0, 1, none, 0⟩ 0x200800 false, .l1 ⟨0, 0, 0, 1, none, 0⟩ 0x200878 false, reached, reached2, _, _, List.replicate 128 0,
    .inl (by decide +kernel), ?_, by decide +kernel, by decide +kernel, (by decide +kernel), by decide +kernel, by decide +kernel, got_ok (by decide +kernel),
    got_ok (by decide +kernel), still_passes (by decide +kernel), by decide +kernel, got_ok (by decide +kernel), got_ok (by decide +kernel),
    still_passes (by decide +kernel)⟩
  simp only [State.inBound]; decide +kernel
/-- Its CC has taken over what its queues have done. -/
def drainedRun : State := run0.modHere fun t => (List.range 6).foldl (fun t q => t.acquires ccAgent (t.released q)) t
theorem witness_LaunchExitAndKill :
    (run0.onCc = true ∧ (∀ q < 6, run0.queueIdle run0.cur q = true) ∧ Passes (release allClasses 2) drainedRun ∧ drainedRun.owes run0.cur = false) ∧ isCfe cfe.cur = true ∧
    ∃ st, run0.stepAt 0 = some st ∧ (run0.place 0).gpos < st.positions.length ∧ nextPoint st.levels (run0.place 0).point = none :=
  ⟨⟨by decide +kernel, by decide +kernel, still_passes (by decide +kernel), by decide +kernel⟩, by decide +kernel, _, rfl, by decide +kernel, by decide +kernel⟩

/-- The line of the handler table at 0 lies in tile 0's L1, every entry `h`. -/
def handlers (h : Nat) : State :=
  owned.setL1 0 { L1Line.empty ⟨some 0, 0⟩ with st := .s, valid := 15, data := BitVec.ofNat 1024 (h * ((2 ^ 1024 - 1) / (2 ^ 64 - 1))) }
theorem handlers_is (c h : Nat) (hc : c < 16) (p : fget? (handlers h).here.pmc (regionCode (some (handlers h).here.asid) (8 * c)) = some fullPerm)
    (q : (copyOf (handlers h) (8 * c)).pend = [] ∧ (copyOf (handlers h) (8 * c)).st ≠ .i ∧ (copyOf (handlers h) (8 * c)).valid = 15 ∧ numOf (lineBytes (copyOf (handlers h) (8 * c)).data (8 * c % 128) 8) = h)
    (t : (handlers h).here.tvec = 0 ∧ isTile (handlers h).cur = true ∧ (handlers h).here.vf = 0) : HandlerIs (handlers h) c h := by
  simp only [HandlerIs, t.1, Nat.zero_add]
  have v : ∀ j < 4, (15 : Nat).testBit j = true := by decide
  exact ⟨by omega, ⟨t.2.1, by omega, fullPerm, p, by decide, by rw [t.2.2]; rfl, rfl⟩, by omega,
    ⟨q.1, q.2.1, fun i h1 h2 => by rw [q.2.2.1]; exact v _ (by omega)⟩, q.2.2.2⟩
theorem witness_TrapsEnterTheirHandler :
    (sc.atLeast 1 ∧ sc.inBound [1] []) ∧
    ((handlers 0x200000).onCc = true ∧ traceOff (handlers 0x200000) 0 ∧ HandlerIs (handlers 0x200000) 15 0x200000 ∧ 0x200000 % 8 = 0) ∧
    HandlerIs (handlers 0) 0 0 ∧ HandlerIs (handlers 0x200000) cSyscall 0x200000 ∧ sc.onSc = true ∧
    (isSteward ({ z with cur := 519 } : State).cur = true ∧ ({ z with cur := 519 } : State).here.cc.priv < 3) ∧ 3 ≤ mon.here.cc.priv ∧ isCfe cfe.cur = true := by
  refine ⟨?_, ⟨by decide +kernel, ?_, handlers_is _ _ (by decide) (by decide +kernel) (by decide +kernel) (by decide +kernel), by decide +kernel⟩,
    handlers_is _ _ (by decide) (by decide +kernel) (by decide +kernel) (by decide +kernel), handlers_is _ _ (by decide) (by decide +kernel) (by decide +kernel) (by decide +kernel),
    by decide +kernel⟩
  all_goals simp only [State.atLeast, State.inBound, traceOff]; decide +kernel
theorem witness_ReturnsFromExceptions :
    (sc.onSc = true ∧ sc.atLeast 1 ∧ (resumePc sc).toNat < 2 ^ 56 ∧ sc.ctxd sc.here.ctx 51 51 ≠ 1 ∧ (sc.setCtxd 0 51 51 1).ctxd 0 51 51 = 1) ∧
    2 ^ 56 ≤ (resumePc (sc.modHere fun t => { t with epc := -1 })).toNat ∧ 2 ^ 56 ≤ (resumePc (mon.modHere fun t => { t with epc := -1 })).toNat ∧
    Instr.eretKill ∈ erets ∧ Instr.eretKill ∈ eretsTo ∧ isSteward mon.cur = true ∧ mon.atLeast 1 ∧ ((mon.reg (iodReg 0 0x6000)).extractLsb' 2 2 = 0#2) := by
  simp only [State.atLeast]; decide +kernel
theorem witness_SystemRegistersReadAndWrite :
    (z.inBound [63] [] ∧ z.unarmed ∧ sysValue z 4 = some 64) ∧ (sc.atLeast 1 ∧ sysValue sc 0x10 = some 0) ∧ (isTile z.cur = true ∧ Unrecorded z) ∧
    (isTile sc.cur = true ∧ EnginesRest sc) ∧ ¬ EnginesRest (sc.setEngq 0 1 { EngQ.reset with cur := some ⟨7, 0, 0, 0, false, [], none⟩ }) ∧
    (z.unstarted z.cur 0 = 0 ∧ (z.engq z.cur 0).cur = none ∧ z.queueIdle z.cur 1 = true) := by
  simp only [State.inBound, State.unarmed, State.atLeast, Unrecorded, EnginesRest]; decide +kernel
theorem witness_ChecksPrecedeTheEffect :
    confined mon (.park 0) = some false ∧ confined z .eretKill = some false ∧ (privilegeOf .halt = some 3 ∧ legalHere z .halt ∧ z.here.core.priv < 3) ∧
    (plainFields (at0 fun t => { t with regbnd := 16 }) (.add 0 16 17) = some [0, 16, 17] ∧
      [0, 16, 17].find? (fun x => decide (x ≠ 0 ∧ (at0 fun t => { t with regbnd := 16 }).here.regbnd ≤ x)) = some 16) := by
  simp only [legalHere]; decide +kernel
/-- The SC of the step's tile with the address of its page; function 0 may hold keys. -/
def runSc : State := run0.modPlace 0 fun t => { t with frozen := true, sc := { t.sc with priv := 1, g := [(1, 0x200000)] } }
def keyed : State := { mon with dreg := [(pkgReg 0x3000, 1), (pkgReg 0x3010, 256)] }
theorem witness_PrivilegedOperationsComplete :
    (mon.unarmed ∧ mon.atLeast 3 ∧ sc.atLeast 1 ∧ sc.unarmed) ∧ (mon.inBound [1, 2, 3] [] ∧ mon.atLeast 2 ∧ mon.g 2 = 0 ∧ (2 : Nat).testBit 1 = true ∧
      mon.here.begun = none ∧ mon.unsettled (fun k => k.asid == some 0) = false ∧ (∀ e ∈ (mon.shoot (some 0) true 0 0).home, e.2.waits = false) ∧
      ∀ e ∈ (mon.shoot (some 0) true 0 0).places, ∀ l ∈ e.2.l1, l.2.pend = []) ∧
    ({ mon with msgs := [.done ⟨some 0, 0⟩] } : State).unsettled (fun k => k.asid == some 0) = true ∧
    (runSc.inBound [1] [] ∧ runSc.atLeast 1 ∧ (runSc.g 1).toNat < 2 ^ 56 ∧ runSc.namedRegion (runSc.g 1).toNat = some (some 0, 0x200000) ∧ Passes (orderRead 15) runSc) ∧
    (keyed.inBound [1, 2, 3] [] ∧ keyed.atLeast 2 ∧ keyed.unarmed ∧ (keyed.g 1).toNat < 2 ^ 25 ∧ slotFree (keyed.place 0) 3 ∧ (keyed.place 0).keys = [] ∧
      keyed.limits 0 / 2 ^ 136 % 32 ≠ 0 ∧ keyed.gated.contains (dieOf 0) = false) ∧
    (mon.inBound [1] [] ∧ (mon.g 1).toNat < 512 ∧ mon.gated.contains (dieOf 0) = false) ∧
    (sc.inBound [1, 2] [] ∧ (sc.g 1).toNat % 64 = 0 ∧ sc.g 2 = 0 ∧ 0 + spSize sc.cur ≤ spSize sc.cur ∧ Passes (orderRead 15) sc ∧ Passes (spTouch sc.acc 0 (spSize sc.cur)) sc) := by
  have hk : (keyed.place 0).keys = [] := by decide +kernel
  refine ⟨?_, ?_, by decide +kernel, ⟨?_, ?_, by decide +kernel, by decide +kernel, still_passes (by decide +kernel)⟩, ⟨?_, ?_, ?_, by decide +kernel, ?_, hk, by decide +kernel, by decide +kernel⟩, ?_, ?_, by decide +kernel,
    by decide +kernel, by decide +kernel, still_passes (by decide +kernel), still_passes (by decide +kernel)⟩
  all_goals simp only [State.inBound, State.unarmed, State.atLeast, slotFree, hk]
  case refine_8 => exact fun k h => nomatch h
  all_goals decide +kernel
theorem witness_CountersRangesAndQueueResets :
    (notSteward z ∧ z.unarmed ∧ traceOff z 0) ∧ (notSteward sc ∧ sc.inBound [1, 2, 63] [] ∧ sc.atLeast 1 ∧ sc.unarmed ∧ sc.here.begun = none ∧ sc.qresets = [] ∧ fget? sc.qresets 0 = none) ∧
    ((sc.g 1).toNat / 2 ^ 9 % 2 = 0 ∧ ((sc.resetEngine 0 0 true).queueStores 0 0 0 = false) ∧ (sc.place 0).step = none ∧
      fget? ((({ sc.resetEngine 0 0 true with qresets := [(0, 0)] } : State).modHere fun t => { t with begun := some [] }).endQresets).qresets 0 = none) ∧
    fget? ({ sc with qresets := [(0, 0)] } : State).qresets 0 ≠ none ∧
    (runSc.inBound [1, 2] [] ∧ runSc.atLeast 1 ∧ runSc.unarmed ∧ (runSc.stepAt runSc.cur).any (fun x => x.causalD = x.trialBase) = true) ∧ 6 ≤ ((gs [(1, 0x1800)] sc).g 1).toNat / 2 ^ 10 ∧ 256 ≤ ((gs [(1, 256)] sc).g 1).toNat := by
  simp only [State.inBound, State.unarmed, State.atLeast, notSteward, traceOff]; decide +kernel

/-- The word `w` at the head of its queue on tile 0 (log 14); with captured value `v`. -/
def head (w : Nat) : State := z.placed w
def h0 : Hdr := ⟨0, 0, 0, 0, 0, 0⟩
theorem ready (s : State) (q : Nat) (h : Hdr) (a : isTile s.cur = true ∧ published s q ≠ 0 ∧ (s.engq s.cur q).cur = none ∧ s.here.starts q = true ∧ fget? s.qresets (8 * s.cur + q) = none ∧ s.queueBlocked s.cur q = false)
    (b : h.wneed ≤ s.here.getSem h.wsem) : HeadReady s q h := ⟨a.1, a.2.1, a.2.2.1, a.2.2.2.1, a.2.2.2.2.1, a.2.2.2.2.2, .inr b⟩
/-- VNOP waits for 2 of semaphore 3 and adds 1 to semaphore 4, which would overflow in the second state. -/
def hw : Hdr := ⟨3, 2, 4, 1, 0, 0⟩
def vnopping : State := (head 0x2000000000000000).modHere fun t => t.setSem 3 2
def vnopOver : State := vnopping.modHere fun t => t.setSem 4 65535
theorem witness_EngineCommandProtocol :
    (engineQueue 0x4000000000000000 = some 1 ∧ notSteward run0 ∧ run0.inBound [0] [] ∧ run0.unarmed ∧ (ringOf run0 1).v = true ∧
      published run0 1 < 2 ^ (ringOf run0 1).slog ∧ isMgo 0x4000020000000000 = false ∧ run0.here.mcOcc = false ∧ run0.here.maps = []) ∧
    ((ringOf z 1).v = false ∧ 2 ^ (ringOf (run0.setRing 0 1 { ringOf run0 1 with tail := 2 ^ (ringOf run0 1).slog }) 1).slog ≤
      published (run0.setRing 0 1 { ringOf run0 1 with tail := 2 ^ (ringOf run0 1).slog }) 1) ∧
    (noopOf (.vnop hw) = some (0, hw) ∧ vnopping.here.veIssued = false ∧ HeadReady vnopping 0 hw ∧ SignalFits vnopping hw) ∧
    (HeadReady vnopOver 0 hw ∧ ¬ SignalFits vnopOver hw ∧ hw.sinc ≠ 0) ∧
    ((head 0x2000000000000000).queueBlocked 0 0 = false ∧ (head 0x2000000000000000).here.getSem hw.wsem < hw.wneed) ∧ published run0 0 = 0 := by
  refine ⟨?_, by decide +kernel, ⟨by decide +kernel, by decide +kernel, ready _ _ _ (by decide +kernel) (by decide +kernel), ?_⟩,
    ⟨ready _ _ _ (by decide +kernel) (by decide +kernel), ?_, by decide +kernel⟩, by decide +kernel, by decide +kernel⟩
  all_goals simp only [notSteward, State.inBound, State.unarmed, SignalFits]; decide +kernel
def veHead : State := head 0x2000000080029060
theorem veHead_ready : VeReady veHead h0 := ⟨ready _ _ _ (by decide +kernel) (by decide +kernel), by decide +kernel⟩
/-- Operands for the vector rows, with TYP `t`. -/
def vr (t : Nat) : VR := ⟨t, 1, 2, 3, 0, 0, 0⟩
def vc (t : Nat) : VC := ⟨0, 0, 0, 0, t, 1, 2, 0, 0, 0, 0⟩
theorem witness_VectorElementResults : (∃ lat f, vElem (.vadd h0 (vr 13)) = some (h0, vr 13, lat, f)) ∧ (vr 13).typ < 14 ∧ VeReady veHead h0 :=
  ⟨⟨_, _, rfl⟩, by decide, veHead_ready⟩
theorem witness_VectorLaneAndMaskResults :
    (∃ typ d lat f, vLaneRule veHead.here 0 (.vunpk h0 (vr 6)) = some (h0, typ, d, lat, f) ∧ typ < 14) ∧
    (∃ d lat f, vLaneRule veHead.here 0 (.vred h0 (vr 8)) = some (h0, 0, d, lat, f)) ∧ VeReady veHead h0 :=
  ⟨⟨_, _, _, _, rfl, by decide⟩, ⟨_, _, _, rfl⟩, veHead_ready⟩
theorem witness_VectorConversionResults : ((vc 13).typ < 14 ∧ ({ vc 13 with vb := 26 } : VC).vb / 2 < 14) ∧ (3 ≤ (vc 3).typ ∧ (vc 7).typ < 8) ∧ VeReady veHead h0 :=
  ⟨by decide, by decide, veHead_ready⟩
/-- The captured value of the head command is `v`. -/
def veCap (v : Nat) : State := veHead.modHere fun t => t.putSp ((veHead.ring 0 0).slot (veHead.ring 0 0).head + 8) (bytesOf 8 v)
/-- A scratchpad vector store of lane 0 and of all lanes at 0, and accesses that break a check. -/
def vm (d : Nat) : VM := ⟨1, 1, 0, d⟩
theorem witness_VectorMemoryAndLandings :
    ((∃ x, laneAccess veHead.here 0 (.vst h0 (vm 0)) = some x ∧ x.store = true ∧ x.hdr = h0 ∧
        (∀ k, x.on veHead.here k → x.addr k % 4 = 0 ∧ x.addr k + 4 ≤ 0x180000)) ∧
      veHead.here.maps = [] ∧ (outstanding veHead < 8 ∧ ∀ l ∈ veHead.here.landing, l.kind < 4) ∧ SignalFits veHead h0 ∧ veHead.here.tb = none ∧ headCapOf veHead 0 = 0) ∧
    (∃ x, laneAccess veHead.here 0 (.vld h0 (vm 0)) = some x ∧ x.store = false ∧ ∀ k, x.on veHead.here k → veHead.here.spBad (x.addr k) 4 = false) ∧
    (∃ x, laneAccess (veCap 2).here (headCapOf (veCap 2) 0) (.vld h0 (vm 0)) = some x ∧ ∃ k, x.on (veCap 2).here k ∧ x.addr k % 4 ≠ 0) ∧
    (∃ x, laneAccess (veCap 0x17FF04).here (headCapOf (veCap 0x17FF04) 0) (.vld h0 (vm 0)) = some x ∧ (∀ k, x.on (veCap 0x17FF04).here k → x.addr k % 4 = 0) ∧
      ∃ k, x.on (veCap 0x17FF04).here k ∧ 0x180000 < x.addr k + 4) ∧
    (isTile 0 = true ∧ (veHead.place 0).veRuns = true ∧ (∀ l ∈ (veHead.place 0).landing, l.kind < 4)) ∧
    8 ≤ outstanding (veHead.modPlace 0 fun t => { t with landing := List.replicate 8 ⟨1, 0, [], [], 4, 0, true, [0], 4, 1, 0, false, false⟩ }) ∧
    (∃ l, (veHead.modPlace 0 fun t => { t with landing := [⟨1, 0, [], [], 1, 0, false, [], 4, 1, 0, false, false⟩] }).here.landing = [l] ∧ l.rem ≤ 1 ∧ l.poison = false ∧
      (veHead.place 0).getSem l.ssem + l.sinc ≤ 65535) := by
  refine ⟨⟨⟨_, rfl, rfl, rfl, fun k hk => ?_⟩, by decide +kernel, by decide +kernel, ?_, by decide +kernel, by decide +kernel⟩, ⟨_, rfl, rfl, fun k hk => ?_⟩,
    ⟨_, rfl, 0, ⟨by decide, by decide +kernel⟩, by decide +kernel⟩, ⟨_, rfl, fun k hk => ?_, 63, ⟨by decide, by decide +kernel⟩, by decide +kernel⟩, by decide +kernel, by decide +kernel, ⟨_, rfl, by decide, by decide, by decide +kernel⟩⟩
  · exact (by decide +kernel : ∀ k < 64, vmAddr 0 (vm 0) k % 4 = 0 ∧ vmAddr 0 (vm 0) k + 4 ≤ 0x180000) k hk.1
  · simp only [SignalFits]; decide +kernel
  · exact (by decide +kernel : ∀ k < 64, veHead.here.spBad (vmAddr 0 (vm 0) k) 4 = false) k hk.1
  · exact (by decide +kernel : ∀ k < 64, vmAddr (headCapOf (veCap 0x17FF04) 0) (vm 0) k % 4 = 0) k hk.1

/-- A header word (R216), and a tile whose matrix queue has a command at its head with captured value `v`, and operands:
A one row of 64 BF16 at 0x200, B one column of 64, tables of 16 FP32, one column of binary planes, an FP32 output row. -/
def hdrWord (elem layout cols rows pitch scpitch data : Nat) : Nat :=
  1 + layout * 2 ^ 6 + elem * 2 ^ 12 + cols * 2 ^ 112 + rows * 2 ^ 128 + scpitch * 2 ^ 144 + pitch * 2 ^ 160 + data * 2 ^ 200
def matrixed (v : Nat) : State :=
  (head 0x4000000000000000).modHere fun t => ((((((t.putSp 0x100 (bytesOf 32 (hdrWord 1 0 64 1 128 0 0x200))).putSp 0x120 (bytesOf 32 (hdrWord 1 2 1 64 0 0 0))).putSp
    0x160 (bytesOf 32 (hdrWord 0 0 16 1 64 0 0x200))).putSp 0x180 (bytesOf 32 (hdrWord 8 2 1 4 0 8 0))).putSp 0x1A0 (bytesOf 32 (hdrWord 0 0 4 1 16 0 0x300))).putSp
    ((head 0x4000000000000000).ring 0 1 |>.slot 0 |> (· + 8)) (bytesOf 8 v))
def hcap : Hdr := ⟨0, 0, 0, 0, 1, 1⟩
/-- MMUL and MGATH take A and B; MLUT tables and planes; MDRAIN the output, with A's place as bias. -/
def mulState : State := matrixed (8 + 9 * 2 ^ 16 + 10 * 2 ^ 32)
def lutState : State := matrixed (11 + 12 * 2 ^ 16)
def drainState : State := matrixed (13 + 13 * 2 ^ 16)
theorem matrix_ready (s : State) (h : Hdr) (a : isTile s.cur = true ∧ published s 1 ≠ 0 ∧ (s.engq s.cur 1).cur = none ∧ s.here.starts 1 = true ∧ fget? s.qresets (8 * s.cur + 1) = none ∧
    s.queueBlocked s.cur 1 = false)
    (b : h.wneed ≤ s.here.getSem h.wsem) (c : semSignalled s h h.ssem ≤ 65535) (t : (s.here.tags = [] ∧ s.here.tagBad = []) ∧ s.here.maps = [] ∧ s.here.spPoison = [] ∧ s.here.tb = none) :
    HeadReady s 1 h ∧ SignalFits s h ∧ Undisturbed s :=
  ⟨ready s 1 h a b, c, t.2.1, t.2.2.1, t.2.2.2, fun row col => by simp only [State.bstWord]; rw [show s.place s.cur = s.here from rfl, t.1.1, t.1.2]; rfl⟩
theorem witness_MatrixCommandsAccumulate :
    (HeadReady mulState 1 hcap ∧ SignalFits mulState hcap ∧ Undisturbed mulState) ∧
    (let a := headerAt mulState (pointer mulState hcap 0 0)
     let b := headerAt mulState (pointer mulState hcap 1 1)
     pointer mulState hcap 0 0 ≤ 0x17FFE0 ∧ pointer mulState hcap 1 1 ≤ 0x17FFE0 ∧ a.ok = true ∧ b.ok = true ∧ hdA a b = true ∧ hdB b = true ∧ a.cols = b.rows ∧
       a.rows * 2 ^ 2 ≤ 256 ∧ b.cols ≤ 64 * 2 ^ 2 ∧ a.inside = true ∧ b.bInside (2 ^ 2) 1 = true) ∧
    (let il := 32 * (headCapOf mulState 1 / 2 ^ 32 % 2 ^ 16)
     il % 2 = 0 ∧ il + 2 * 2 ≤ 0x180000 ∧ ∀ i < 2, mulState.here.spNum (il + 2 * i) 2 = 0xFFFF ∨ mulState.here.spNum (il + 2 * i) 2 < 1) ∧
    (HeadReady lutState 1 hcap ∧ SignalFits lutState hcap ∧ Undisturbed lutState) ∧
    (let a := headerAt lutState (pointer lutState hcap 0 0)
     let b := headerAt lutState (pointer lutState hcap 1 1)
     a.ok = true ∧ b.ok = true ∧ hdALut a = true ∧ hdBLut b 32 = true ∧ a.cols = 4 * b.rows ∧ a.rows * 1 ≤ 256 ∧ b.cols ≤ 64 * 1 ∧ a.inside = true ∧ b.bInside 1 1 = true ∧
       b.scloc + (b.cols - 1) * b.scpitch + 8 * ((b.rows + 31) / 32) ≤ 0x180000) :=
  ⟨matrix_ready _ _ (by decide +kernel) (by decide +kernel) (by decide +kernel) (by decide +kernel), by decide +kernel, by decide +kernel,
    matrix_ready _ _ (by decide +kernel) (by decide +kernel) (by decide +kernel) (by decide +kernel), by decide +kernel⟩
/-- A drain under SCT whose list at 0x1C0 names one row, and none for the other 31 rows of NSUB = 8. -/
def scatterState : State := drainState.modHere fun t => { t.putSp 0x1C0 (bytesOf 2 0 ++ List.replicate 62 0xFF) with mcActive := [(3, 0x1C0 * 2 ^ 21)] }
/-- A nest of one level with one point, on the same operands, is pending; it clears at a sweep's start and drains at its end. -/
def nested : State := mulState.modHere fun t =>
  { t with mcOcc := true, mcPending := [(0, 1 + 2 ^ 10 + 2 ^ 11), (1, 1 + 1 * 2 ^ 9 + 64 * 2 ^ 19), (8, 0x100), (9, 0x120), (11, 0x1A0), (0x10, 1)] }
def nestBegun : State := begun nested 1 h0
def nestChecks : M Run := mgoChecks ⟨nested.here.mcPending⟩ (agentOf nested 1) nested.here.gpos 1
/-- The body and the drain of the nest's only point, and a nest with a level over the tiles of a die and one over dies. -/
def pointAcc : Acc := agentOf nested 1
def pointOrig : Orig := ⟨0, 0, 0, 0, 0, 0⟩
def pointBody : M Unit := body pointAcc .mmul (headerAt nested 0x100) (headerAt nested 0x120) 1 1 1 64 pointOrig
def cleared : State := nested.modPlace 0 Place.zeroAcc
def pointDrain : M Unit := drain pointAcc (headerAt nested 0x1A0) ⟨false, false, 0, false, false, false, 0⟩ 1 1 1 [] [] pointOrig
def spread : Nest := ⟨[(0, 2), (0x10, 2 + 2 ^ 62), (0x11, 3 + 2 ^ 63)]⟩
def nestActive : State := (left nestChecks nestBegun).modPlace 0 fun t => { t with mcActive := t.mcPending }
def nestPoint : Run := ⟨⟨nested.here.mcPending⟩, [[0]], .mmul, headerAt nested 0x100, headerAt nested 0x120, headerAt nested 0x1A0, [], []⟩
def nestRun : M Unit := runNest ((left nestChecks nestBegun).cmdAcc 0 1 (headSeqOf nested 1)) nestPoint
theorem witness_MatrixDrainsAndNests :
    (HeadReady drainState 1 hcap ∧ SignalFits drainState hcap ∧ Undisturbed drainState) ∧
    (let o := headerAt drainState (pointer drainState hcap 0 3)
     pointer drainState hcap 0 3 ≤ 0x17FFE0 ∧ o.ok = true ∧ hdOut o = true ∧ o.inside = true ∧ o.layout = 0 ∧ hdC o o = true) ∧
    (HeadReady nested 1 h0 ∧ nestChecks.run nestBegun = .ok nestPoint (left nestChecks nestBegun) ∧ nestRun.run nestActive = .ok ⟨⟩ (left nestRun nestActive) ∧
      (left nestRun nestActive).cur = nested.cur ∧ (left nestRun nestActive).here.met = none ∧ ringOf (left nestRun nestActive) 1 = ringOf nested 1 ∧
      (ringOf nested 1).head < 65536 ∧ ((left nestRun nestActive).engq 0 1).cur = none ∧ SignalFits (left nestRun nestActive) h0) ∧
    [0] ∈ nestPoint.nest.points [] ∧
    (let o := headerAt scatterState (pointer scatterState hcap 0 3)
     let so := (fget 0 scatterState.here.mcActive 3).toNat / 2 ^ 21 % 2 ^ 21
     HeadReady scatterState 1 hcap ∧ SignalFits scatterState hcap ∧ Undisturbed scatterState ∧ o.ok = true ∧ hdOut o = true ∧ o.inside = true ∧
       pointer scatterState hcap 1 2 ≤ 0x17FFE0 ∧ (headerAt scatterState (pointer scatterState hcap 1 2)).ok = true ∧
       hdC (headerAt scatterState (pointer scatterState hcap 1 2)) o = true ∧ so % 2 = 0 ∧ so + 2 * 32 ≤ 0x180000 ∧
       ∀ i < 32, scatterState.here.spNum (so + 2 * i) 2 = 0xFFFF ∨ scatterState.here.spNum (so + 2 * i) 2 < o.rows) ∧
    (Undisturbed nested ∧ nestChecks.run nested = .ok nestPoint (left nestChecks nested) ∧ nestPoint.points = [0] :: [] ∧ (nestPoint.nest.zen = true ∧ nestPoint.nest.sweepStart [0] = true) ∧
      (nestPoint.nest.den = true ∧ nestPoint.nest.sweepEnd [0] = true) ∧ nestPoint.nest.orig [0] = pointOrig ∧
      pointBody.run cleared = .ok ⟨⟩ (left pointBody cleared) ∧ pointDrain.run (left pointBody cleared) = .ok ⟨⟩ (left pointDrain (left pointBody cleared))) ∧
    (pointAcc.place = nested.cur ∧ pointAcc.vf = nested.here.vf ∧ pointOrig.br % chunkOf (headerAt nested 0x120).elem = 0 ∧
      (headerAt nested 0x1A0).ok = true ∧ hdOut (headerAt nested 0x1A0) = true ∧ (headerAt nested 0x1A0).inside = true) ∧
    ((headerAt lutState 0x180).elem = 8 ∧ (32 : Nat) = 32 * 2 ^ 0) ∧
    ([0].length = nestPoint.nest.nlev ∧ ∀ lo ∈ [0, 10, 20, 30, 40, 50], 0 ≤ originOf nestPoint.nest.m [0] lo) ∧
    ((∀ l < spread.nlev, spread.trip l ≠ 0) ∧ spread.spatial 3 2 = some [(0, 1), (1, 1)] ∧ spread.spatial 7 2 = none) := by
  have hm (s : State) (h : Hdr) (a) (b) (c) (t) : Undisturbed s := (matrix_ready s h a b c t).2.2
  have hs : SignalFits (left nestRun nestActive) h0 := by simp only [SignalFits]; decide +kernel
  refine ⟨matrix_ready _ _ (by decide +kernel) (by decide +kernel) (by decide +kernel) (by decide +kernel), by decide +kernel,
    ⟨(matrix_ready _ _ (by decide +kernel) (by decide +kernel) (by decide +kernel) (by decide +kernel)).1, got_ok (by decide +kernel), got_ok (by decide +kernel),
    by decide +kernel, by decide +kernel, (by decide +kernel), by decide +kernel, by decide +kernel, hs⟩, by decide +kernel, ?_, ⟨hm nested h0 ?_ ?_ ?_ ?_, ?_⟩, ?_⟩
  · have := matrix_ready scatterState hcap (by decide +kernel) (by decide +kernel) (by decide +kernel) (by decide +kernel)
    exact ⟨this.1, this.2.1, this.2.2, by decide +kernel⟩
  · decide +kernel
  · decide +kernel
  · decide +kernel
  · decide +kernel
  · exact ⟨got_ok (by decide +kernel), rfl, by decide +kernel, by decide +kernel, by decide +kernel, got_ok (by decide +kernel), got_ok (by decide +kernel)⟩
  · decide +kernel

/-- A descriptor from its fields (low bit, value), at 0x400 of a tile with the command word `w` at a queue's head. -/
def desc (l : List (Nat × Nat)) : Nat := l.foldl (fun a p => a + p.2 * 2 ^ p.1) 0
def withDesc (w : Nat) (n : Nat) (l : List (Nat × Nat)) : State := (head w).modHere fun t => t.putSp 0x400 (bytesOf n (desc l))
theorem has_desc (s : State) (q n form w : Nat) (a : isTile s.cur = true ∧ published s q ≠ 0 ∧ (s.engq s.cur q).cur = none ∧ s.here.starts q = true ∧ fget? s.qresets (8 * s.cur + q) = none ∧
    s.queueBlocked s.cur q = false)
    (t : s.here.maps = [] ∧ s.here.spPoison = [] ∧ s.here.tb = none) (d : w = s.here.spNum 0x400 n ∧ w % 16 = form ∧ 0x400 + n ≤ 0x180000) :
    HasDesc s q h0 32 n form w :=
  ⟨ready s q h0 a (Nat.zero_le _), t.1, t.2.1, t.2.2, by simp [descAt, h0], by simpa [descAt, h0] using d.2.2, d.1, d.2.1⟩
/-- Only the listed fields are set: a bit test of the 512 bits. -/
theorem only_fields (w n : Nat) (l : List (Nat × Nat))
    (h : ∀ i < n, (decide (4 ≤ i) && w.testBit i) = true → (l.any fun f => decide (f.2 ≤ i) && decide (i ≤ f.1)) = true) : OnlyFields w n l := by
  intro i h4 hn hb
  have := h i hn (by simp [h4, hb])
  simp only [List.any_eq_true, Bool.and_eq_true, decide_eq_true_eq] at this
  obtain ⟨f, hf, h1⟩ := this
  exact ⟨f, hf, h1⟩
/-- Ranges of scratchpad that are inside it, and accesses of scratchpad without mapped regions: a read leaves the state, and a
write leaves one. -/
theorem sp_usable (s : State) (q : Nat) (h : Hdr) (nd : Need) (l : List (Nat × Nat)) (a : ∀ e ∈ l, e.1 + e.2 ≤ 0x180000) : Usable s q h true nd l :=
  fun e m => .inr (a e m)
theorem touch_idle (a : Acc) (s : State) (o n : Nat) (hm : (s.place a.place).maps = []) : (spTouch a o n).run s = .ok ⟨⟩ s := by
  show (spTouch a o n) s = .ok ⟨⟩ s
  unfold spTouch
  show (if (!(s.place a.place).maps.isEmpty && decide (n ≠ 0)) = true then _ else _ : M Unit) s = _
  rw [hm]
  rfl
theorem sp_read (a : Acc) (s : State) (o n : Nat) (hm : (s.place a.place).maps = []) (hp : (s.place a.place).spPoison = []) :
    Acts (xeRead a true o n) s s ((s.place a.place).spBytes o n) := by
  intro p
  have e : (spTouch a o n) { s with progress := p } = .ok ⟨⟩ { s with progress := p } := touch_idle a { s with progress := p } o n hm
  have hb : (({ s with progress := p } : State).place a.place).spBad o n = false := by
    show (s.place a.place).spBad o n = false
    simp [Place.spBad, hp, fget, fget?]
  have r : rdSp a o n { s with progress := p } = .ok ((s.place a.place).spBytes o n) { s with progress := p } := by
    unfold rdSp; simp only [bind, EStateM.bind, e]; rfl
  show cmdRd a o n { s with progress := p } = _
  unfold cmdRd
  simp only [bind, EStateM.bind, r]
  show (if (({ s with progress := p } : State).place a.place).spBad o n = true then _ else _ : M (List Byte)) { s with progress := p } = _
  rw [hb]
  rfl
def spPut (a : Acc) (o : Nat) (bs : List Byte) (s : State) : State :=
  s.modPlace a.place fun t => (((t.putSp o bs).unpoison o bs.length).markDirty o bs.length).watch
theorem sp_write (a : Acc) (s : State) (o : Nat) (bs : List Byte) (hm : (s.place a.place).maps = []) :
    Acts (xeWrite a true o bs) s (spPut a o bs s) ⟨⟩ := by
  intro p
  have e : (spTouch a o bs.length) { s with progress := p } = .ok ⟨⟩ { s with progress := p } := touch_idle a { s with progress := p } o bs.length hm
  show wrSp a o bs { s with progress := p } = _
  unfold wrSp
  simp only [bind, EStateM.bind, e]
  rfl
/-- A copy of 128 bytes from 0x800 to 0x900, all in scratchpad; a fill; one scatter-gather element; a B-store copy. -/
def xcpyL : List (Nat × Nat) := [(0, 1), (456, 0x800), (400, 0x900), (368, 128), (352, 1), (149, 1), (148, 1)]
def xfillL : List (Nat × Nat) := [(0, 1), (400, 0x900), (368, 128), (352, 1), (224, 0xAB), (150, 3), (148, 1)]
def xsglL : List (Nat × Nat) := [(200, 0x800), (144, 0x900), (112, 64), (96, 0xFFFF), (75, 1), (74, 1)]
def xbstL : List (Nat × Nat) := [(0, 1), (456, 0x800), (400, 0x400), (368, 1024), (352, 1), (149, 1)]
/-- Function 0's key is in slot 3 of the tile. -/
def keyOne : KeySlot := ⟨5, 0, true, none⟩
def xbstState : State := (withDesc 0x6000000000000000 64 xbstL).modHere fun t => { t with keys := [(3, keyOne)] }
/-- The started copy of a descriptor. -/
def started (w : Nat) : State := (at0 fun t => { t with keys := [(3, keyOne)] }).setEngq 0 2 { EngQ.reset with next := 1, cur := some ⟨0, 0, 0, 300, false, [w], none⟩ }
theorem copy_runs (w : Nat) : CopyRuns (started w) ⟨0, 0, 0, 300, false, [w], none⟩ [w] :=
  ⟨⟨rfl, rfl, rfl, rfl, rfl, rfl, fun _ h => nomatch h⟩, rfl, rfl, rfl⟩
theorem witness_CopyEngineCommands_starts :
    (let s := withDesc 0x6000000000000000 64 xcpyL
     let d : Xd := ⟨desc xcpyL⟩
     HasDesc s 2 h0 32 64 1 d.w ∧ Unrecorded s ∧ d.sas = true ∧ d.das = true ∧ d.rows ≠ 0 ∧
       OnlyFields d.w 512 [(511, 456), (455, 400), (399, 368), (367, 352), (351, 320), (319, 288), (149, 149), (148, 148)] ∧ d.src < 2 ^ 21 ∧ d.dst < 2 ^ 21 ∧
       Usable s 2 h0 d.sas .r (rowRanges d.src d.spitch d.rows d.len) ∧ Usable s 2 h0 d.das .w (rowRanges d.dst d.dpitch d.rows d.len) ∧
       ∀ x ∈ rowRanges d.src d.spitch d.rows d.len, ∀ y ∈ rowRanges d.dst d.dpitch d.rows d.len, Apart x.1 x.2 y.1 y.2) ∧
    (let s := withDesc 0x6000000000000000 64 xfillL
     let d : Xd := ⟨desc xfillL⟩
     HasDesc s 2 h0 32 64 1 d.w ∧ Unrecorded s ∧ d.das = true ∧ d.rows ≠ 0 ∧
       OnlyFields d.w 512 [(455, 400), (399, 368), (367, 352), (319, 288), (287, 224), (151, 150), (148, 148)] ∧ d.dst < 2 ^ 21 ∧
       Usable s 2 h0 d.das .w (rowRanges d.dst d.dpitch d.rows d.len) ∧ d.dst % d.pw = 0 ∧ d.dpitch % d.pw = 0 ∧ d.len % d.pw = 0) ∧
    (let s := withDesc 0x6000000000000000 32 xsglL
     let e : Sge := ⟨desc xsglL⟩
     HeadReady s 2 h0 ∧ s.here.maps = [] ∧ s.here.spPoison = [] ∧ Unrecorded s ∧ descAt s 2 h0 32 % 32 = 0 ∧ Chain s (descAt s 2 h0 32) [e.w] ∧ e.w % 2 ^ 74 = 0 ∧
       e.ck = 0 ∧ e.src < 2 ^ 21 ∧ e.dst < 2 ^ 21 ∧ Usable s 2 h0 e.sas .r [(e.src, e.len)] ∧ Usable s 2 h0 e.das .w [(e.dst, e.len)] ∧
       Apart e.src e.len e.dst e.len) ∧
    (let s := xbstState
     let d : Xd := ⟨desc xbstL⟩
     HasDesc s 2 h0 32 64 1 d.w ∧ Unrecorded s ∧ d.sas = true ∧ d.rows = 1 ∧
       OnlyFields d.w 512 [(511, 456), (455, 400), (399, 368), (367, 352), (149, 149)] ∧ d.src < 2 ^ 21 ∧ Usable s 2 h0 d.sas .r [(d.src, d.len)] ∧
       d.dst + d.len ≤ 0xC00000 ∧
       d.dst % 1024 = 0 ∧ d.len % 1024 = 0 ∧ s.here.slotOf s.here.vf ≠ none) := by
  refine ⟨⟨has_desc _ _ _ _ _ (by decide +kernel) (by decide +kernel) (by decide +kernel), ?_, ?_, ?_, ?_, only_fields _ _ _ (by decide +kernel), ?_, ?_,
      sp_usable _ _ _ _ _ ?_, sp_usable _ _ _ _ _ ?_, ?_⟩,
    ⟨has_desc _ _ _ _ _ (by decide +kernel) (by decide +kernel) (by decide +kernel), ?_, ?_, ?_, only_fields _ _ _ (by decide +kernel), ?_,
      sp_usable _ _ _ _ _ ?_, ?_⟩,
    ⟨ready _ _ _ (by decide +kernel) (by decide +kernel), ?_, ?_, ?_, ?_, ?_, ?_, ?_, ?_, ?_, sp_usable _ _ _ _ _ ?_, sp_usable _ _ _ _ _ ?_, ?_⟩,
    has_desc _ _ _ _ _ (by decide +kernel) (by decide +kernel) (by decide +kernel), ?_, ?_, ?_, only_fields _ _ _ (by decide +kernel), ?_,
    sp_usable _ _ _ _ _ ?_, ?_⟩
  all_goals first | decide +kernel | (simp only [Unrecorded, Apart, Chain]; decide +kernel)
/-- The copy of the descriptor 1 with a mapped region. -/
def mapped (wb : Nat) : State := (started 1).modHere fun t => { t with maps := [(0, ⟨0x200000, wb, true, 128, 0, 0⟩)] }
theorem witness_CopyEngineCommands_runs :
    (CopyRuns (started (desc xcpyL)) ⟨0, 0, 0, 300, false, [desc xcpyL], none⟩ [desc xcpyL] ∧ SignalFits (started (desc xcpyL)) h0 ∧ RowsApart 0 1 128) ∧
    (CopyRuns (started (desc xsglL)) ⟨0, 0, 0, 300, false, [desc xsglL], none⟩ [desc xsglL] ∧ (started (desc xsglL)).progress = []) ∧
    (CopyRuns (started (desc xbstL)) ⟨0, 0, 0, 300, false, [desc xbstL], none⟩ [desc xbstL] ∧ (started (desc xbstL)).here.slotOf 0 = some (3, keyOne) ∧
      fget? (started (desc xbstL)).here.keys 3 = some keyOne ∧ (started (desc xbstL)).here.tags = []) ∧
    (let w := desc [(0, 1), (400, 0x900), (368, 128), (352, 1), (148, 1)]
     let s := (at0 id).setEngq 0 2 { EngQ.reset with next := 1, cur := some ⟨0, 0, 0, 300, false, [w, 0, 0], none⟩ }
     ∃ f, CopyRuns s f (w :: 0 :: List.replicate (Xd.rows ⟨w⟩) 0) ∧ (Xd.das ⟨w⟩) = true) ∧
    (CopyRuns (started (desc [(0, 1), (152, 1)])) ⟨0, 0, 0, 300, false, [desc [(0, 1), (152, 1)]], none⟩ [desc [(0, 1), (152, 1)]] ∧ (Xd.lazy ⟨desc [(0, 1), (152, 1)]⟩) = true) ∧
    (CopyStarted (mapped 0) ⟨0, 0, 0, 300, false, [1], none⟩ [1] ∧ ∃ e, fget? (mapped 0).here.maps 0 = some e ∧ e.wb = 0) := by
  refine ⟨⟨copy_runs _, ?_, .inl (by decide)⟩, ⟨copy_runs _, rfl⟩, ⟨copy_runs _, by decide +kernel, rfl, rfl⟩, ⟨_, ⟨⟨rfl, rfl, by decide +kernel, rfl, rfl, rfl, fun _ h => nomatch h⟩, rfl, rfl, rfl⟩, by decide +kernel⟩,
    ⟨copy_runs _, by decide +kernel⟩, ⟨rfl, rfl, rfl, rfl, rfl, rfl, fun _ h => nomatch h⟩, _, rfl, rfl⟩
  simp only [SignalFits]; decide +kernel
/-- What a started copy of 128 bytes does in one part, one access, and what is left then. -/
def flight (l : List Nat) : InFlight := ⟨0, 0, 0, 300, false, l, none⟩
theorem one_row (a : Acc) (s : State) (skip : M Bool) (src dst n : Nat) (hk : Acts skip s s false) (hp : rowParts dst n = [(0, n)]) (_ : (src + n) % 8 = 0)
    (hm : (s.place a.place).maps = []) (hb : (s.place a.place).spPoison = []) :
    Does [.row skip (xeRead a true) (xeWrite a true) src dst n] s (spPut a dst ((s.place a.place).spBytes src n) s) := by
  have hr : ∀ m b, (range b m).length = m := fun m => by induction m <;> simp_all [range]
  have hl : ((s.place a.place).spBytes src n).length = n := by simp only [Place.spBytes, List.length_map, hr]
  refine ⟨false, s, _, hk, nofun, fun _ => ⟨(s.place a.place).spBytes src n, hl, ?_⟩, rfl⟩
  rw [hp]
  refine ⟨s, _, ?_, ?_, rfl⟩
  · have e : min ((s.place a.place).spBytes src n).length (0 + n + (8 - (src + (0 + n)) % 8) % 8) - 0 = n := by rw [hl]; omega
    rw [e, List.take_of_length_le (by simp [hl])]
    exact sp_read a s (src + 0) n hm hb
  · rw [List.drop_zero, List.take_of_length_le (by omega)]
    exact sp_write a s (dst + 0) _ hm
theorem no_skip (a : Acc) (s : State) (e : Sge) (h : e.ck = 0) : Acts (skipped a e) s s false := fun p => by unfold skipped; rw [if_pos h]; rfl
theorem one_act (a : Acc) (s : State) (dst : Nat) (bs : List Byte) (hm : (s.place a.place).maps = []) :
    Does [.act (xeWrite a true dst bs)] s (spPut a dst bs s) := ⟨_, sp_write a s dst bs hm, rfl⟩
theorem put_line (a : Acc) (s : State) (dst : Nat) (bs : List Byte) (h : spanLines dst bs.length = [(dst, 0, bs.length)]) (hm : (s.place a.place).maps = []) :
    Does ((xePut a true dst bs).map Job.act) s (spPut a dst bs s) := by
  have e : (xePut a true dst bs).map Job.act = [.act (xeWrite a true dst bs)] := by simp [xePut, h]
  rw [e]
  exact one_act a s dst bs hm
def fillRow (d : Xd) : List Byte := (List.range d.len).map fun b => BitVec.ofNat 8 (d.pat / 2 ^ (8 * (b % d.pw)))
theorem fill_one (d : Xd) (s : State) (f : InFlight) (row : List Byte) (hr : List.range d.rows = [0]) (hd : d.das = true) (hl : row.length = 128)
    (ho : d.dst + 0 * d.dpitch = 0x900) (hm : ((goingOn s f).place (goesOnAs s f).place).maps = []) :
    Does ((List.range d.rows).flatMap fun r => (xePut (goesOnAs s f) d.das (d.dst + r * d.dpitch) row).map .act) (goingOn s f)
      (spPut (goesOnAs s f) 0x900 row (goingOn s f)) := by
  simp only [hr, hd, ho, List.flatMap_cons, List.flatMap_nil, List.append_nil]
  exact put_line _ _ _ _ (by rw [hl]; decide) hm
theorem table_one (d : Xd) (s : State) (f : InFlight) (row : List Byte) (hr : List.range d.rows = [0]) (hd : d.das = true) (hl : row.length = 128)
    (ho : d.dst + 0 * d.dpitch = 0x900) (hm : ((goingOn s f).place (goesOnAs s f).place).maps = []) :
    Does ((([none] : List (Option Nat)).zip (List.range d.rows)).flatMap fun (_, t) => (xePut (goesOnAs s f) d.das (d.dst + t * d.dpitch) row).map .act)
      (goingOn s f) (spPut (goesOnAs s f) 0x900 row (goingOn s f)) := by
  simp only [hr, hd, ho, List.zip_cons_cons, List.zip_nil_right, List.flatMap_cons, List.flatMap_nil, List.append_nil]
  exact put_line _ _ _ _ (by rw [hl]; decide) hm
/-- Two starts of an element and a row of a page without entry, a B-store row whose key is in a slot, a filled region and one that
is written back, of which nothing is dirty. -/
@[irreducible] def elemD : Sge := ⟨desc xsglL⟩
@[irreducible] def rowD : Xd := ⟨desc xbstL⟩
@[irreducible] def tableD : Xd := ⟨desc [(0, 1), (400, 0x900), (368, 128), (352, 1), (148, 1)]⟩
@[irreducible] def mapD : Xd := ⟨desc [(0, 1), (400, 0x10000), (352, 1), (148, 1)]⟩
def backMap : MapEntry := ⟨0x200000, 1, true, 4096, 0x10000, 0⟩
def backState : State := (started mapD.w).modHere fun t => { t with maps := [(0, backMap)] }
def rowAgent : Acc := goesOnAs (started rowD.w) (flight [rowD.w])
def rowBytes : List Byte := ((goingOn (started rowD.w) (flight [rowD.w])).place rowAgent.place).spBytes 0x800 1024
def rowState : State := ((goingOn (started rowD.w) (flight [rowD.w])).bstCommit 0 1 3 5 rowBytes).getD z
theorem row_commits (s : State) (t row slot key : Nat) (bs : List Byte) (h : fget? (s.place t).tags row = none) (p : FMap (Nat × Nat)) :
    ({ s with progress := p } : State).bstCommit t row slot key bs = some { (s.bstCommit t row slot key bs).getD z with progress := p } := by
  have h' : fget? (({ s with progress := p } : State).place t).tags row = none := h
  simp only [State.bstCommit, h, h']
  rfl
theorem witness_CopyEngineCommands_others :
    (let s := started elemD.w
     let a := goesOnAs s (flight [elemD.w])
     ∃ u, Does ([elemD.w].map fun w =>
       let e : Sge := ⟨w⟩
       .row (skipped a e) (xeRead a e.sas) (xeWrite a e.das) e.src e.dst e.len) (goingOn s (flight [elemD.w])) u ∧ Ends s u h0) ∧
    (let s := started rowD.w
     let u := goingOn s (flight [rowD.w])
     rowD.len = 1024 ∧ Acts (xeRead rowAgent rowD.sas rowD.src 1024) u u rowBytes ∧ (u.place s.cur).slotOf s.here.vf = some (3, keyOne) ∧
       (∀ p, ({ u with progress := p } : State).bstCommit s.cur (rowD.dst / 1024) 3 keyOne.key rowBytes = some { rowState with progress := p }) ∧ Ends s rowState h0) ∧
    (let s := started tableD.w
     ∃ u, ([none] : List (Option Nat)).length = tableD.rows ∧ Does ((([none] : List (Option Nat)).zip (List.range tableD.rows)).flatMap fun (_, t) =>
       (xePut (goesOnAs s (flight [tableD.w])) tableD.das (tableD.dst + t * tableD.dpitch) (List.replicate tableD.len 0)).map .act)
       (goingOn s (flight [tableD.w])) u ∧ Ends s u h0) ∧
    (CopyStarted (started mapD.w) (flight [mapD.w]) [mapD.w] ∧ mapD.lazy = false ∧ List.range (mapD.len / 128) = [] ∧
      Ends (started mapD.w) (goingOn (started mapD.w) (flight [mapD.w])) h0) ∧
    (CopyStarted backState (flight [mapD.w]) [mapD.w] ∧ fget? backState.here.maps mapD.xent = some backMap ∧ backMap.wb ≠ 0 ∧ backState.here.dirtyOf backMap = [] ∧
      Ends backState (goingOn backState (flight [mapD.w])) h0) := by
  have e : elemD.sas = true ∧ elemD.das = true ∧ elemD.src = 0x800 ∧ elemD.dst = 0x900 ∧ elemD.len = 64 := by decide +kernel
  have r : rowD.sas = true ∧ rowD.src = 0x800 ∧ rowD.dst / 1024 = 1 := by decide +kernel
  have x (w : Nat) : CopyStarted (started w) (flight [w]) [w] := (copy_runs w).1
  have k : elemD.ck = 0 := by decide +kernel
  have b : CopyStarted backState (flight [mapD.w]) [mapD.w] := by simp only [CopyStarted]; decide +kernel
  simp only [List.map_cons, List.map_nil, show (⟨elemD.w⟩ : Sge) = elemD from rfl, e, r]
  refine ⟨⟨_, one_row _ _ _ 0x800 0x900 64 (no_skip _ _ _ k) (by decide) (by decide) (by decide +kernel) (by decide +kernel), ?_⟩,
    ⟨by decide +kernel, sp_read rowAgent _ 0x800 1024 (by decide +kernel) (by decide +kernel), by decide +kernel, row_commits (goingOn (started rowD.w) (flight [rowD.w])) 0 1 3 5 rowBytes (by decide +kernel), ?_⟩,
    ⟨_, by decide +kernel, table_one _ _ _ _ (by decide +kernel) (by decide +kernel) (by decide +kernel) (by decide +kernel) (by decide +kernel), ?_⟩, ⟨x _, by decide +kernel, by decide +kernel, ?_⟩,
    b, by decide +kernel, by decide, by decide +kernel, ?_⟩
  all_goals simp only [Ends, SignalFits]; decide +kernel
@[irreducible] def copyD : Xd := ⟨desc xcpyL⟩
@[irreducible] def fillD : Xd := ⟨desc xfillL⟩
theorem witness_CopyEngineCommands_jobs :
    (let s := started copyD.w
     let a := goesOnAs s (flight [copyD.w])
     ∃ u, Does ((List.range copyD.rows).map fun r => .row (pure false) (xeRead a copyD.sas) (xeWrite a copyD.das) (copyD.src + r * copyD.spitch)
       (copyD.dst + r * copyD.dpitch) copyD.len) (goingOn s (flight [copyD.w])) u ∧ Ends s u h0) ∧
    (let s := started fillD.w
     ∃ u, Does ((List.range fillD.rows).flatMap fun r => (xePut (goesOnAs s (flight [fillD.w])) fillD.das (fillD.dst + r * fillD.dpitch) (fillRow fillD)).map .act)
       (goingOn s (flight [fillD.w])) u ∧ Ends s u h0) := by
  have e : List.range copyD.rows = [0] ∧ copyD.sas = true ∧ copyD.das = true ∧ copyD.src + 0 * copyD.spitch = 0x800 ∧ copyD.dst + 0 * copyD.dpitch = 0x900 ∧
    copyD.len = 128 := by decide +kernel
  simp only [e, List.map_cons, List.map_nil]
  refine ⟨⟨_, one_row _ _ _ 0x800 0x900 128 (fun _ => rfl) (by decide) (by decide) (by decide +kernel) (by decide +kernel), ?_⟩,
    _, fill_one _ _ _ _ (by decide +kernel) (by decide +kernel) (by decide +kernel) (by decide +kernel) (by decide +kernel), ?_⟩
  all_goals simp only [Ends, SignalFits]; decide +kernel
/-- Filling a page of global memory that the tile's PMC knows, and taking its region away again. -/
def xmapL : List (Nat × Nat) := [(0, 1), (456, 0x200000), (400, 0x10000), (368, 4096), (352, 1), (153, 1), (148, 1)]
def known (s : State) : State :=
  s.modPlace 0 fun t => { t with pmc := ((left (permOk (agentOf s 2) 0x200000 4096 .w) (begun s 2 h0)).place 0).pmc }
def xmapState : State := known (withDesc 0x6000000000000000 64 xmapL)
def unmapD : Xd := ⟨1⟩
def unmapState : State := (withDesc 0x6000000000000000 64 [(0, 1)]).modHere fun t => { t with maps := [(0, backMap)] }
theorem same_desc {x : M Xd} {d : Xd} {s : State} (h : ((got x s).any (fun e => e.w == d.w) && decide (left x s = s)) = true) : x.run s = .ok d s := by
  simp only [Bool.and_eq_true, Option.any_eq_true, beq_iff_eq, decide_eq_true_eq] at h
  obtain ⟨⟨e, g, w⟩, k⟩ := h
  have : e = d := congrArg Xd.mk w
  rw [got_ok g, k, this]
theorem witness_CopyEngineCommands_regions :
    (let s := xmapState
     let d : Xd := ⟨desc xmapL⟩
     HasDesc s 2 h0 32 64 1 d.w ∧ Unrecorded s ∧
       OnlyFields d.w 512 [(511, 456), (455, 400), (399, 368), (367, 352), (158, 155), (154, 153), (152, 152), (148, 148)] ∧
       (d.das = true ∧ d.rows = 1 ∧ d.wb = 1 ∧ d.lazy = false ∧ d.dst < 2 ^ 21 ∧ 4096 ≤ d.len ∧ d.dst + d.len ≤ 0x180000 ∧ d.src % 4096 = 0 ∧ d.dst % 4096 = 0 ∧
         d.len % 4096 = 0 ∧ d.src + d.len ≤ 2 ^ 56) ∧
       Passes (permOk (agentOf s 2) d.src d.len .r) (begun s 2 h0) ∧ Passes (permOk (agentOf s 2) d.src d.len .w) (begun s 2 h0) ∧
       Passes (poisonOk (agentOf s 2) d.src d.len) (begun s 2 h0)) ∧
    (HeadReady unmapState 2 h0 ∧ Unrecorded unmapState ∧
      (readXd (agentOf unmapState 2) h0 32 (headCapOf unmapState 2)).run (begun unmapState 2 h0) = .ok unmapD (begun unmapState 2 h0) ∧
      OnlyFields unmapD.w 512 [(158, 155)] ∧ fget? unmapState.here.maps unmapD.xent = some backMap) := by
  refine ⟨⟨has_desc _ _ _ _ _ (by decide +kernel) (by decide +kernel) (by decide +kernel), ?_, only_fields _ _ _ (by decide +kernel), by decide +kernel,
      still_passes (by decide +kernel), still_passes (by decide +kernel), still_passes (by decide +kernel)⟩,
    ready _ _ _ (by decide +kernel) (by decide +kernel), ?_, same_desc (by decide +kernel), only_fields _ _ _ (by decide +kernel), by decide +kernel⟩
  all_goals simp only [Unrecorded]; decide +kernel
/-- A mapped region of one line whose first sector is dirty, with write-back at leisure, on the step's tile. -/
def lazyMapped : State := run0.modPlace 0 fun t => { t with maps := [(0, ⟨0x200000, 2, true, 128, 0, 0⟩)], mapDirty := [(0, true)] }
theorem witness_CopyEngineCommands_writeBack :
    (∃ e, (lazyMapped.place 0).mapAt (32 * 0) = some e ∧ e.wb = 2 ∧
      ∃ s1, (writeHome { lazyMapped.cmdAcc 0 2 e.seq with seq := e.seq } (e.vabase + (32 * 0 - e.spbase)) ((lazyMapped.place 0).spBytes 0 32)).run lazyMapped = .ok ⟨⟩ s1) ∧
    fget false (lazyMapped.place 0).mapDirty 0 = true ∧ (lazyMapped.place 0).step ≠ none :=
  ⟨⟨⟨0x200000, 2, true, 128, 0, 0⟩, by decide +kernel, rfl, _, got_ok (by decide +kernel)⟩, by decide +kernel, by decide +kernel⟩

/-- Two index entries, 1 and void, at 0x800; rows of 16 bytes at 0x1000 and 0x900. -/
def gL : List (Nat × Nat) := [(0, 2), (456, 0x1000), (435, 0x800), (414, 0x900), (377, 2), (345, 2), (332, 16), (327, 1)]
def gState : State := (withDesc 0x8000000000000000 64 gL).modHere fun t => t.putSp 0x800 (bytesOf 4 0xFFFF0001)
def gd : Gd := ⟨desc gL⟩
/-- Three flags, the middle one clear; a live list of two members. -/
def gcL : List (Nat × Nat) := [(0, 2), (456, 0x1000), (435, 0x800), (414, 0x900), (393, 0xA00), (377, 3), (332, 16), (327, 1)]
def gcState : State := (withDesc 0x8000000000000000 64 gcL).modHere fun t => t.putSp 0x800 (bytesOf 3 0x010001)
def glL : List (Nat × Nat) := [(0, 2), (414, 0x900), (393, 0xA00), (377, 2), (306, 4)]
theorem witness_IndexEngineCommands :
    (HasDesc gState 3 h0 32 64 2 gd.w ∧ SignalFits gState h0 ∧ gState.progress = [] ∧ gd.rsv = 0 ∧ gd.nidx ≠ 0 ∧ 1 ≤ gd.rowb ∧ gd.rowb ≤ 4096 ∧ gd.bas = true ∧ gd.ioff % gd.ib = 0 ∧
      Inside gd.ioff (gd.ib * gd.nidx) ∧ Inside gd.coff (gd.rowb * gd.nidx) ∧ indexAt gState gd 0 = 1 ∧ isVoid gd (indexAt gState gd 1) ∧
      (∀ i < gd.nidx, ¬ isVoid gd (indexAt gState gd i) → indexAt gState gd i < gd.lim ∧ Inside (rowOf gd (indexAt gState gd i)) gd.rowb ∧
        Apart gd.coff (gd.rowb * gd.nidx) (rowOf gd (indexAt gState gd i)) gd.rowb) ∧
      gd.etyp < 4 ∧ gd.rowb % 4 = 0 ∧ gd.base % 4 = 0 ∧ gd.coff % 4 = 0) ∧
    (let d : Gd := ⟨desc gcL⟩
     let live := (List.range d.nidx).filter fun i => gcState.here.spByte (d.ioff + i) ≠ 0
     HasDesc gcState 3 h0 32 64 2 d.w ∧ gcState.progress = [] ∧ live = [0, 2] ∧ d.rsv = 0 ∧ d.iw = 0 ∧ d.lim = 0 ∧ Inside d.ioff d.nidx ∧ Inside d.cntoff 8 ∧ Inside d.coff 32 ∧ d.cntoff % 8 = 0 ∧
       (∀ i ∈ live, Inside (d.base + i * d.rowb) d.rowb ∧ Apart d.coff 32 (d.base + i * d.rowb) d.rowb) ∧ Apart d.coff 32 d.ioff d.nidx ∧ Apart d.coff 32 d.cntoff 8) ∧
    (let s := withDesc 0x8000000000000000 64 glL
     let d : Gd := ⟨desc glL⟩
     HasDesc s 3 h0 32 64 2 d.w ∧ d.rsv = 0 ∧ 1 ≤ d.nidx ∧ d.nidx ≤ 256 ∧ 1 ≤ d.rpm ∧ d.rpm ≤ 16 ∧ d.nidx * d.rpm ≤ 4096 ∧ d.first + d.nidx * d.rpm ≤ 0xFFFF ∧ d.base = 0 ∧ d.ioff = 0 ∧
       d.lim = 0 ∧ d.iw = 0 ∧ d.bas = false ∧ Inside d.coff 16 ∧ Inside d.cntoff 8 ∧ d.coff % 2 = 0 ∧ d.cntoff % 8 = 0 ∧ Apart d.coff 16 d.cntoff 8) := by
  refine ⟨⟨has_desc _ _ _ _ _ (by decide +kernel) (by decide +kernel) (by decide +kernel), ?_⟩, ⟨has_desc _ _ _ _ _ (by decide +kernel) (by decide +kernel) (by decide +kernel), ?_⟩,
    has_desc _ _ _ _ _ (by decide +kernel) (by decide +kernel) (by decide +kernel), ?_⟩
  all_goals simp only [SignalFits, Inside, Apart, isVoid]
  · and_intros <;> decide +kernel
  · and_intros <;> decide +kernel
  · and_intros <;> decide +kernel
/-- A transfer of 64 bytes to tile 5 with a barrier; a signal; and descriptors that break a check. -/
def lpL : List (Nat × Nat) := [(0, 3), (192, 5 * 2 ^ 21 + 0x100), (171, 0x800), (150, 0x200), (149, 1), (88, 64)]
def lsL : List (Nat × Nat) := [(0, 3), (192, 5 * 2 ^ 21), (144, 1), (136, 7), (120, 2)]
/-- A barrier off its alignment, and a length that is no number of elements. -/
def offL : List (Nat × Nat) := [(0, 3), (192, 5 * 2 ^ 21), (150, 0x204), (149, 1), (88, 62)]
def linkState (l : List (Nat × Nat)) : State := withDesc 0xA000000000000000 32 l
theorem link_desc (l : List (Nat × Nat)) (a : isTile (linkState l).cur = true ∧ published (linkState l) 4 ≠ 0 ∧ ((linkState l).engq (linkState l).cur 4).cur = none ∧
      (linkState l).here.starts 4 = true ∧ fget? (linkState l).qresets (8 * (linkState l).cur + 4) = none ∧ (linkState l).queueBlocked (linkState l).cur 4 = false)
    (t : (linkState l).here.maps = [] ∧ (linkState l).here.spPoison = [] ∧ (linkState l).here.tb = none)
    (d : desc l = (linkState l).here.spNum 0x400 32 ∧ desc l % 16 = 3 ∧ 0x400 + 32 ≤ 0x180000) : HasDesc (linkState l) 4 h0 32 32 3 (Ld.w ⟨desc l⟩) := has_desc _ _ _ _ _ a t d
theorem witness_LinkEngineCommands :
    (let d : Ld := ⟨desc lpL⟩
     HasDesc (linkState lpL) 4 h0 32 32 3 d.w ∧ LinkReady (linkState lpL) d ∧ d.red < 5 ∧ d.len % 4 = 0 ∧ d.loff % 4 = 0 ∧ d.peer % 2 ^ 21 % 4 = 0) ∧
    (let d : Ld := ⟨desc lsL⟩
     HasDesc (linkState lsL) 4 h0 32 32 3 d.w ∧ d.rsv = 0 ∧ d.peer < 2 ^ 40 ∧ d.peer / 2 ^ 30 = (linkState lsL).pkgNum ∧ (d.scp = 1 ∨ d.scp = 2) ∧ d.cnt ≠ 0 ∧ d.loff = 0 ∧ d.len = 0 ∧
       d.bar = 0 ∧ d.bv = false ∧ d.red = 0 ∧ Drained (linkState lsL)) ∧
    (let d : Ld := ⟨desc [(0, 3), (4, 1)]⟩
     HasDesc (linkState [(0, 3), (4, 1)]) 4 h0 32 32 3 d.w ∧ SignalFits (linkState [(0, 3), (4, 1)]) h0 ∧ d.rsv ≠ 0) ∧
    (let d : Ld := ⟨desc [(0, 3), (146, 5)]⟩
     HasDesc (linkState [(0, 3), (146, 5)]) 4 h0 32 32 3 d.w ∧ d.rsv = 0 ∧ 5 ≤ d.red ∧ ¬ (d.scp = 1 ∨ d.scp = 2)) ∧
    (let d : Ld := ⟨desc [(0, 3), (192, 2 ^ 40), (144, 1), (120, 2)]⟩
     HasDesc (linkState [(0, 3), (192, 2 ^ 40), (144, 1), (120, 2)]) 4 h0 32 32 3 d.w ∧ d.rsv = 0 ∧ 2 ^ 40 ≤ d.peer ∧ d.scp = 1 ∧ d.red < 5 ∧ d.cnt ≠ 0 ∧ d.loff = 0 ∧ d.len = 0 ∧
       d.bar = 0 ∧ d.bv = false) ∧
    (let d : Ld := ⟨desc offL⟩
     HasDesc (linkState offL) 4 h0 32 32 3 d.w ∧ d.rsv = 0 ∧ d.red < 5 ∧ d.peer < 2 ^ 40 ∧ Inside d.loff d.len ∧ Inside (d.peer % 2 ^ 21) d.len ∧ Inside d.bar 8 ∧ d.bv = true ∧
       d.bar % 8 ≠ 0 ∧ d.len % 4 ≠ 0) := by
  refine ⟨⟨link_desc _ (by decide +kernel) (by decide +kernel) (by decide +kernel), ?_, by decide +kernel⟩, ⟨link_desc _ (by decide +kernel) (by decide +kernel) (by decide +kernel), ?_⟩,
    ⟨link_desc _ (by decide +kernel) (by decide +kernel) (by decide +kernel), ?_, by decide +kernel⟩,
    ⟨link_desc _ (by decide +kernel) (by decide +kernel) (by decide +kernel), by decide +kernel⟩,
    ⟨link_desc _ (by decide +kernel) (by decide +kernel) (by decide +kernel), by decide +kernel⟩,
    link_desc _ (by decide +kernel) (by decide +kernel) (by decide +kernel), ?_⟩
  all_goals simp only [SignalFits, LinkReady, Inside, Drained]; decide +kernel

/-- An object of one layer and one head of 64 BF16 elements, two sink positions, one position appended: its record, its table
of pages and its descriptors (handles 0 and 1) lie in the mapped page. -/
def kvWord : Nat := desc [(456, 0x200900), (400, 0x200A00), (352, 1), (320, 0x3F800000), (288, 0x3F800000), (215, 2), (210, 8), (202, 1), (194, 1), (190, 6), (186, 1)]
def withObject (s : State) : State :=
  { ((s.memWrite (placedPa + 0x800) (bytesOf 64 kvWord)).memWrite (placedPa + 0x840) (bytesOf 64 kvWord)).memWrite (placedPa + 0x900) (bytesOf 8 0x200001) with
    dreg := [(fnReg 0 0x1020, 0x200800), (fnReg 0 0x1028, 2)] }
def kv : Kvd := ⟨0x200800, kvWord⟩
def kvl : Kvd := ⟨0x200840, kvWord⟩
def stacked (l : List (Nat × Nat)) : State := withObject (withDesc 0xC000000000000000 64 l)
def seAgent : Acc := ⟨0, 0, 0, 1, some 5, 0⟩
theorem stack_desc (l : List (Nat × Nat)) (a : isTile (stacked l).cur = true ∧ published (stacked l) 5 ≠ 0 ∧ ((stacked l).engq (stacked l).cur 5).cur = none ∧
      (stacked l).here.starts 5 = true ∧ fget? (stacked l).qresets (8 * (stacked l).cur + 5) = none ∧ (stacked l).queueBlocked (stacked l).cur 5 = false) (t : (stacked l).here.maps = [] ∧ (stacked l).here.spPoison = [] ∧ (stacked l).here.tb = none)
    (d : desc l = (stacked l).here.spNum 0x400 64 ∧ desc l % 16 = 4 ∧ 0x400 + 64 ≤ 0x180000) : HasDesc (stacked l) 5 h0 32 64 4 (Sd.w ⟨desc l⟩) := has_desc _ _ _ _ _ a t d
/-- A run that answers `a`, the state that it leaves going on to the next check: one evaluation of a chain of accesses. -/
def chain {α : Type} [DecidableEq α] (x : M α) (a : α) (s : State) (k : State → Bool) : Bool := match x.run s with
  | .ok b t => decide (b = a) && k t
  | .error _ _ => false
theorem chain_ok {α : Type} [DecidableEq α] {x : M α} {a : α} {s : State} {k : State → Bool} (h : chain x a s k = true) : x.run s = .ok a (left x s) ∧ k (left x s) = true := by
  cases e : x.run s with
  | ok b t =>
    have w : b = a ∧ k t = true := by simpa [chain, e] using h
    rw [left, e, w.1]
    exact ⟨rfl, w.2⟩
  | error _ _ => simp [chain, e] at h
/-- The checks of `Calm` against the commands of `sc` in scratchpad, which the accesses leave as data. -/
def calmB (s u : State) (q : Nat) : Bool :=
  decide (u.cur = s.cur ∧ agentOf u q = agentOf s q ∧ u.here.maps = [] ∧ u.here.spPoison = [] ∧ u.here.tb = none ∧ u.here.met = none ∧ semSignalled u h0 h0.ssem ≤ 65535 ∧
    (∀ w ∈ u.held, ∀ e ∈ w.prov, e.2.queue ≠ some q) ∧ u.here.sp = s.here.sp ∧ u.here.spEpoch = s.here.spEpoch)
theorem calm_of {s u : State} {q : Nat} (h : calmB s u q = true) : Calm s u q h0 := by
  have same : u.here.sp = s.here.sp ∧ u.here.spEpoch = s.here.spEpoch → ∀ k, u.here.spByte k = s.here.spByte k := fun e k => by
    simp only [Place.spByte, e.1, e.2]
  have h := of_decide_eq_true h
  exact h.imp_right (.imp_right (.imp_right (.imp_right (.imp_right (.imp_right (.imp_right (.imp_right same)))))))
/-- Looking up the split of a page changes nothing. -/
theorem split_off {a : Acc} {va : Nat} {s : State} {b : Bool} (h : chain (splitOff a va) b s (fun _ => true) = true) : (splitOff a va).run s = .ok b s := by
  obtain ⟨e, -⟩ := chain_ok h
  have : ∀ c t, (splitOff a va).run s = .ok c t → t = s := by
    intro c t e
    simp only [splitOff, bind, EStateM.bind, get, getThe, MonadStateOf.get, EStateM.get, EStateM.run] at e
    revert e
    generalize List.find? _ _ = f1
    cases f1 with
    | some x => intro e; cases e
    | none =>
      generalize List.find? _ _ = f2
      cases f2 with
      | some x => intro e; cases e
      | none => intro e; cases e; rfl
  rw [this _ _ e] at e
  exact e
def saL : List (Nat × Nat) := [(0, 4), (347, 0x800), (326, 0x900), (305, 0xF00), (289, 1), (269, 1), (260, 0x100)]
def sa0 : State := stacked saL
def sa1 : State := left (readKvd seAgent 0) (begun sa0 5 h0)
def sa2 : State := left (readBtes seAgent kv 0 [0]) sa1
def sa3 : State := left (recordsPerm seAgent kv 0 [0] [(0, some 0x200000)] .r) sa2
def sa4 : State := left (readRecord seAgent kv 0 0 (some 0x200000)) sa3
theorem attention_runs : chain (readKvd seAgent 0) (some kv) (begun sa0 5 h0) (fun t =>
    chain (readBtes seAgent kv 0 [0]) [(0, some 0x200000)] t fun t => chain (splitOff seAgent 0x200000) false t (fun _ => true) &&
      chain (recordsPerm seAgent kv 0 [0] [(0, some 0x200000)] .r) ⟨⟩ t fun t => calmB sa0 t 5 && still (recordsOk seAgent kv 0 [0] [(0, some 0x200000)]) t &&
        chain (readRecord seAgent kv 0 0 (some 0x200000)) (some 0) t fun u => calmB sa0 u 5) = true := by decide +kernel
theorem witness_StackEngineCommands_attention :
    (let d : Sd := ⟨desc saL⟩
     HasDesc sa0 5 h0 32 64 4 d.w ∧ agentOf sa0 5 = seAgent ∧ d.memb = 0x100 ∧ d.nq = 1 ∧ d.maxu ≠ 0 ∧ d.qoff % 4 = 0 ∧ d.ooff % 4 = 0 ∧ d.cntoff % 8 = 0 ∧ d.lim ≤ 1 ∧
       OnlyFields d.w 512 [(511, 480), (367, 347), (346, 326), (325, 305), (304, 289), (288, 281), (280, 274), (273, 269), (268, 260), (259, 259)] ∧
       Inside d.cntoff 8 ∧ Inside d.qoff (4 * kv.dim) ∧ Inside d.ooff (32 + 4 * kv.dim) ∧ Apart d.cntoff 8 d.ooff (32 + 4 * kv.dim) ∧
       d.layer < kv.layers ∧ d.kvhead < kv.heads ∧ kv.npos = 1) ∧
    (readKvd seAgent 0).run (begun sa0 5 h0) = .ok (some kv) sa1 ∧
    (readBtes seAgent kv 0 [(kv.locate 0 0).page]).run sa1 = .ok [((kv.locate 0 0).page, some 0x200000)] sa2 ∧ (splitOff seAgent 0x200000).run sa2 = .ok false sa2 ∧
    (recordsPerm seAgent kv 0 [0] [((kv.locate 0 0).page, some 0x200000)] .r).run sa2 = .ok ⟨⟩ sa3 ∧
    Passes (recordsOk seAgent kv 0 [0] [((kv.locate 0 0).page, some 0x200000)]) sa3 ∧
    (∃ r, (readRecord seAgent kv 0 0 (some 0x200000)).run sa3 = .ok (some r) sa4) ∧ Calm sa0 sa3 5 h0 ∧ Calm sa0 sa4 5 h0 := by
  obtain ⟨e1, k⟩ := chain_ok attention_runs
  obtain ⟨e2, k⟩ := chain_ok k
  simp only [Bool.and_eq_true] at k
  obtain ⟨e3, l⟩ := chain_ok k.2
  simp only [Bool.and_eq_true] at l
  obtain ⟨e4, k4⟩ := chain_ok l.2
  refine ⟨⟨stack_desc _ (by decide +kernel) (by decide +kernel) (by decide +kernel), by decide +kernel, ?_⟩, e1, e2, split_off k.1, e3,
    still_passes l.1.2, ⟨0, e4⟩, calm_of l.1.1, calm_of k4⟩
  refine ⟨?_, ?_, ?_, ?_, ?_, ?_, ?_, only_fields _ _ _ (by decide +kernel), ?_⟩
  all_goals (try simp only [Inside, Apart]); decide +kernel
def skL : List (Nat × Nat) := [(0, 4), (368, 1), (347, 0x800), (260, 0x100)]
def sk0 : State := stacked skL
def sk1 : State := left (readKvd seAgent 0) (begun sk0 5 h0)
def sk2 : State := left (readBtes seAgent kv 0 [0]) sk1
def sk3 : State := left (recordsPerm seAgent kv 0 [1] [(0, some 0x200000)] .w) sk2
def skBytes : List Byte := (List.range 128).flatMap fun i => kv.stored (sk0.here.spNum (0x800 + 4 * i) 4) (if i < 64 then kv.kscale else kv.vscale)
def skPlan : List RootOp := [.put (0x200000 + kv.recOff (kv.locate 1 0)) skBytes, .npos kv.va 2]
def sk4 : State := left (rootWrites seAgent (skPlan.flatMap RootOp.code)) (underWay sk0 sk3 skPlan)
theorem append_runs : chain (readKvd seAgent 0) (some kv) (begun sk0 5 h0) (fun t => chain (readBtes seAgent kv 0 [0]) [(0, some 0x200000)] t fun t =>
    chain (recordsPerm seAgent kv 0 [1] [(0, some 0x200000)] .w) ⟨⟩ t fun t => calmB sk0 t 5 &&
      chain (rootWrites seAgent (skPlan.flatMap RootOp.code)) ⟨⟩ (underWay sk0 t skPlan) fun t => calmB sk0 t 5) = true := by decide +kernel
theorem witness_StackEngineCommands_append :
    (let d : Sd := ⟨desc skL⟩
     HasDesc sk0 5 h0 32 64 4 d.w ∧ agentOf sk0 5 = seAgent ∧ d.memb = 0x100 ∧ d.n = 1 ∧ d.qoff % 4 = 0 ∧
       OnlyFields d.w 512 [(511, 480), (399, 368), (367, 347), (288, 281), (268, 260)] ∧ Inside d.qoff 512 ∧ d.layer < kv.layers ∧ kv.npos + 1 ≤ kv.sink + kv.ring * (2 ^ 32 - 1) ∧
       kv.npos < kv.sink ∧ (kv.locate 1 0).gen = none ∧ d.layer + 1 = kv.layers) ∧
    (readKvd seAgent 0).run (begun sk0 5 h0) = .ok (some kv) sk1 ∧
    (readBtes seAgent kv 0 [(kv.locate 1 0).page]).run sk1 = .ok [((kv.locate 1 0).page, some 0x200000)] sk2 ∧
    (recordsPerm seAgent kv 0 [1] [((kv.locate 1 0).page, some 0x200000)] .w).run sk2 = .ok ⟨⟩ sk3 ∧
    RootWrites sk0 sk3 sk4 skPlan ∧ Calm sk0 sk3 5 h0 ∧ Calm sk0 sk4 5 h0 := by
  obtain ⟨e1, k⟩ := chain_ok append_runs
  obtain ⟨e2, k⟩ := chain_ok k
  obtain ⟨p, k⟩ := chain_ok k
  simp only [Bool.and_eq_true] at k
  obtain ⟨e3, k3⟩ := chain_ok k.2
  refine ⟨⟨stack_desc _ (by decide +kernel) (by decide +kernel) (by decide +kernel), by decide +kernel, ?_⟩, e1, e2, p, e3, calm_of k.1, calm_of k3⟩
  refine ⟨?_, ?_, ?_, only_fields _ _ _ (by decide +kernel), ?_⟩
  all_goals (try simp only [Inside]); decide +kernel
def scL : List (Nat × Nat) := [(0, 4), (368, 1), (347, 0x800), (326, 0x900), (269, 1), (260, 0x100)]
def sc0 : State := stacked scL
def sc1 : State := left (readKvd seAgent 0) (begun sc0 5 h0)
def sc2 : State := left (readBtes seAgent kv 0 [0]) sc1
def sc3 : State := left (recordsPerm seAgent kv 0 [0] [(0, some 0x200000)] .r) sc2
def sc4 : State := left (readRecord seAgent kv 0 0 (some 0x200000)) sc3
theorem score_runs : chain (readKvd seAgent 0) (some kv) (begun sc0 5 h0) (fun t =>
    chain (readBtes seAgent kv 0 [0]) [(0, some 0x200000)] t fun t => chain (recordsPerm seAgent kv 0 [0] [(0, some 0x200000)] .r) ⟨⟩ t fun t =>
      still (recordsOk seAgent kv 0 [0] [(0, some 0x200000)]) t && calmB sc0 t 5 && chain (readRecord seAgent kv 0 0 (some 0x200000)) (some 0) t fun u => calmB sc0 u 5) = true := by
  decide +kernel
theorem witness_StackEngineCommands_score :
    (let d : Sd := ⟨desc scL⟩
     HasDesc sc0 5 h0 32 64 4 d.w ∧ agentOf sc0 5 = seAgent ∧ d.memb = 0x100 ∧ d.nq = 1 ∧ d.n = 1 ∧ d.qoff % 4 = 0 ∧ d.ooff % 4 = 0 ∧
       OnlyFields d.w 512 [(511, 480), (447, 400), (399, 368), (367, 347), (346, 326), (288, 281), (280, 274), (273, 269), (268, 260)] ∧
       Inside d.ooff 4 ∧ Inside d.qoff (4 * kv.dim) ∧ d.layer < kv.layers ∧ d.kvhead < kv.heads ∧ (kv.readRange kv.npos).contains d.p0 = true) ∧
    (readKvd seAgent 0).run (begun sc0 5 h0) = .ok (some kv) sc1 ∧
    (readBtes seAgent kv 0 [(kv.locate 0 0).page]).run sc1 = .ok [((kv.locate 0 0).page, some 0x200000)] sc2 ∧
    (recordsPerm seAgent kv 0 [0] [((kv.locate 0 0).page, some 0x200000)] .r).run sc2 = .ok ⟨⟩ sc3 ∧
    Passes (recordsOk seAgent kv 0 [0] [((kv.locate 0 0).page, some 0x200000)]) sc3 ∧
    (∃ r, (readRecord seAgent kv 0 0 (some 0x200000)).run sc3 = .ok (some r) sc4) ∧ Calm sc0 sc3 5 h0 ∧ Calm sc0 sc4 5 h0 := by
  obtain ⟨e1, k⟩ := chain_ok score_runs
  obtain ⟨e2, k⟩ := chain_ok k
  obtain ⟨e3, k⟩ := chain_ok k
  simp only [Bool.and_eq_true] at k
  obtain ⟨e4, k4⟩ := chain_ok k.2
  refine ⟨⟨stack_desc _ (by decide +kernel) (by decide +kernel) (by decide +kernel), by decide +kernel, ?_⟩, e1, e2, e3,
    still_passes k.1.1, ⟨0, e4⟩, calm_of k.1.2, calm_of k4⟩
  refine ⟨?_, ?_, ?_, ?_, ?_, only_fields _ _ _ (by decide +kernel), ?_⟩
  all_goals (try simp only [Inside]); decide +kernel
def cpL : List (Nat × Nat) := [(0, 4), (448, 1), (368, 1), (260, 0x100)]
def cp0 : State := stacked cpL
def cp1 : State := left (readKvd seAgent 0) (begun cp0 5 h0)
def cp2 : State := left (readKvd seAgent 1) cp1
def cp3 : State := left (readBtes seAgent kv 0 [0]) cp2
def cp4 : State := left (readBtes seAgent kvl 0 [0]) cp3
def cp5 : State := left (recordsPerm seAgent kv 0 [0] [(0, some 0x200000)] .r) cp4
def cp6 : State := left (recordsPerm seAgent kvl 0 [0] [(0, some 0x200000)] .w) cp5
def cp7 : State := left (readRecord seAgent kv 0 0 (some 0x200000)) cp6
def cpPlan : List RootOp := [.put (0x200000 + kvl.recOff (kvl.locate 0 0)) (bytesOf kv.rb 0), .raise kvl.va 1]
def cp8 : State := left (rootWrites seAgent (cpPlan.flatMap RootOp.code)) (underWay cp0 cp7 cpPlan)
theorem copy_accesses : chain (readKvd seAgent 0) (some kv) (begun cp0 5 h0) (fun t => chain (readKvd seAgent 1) (some kvl) t fun t =>
    chain (readBtes seAgent kv 0 [0]) [(0, some 0x200000)] t fun t => chain (readBtes seAgent kvl 0 [0]) [(0, some 0x200000)] t fun t =>
      chain (recordsPerm seAgent kv 0 [0] [(0, some 0x200000)] .r) ⟨⟩ t fun t => chain (recordsPerm seAgent kvl 0 [0] [(0, some 0x200000)] .w) ⟨⟩ t fun t =>
        calmB cp0 t 5 && still (recordsOk seAgent kv 0 [0] [(0, some 0x200000)]) t && chain (readRecord seAgent kv 0 0 (some 0x200000)) (some 0) t fun t => calmB cp0 t 5 &&
          chain (rootWrites seAgent (cpPlan.flatMap RootOp.code)) ⟨⟩ (underWay cp0 t cpPlan) fun t => calmB cp0 t 5) = true := by decide +kernel
theorem witness_StackEngineCommands_copy :
    (let d : Sd := ⟨desc cpL⟩
     HasDesc cp0 5 h0 32 64 4 d.w ∧ agentOf cp0 5 = seAgent ∧ d.memb = 0x100 ∧ d.n = 1 ∧
       OnlyFields d.w 512 [(511, 480), (479, 448), (447, 400), (399, 368), (268, 260)] ∧ d.handle2 = 1 ∧ kv.agrees kvl = true ∧ d.p0 + 1 ≤ kv.npos ∧ kv.layers = 1 ∧
       (kvl.locate 0 0).gen = none) ∧
    (readKvd seAgent 0).run (begun cp0 5 h0) = .ok (some kv) cp1 ∧ (readKvd seAgent 1).run cp1 = .ok (some kvl) cp2 ∧
    (readBtes seAgent kv 0 [(kv.locate 0 0).page]).run cp2 = .ok [((kv.locate 0 0).page, some 0x200000)] cp3 ∧
    (readBtes seAgent kvl 0 [(kv.locate 0 0).page]).run cp3 = .ok [((kv.locate 0 0).page, some 0x200000)] cp4 ∧
    (recordsPerm seAgent kv 0 [0] [((kv.locate 0 0).page, some 0x200000)] .r).run cp4 = .ok ⟨⟩ cp5 ∧
    (recordsPerm seAgent kvl 0 [0] [((kv.locate 0 0).page, some 0x200000)] .w).run cp5 = .ok ⟨⟩ cp6 ∧
    Passes (recordsOk seAgent kv 0 [0] [((kv.locate 0 0).page, some 0x200000)]) cp6 ∧
    (readRecord seAgent kv 0 0 (some 0x200000)).run cp6 = .ok (some 0) cp7 ∧ RootWrites cp0 cp7 cp8 cpPlan ∧
    Calm cp0 cp6 5 h0 ∧ Calm cp0 cp7 5 h0 ∧ Calm cp0 cp8 5 h0 := by
  obtain ⟨e1, k⟩ := chain_ok copy_accesses
  obtain ⟨e2, k⟩ := chain_ok k
  obtain ⟨e3, k⟩ := chain_ok k
  obtain ⟨e4, k⟩ := chain_ok k
  obtain ⟨e5, k⟩ := chain_ok k
  obtain ⟨p, k⟩ := chain_ok k
  simp only [Bool.and_eq_true] at k
  obtain ⟨e6, l⟩ := chain_ok k.2
  simp only [Bool.and_eq_true] at l
  obtain ⟨e7, m⟩ := chain_ok l.2
  exact ⟨⟨stack_desc _ (by decide +kernel) (by decide +kernel) (by decide +kernel), by decide +kernel, by decide +kernel, by decide +kernel, only_fields _ _ _ (by decide +kernel), by decide +kernel⟩,
    e1, e2, e3, e4, e5, p, still_passes k.1.2, e6, e7, calm_of k.1.1, calm_of l.1, calm_of m⟩
def spL : List (Nat × Nat) := [(0, 4), (368, 1), (326, 0x900)]
def sp0 : State := stacked spL
def sp1 : State := left (readKvd seAgent 0) (begun sp0 5 h0)
def sp2 : State := left (permOk seAgent 0x200900 8 .r) sp1
def sp3 : State := left (readBte seAgent 0x200900) sp2
def spByteRead : Nat := probeByte ((List.range 8).filterMap fun j => (sp3.granAt seAgent.asid (0x200000 + 8192 * j)).map (·.2))
theorem probe_runs : chain (readKvd seAgent 0) (some kv) (begun sp0 5 h0) (fun t => chain (permOk seAgent 0x200900 8 .r) ⟨⟩ t fun t =>
    chain (readBte seAgent 0x200900) 0x200001 t fun u => calmB sp0 u 5) = true := by decide +kernel
theorem witness_StackEngineCommands_probe :
    (let d : Sd := ⟨desc spL⟩
     HasDesc sp0 5 h0 32 64 4 d.w ∧ agentOf sp0 5 = seAgent ∧ 1 ≤ d.n ∧ d.n ≤ 65536 ∧ d.ooff % 4 = 0 ∧ Inside d.ooff d.n ∧
       OnlyFields d.w 512 [(511, 480), (447, 400), (399, 368), (346, 326), (288, 281)] ∧ d.layer < kv.layers ∧ d.p0 + d.n ≤ kv.ppl ∧ kv.bte d.layer d.p0 = 0x200900) ∧
    (readKvd seAgent 0).run (begun sp0 5 h0) = .ok (some kv) sp1 ∧ (permOk seAgent 0x200900 8 .r).run sp1 = .ok ⟨⟩ sp2 ∧ ProbeReads seAgent kv 0 [0] [spByteRead] sp2 sp3 ∧ Calm sp0 sp3 5 h0 := by
  obtain ⟨e1, k⟩ := chain_ok probe_runs
  obtain ⟨e2, k⟩ := chain_ok k
  obtain ⟨e3, k⟩ := chain_ok k
  refine ⟨⟨stack_desc _ (by decide +kernel) (by decide +kernel) (by decide +kernel), by decide +kernel, by decide +kernel, (by decide +kernel), by decide +kernel, ?_, only_fields _ _ _ (by decide +kernel), by decide +kernel⟩,
    e1, e2, ⟨_, _, e3, by decide +kernel, rfl⟩, calm_of k⟩
  simp only [Inside]; decide +kernel
/-- XBTAB of a page of the table that has no entry yet. -/
def xtL : List (Nat × Nat) := [(0, 1), (400, 0x900), (368, 128), (352, 1), (176, 1), (159, 0x100), (148, 1)]
def ceAgent : Acc := { seAgent with queue := some 2 }
def xt0 : State := withObject (withDesc 0x6000000000000000 64 xtL)
def xt2 : State := left (readKvd ceAgent 0) (begun xt0 2 h0)
def xt3 : State := left (readPages ceAgent kv 0 1 1) xt2
theorem table_runs : chain (readKvd ceAgent 0) (some kv) (begun xt0 2 h0) (fun t => chain (readPages ceAgent kv 0 1 1) [none] t fun t =>
    decide (t.cur = xt0.cur) && decide (t.tick = xt0.tick) && decide (t.here.asid = xt0.here.asid) && (t.recSlotsOf t.here.ctx).isEmpty && !t.here.recWait) = true := by decide +kernel
theorem witness_CopyEngineCommands_tableStarts :
    (let d : Xd := ⟨desc xtL⟩
     HasDesc xt0 2 h0 32 64 1 d.w ∧ agentOf xt0 2 = ceAgent ∧ Unrecorded xt3 ∧ d.das = true ∧ d.rows ≠ 0 ∧ d.memb = 0x100 ∧ d.dst < 2 ^ 21 ∧ d.spitch + d.len ≤ 65536 ∧
       (∀ y ∈ rowRanges d.dst d.dpitch d.rows d.len, Inside y.1 y.2) ∧
       OnlyFields d.w 512 [(455, 400), (399, 368), (367, 352), (351, 320), (319, 288), (223, 192), (191, 176), (175, 168), (167, 159), (148, 148)] ∧
       d.layer < kv.layers ∧ d.first + d.rows ≤ kv.ppl) ∧
    (readKvd ceAgent 0).run (begun xt0 2 h0) = .ok (some kv) xt2 ∧ (readPages ceAgent kv 0 1 1).run xt2 = .ok [none] xt3 ∧ xt3.cur = xt0.cur ∧ xt3.tick = xt0.tick ∧ xt3.here.asid = xt0.here.asid := by
  obtain ⟨e1, k⟩ := chain_ok table_runs
  obtain ⟨e2, k⟩ := chain_ok k
  simp only [Bool.and_eq_true, decide_eq_true_eq, List.isEmpty_iff, Bool.not_eq_true'] at k
  refine ⟨⟨has_desc _ _ _ _ _ (by decide +kernel) (by decide +kernel) (by decide +kernel), by decide +kernel, ⟨k.1.2, k.2⟩, by decide +kernel, by decide +kernel, (by decide +kernel), by decide +kernel,
    by decide +kernel, ?_, only_fields _ _ _ (by decide +kernel), by decide +kernel⟩, e1, e2, k.1.1.1.1, k.1.1.1.2, k.1.1.2⟩
  simp only [Inside]; decide +kernel
-- ## Witnesses: events of the memory system

/-- The page of log 14, paged; a request in the head slot, at PA 0x300000, of the map ring of an MTU. -/
def paged : State := z.withTables.withRegion
def request (l : List (Nat × Nat)) : MapReq := ⟨desc l⟩
def asked (s : State) (g len w : Nat) : State :=
  (((s.memWrite 0x300000 (bytesOf len w)).setReg g 0x300000).setReg (g + 8) 4).setReg (g + 0x10) 1
def mapAsked (s : State) (r : MapReq) : State := asked s (mapGroup 0) 32 r.w
/-- A frame of the second tier; leaves with R, W, X and A, and with R only. -/
def farFrame : Nat := 0x100000200000
def leaf (f : Nat) : Nat := 15 * 2 ^ 52 + f + 3
def leafR (f : Nat) : Nat := 2 ^ 52 + f + 3
def badR : MapReq := request [(192, leaf farFrame), (136, 0x400008)]
def mixR : MapReq := request [(192, leafR farFrame), (136, 0x202000)]
def hbmR : MapReq := request [(192, leaf 0x400000), (136, 0x400000)]
def farR : MapReq := request [(192, leaf farFrame), (136, 0x400000)]
def unmapR (op : Nat) : MapReq := request [(136, 0x200000), (108, op)]
def protR : MapReq := request [(192, leafR placedPa), (136, 0x200000), (108, 3)]
/-- No granule of the mapped page's state, nor the request's frame, is of the third tier. -/
theorem noT3_of {s : State} {r : MapReq} (h : (s.pgd.all fun e => e.2.tier != 3) = true) (h' : tierOf r.frame ≠ 3) : NoT3 s r :=
  ⟨fun e he => by simpa using List.all_eq_true.1 h e he, h'⟩
theorem witness_MapRequestsComplete_refused :
    HeadRequest (mapAsked paged badR) (mapGroup 0) 32 0x300000 badR.w ∧ mapRefused (mapAsked paged badR) badR = some 5 ∧ (mapAsked paged badR).frameBusy badR = false ∧
      ∀ e ∈ (mapAsked paged badR).pgd, e.2.tier ≠ 3 := by
  simp only [HeadRequest, mapRefused]; decide +kernel
/-- The synonym: MTU 8 already maps the frame. -/
def synS : State := mapAsked (paged.modMtu 8 fun m => { m with rmap := [(farFrame / 8192, 7, false, 0)] }) farR
/-- No region of the request is mapped yet, whoever's pages they are. -/
def freshReg (s : State) (r : MapReq) : Bool := r.regions.all fun v =>
  (fget? s.regions (regionCode (some r.asid) v)).isNone && (fget? s.regions (regionCode (pageTag r) v)).isNone && !s.mapsGlobal r.asid v
theorem fits_of {s : State} {r : MapReq} (h : freshReg s r = true) : ∀ v ∈ r.regions,
    (pageTag r = none → fget? s.regions (regionCode (some r.asid) v) = none) ∧ (pageTag r ≠ none → s.mapsGlobal r.asid v = false) ∧
      ∀ x, fget? s.regions (regionCode (pageTag r) v) = some x → x.perm.list = ptePerms r.pte ∧ (r.absent = false → x.perm.dev = inDev r.frame) := by
  intro v hv
  have := List.all_eq_true.1 h v hv
  simp only [Bool.and_eq_true, Option.isNone_iff_eq_none, Bool.not_eq_true'] at this
  exact ⟨fun _ => this.1.1, fun _ => this.2, fun x e => absurd e (by simp [this.1.2])⟩
theorem witness_MapRequestsComplete_conflicts :
    (HeadRequest (mapAsked paged mixR) (mapGroup 0) 32 0x300000 mixR.w ∧ mixR.op = 0 ∧ mapRefused (mapAsked paged mixR) mixR = none ∧ (mapAsked paged mixR).frameBusy mixR = false ∧
      (∀ e ∈ (mapAsked paged mixR).pgd, e.2.tier ≠ 3) ∧ mixes (mapAsked paged mixR) mixR) ∧
    (HeadRequest (mapAsked paged hbmR) (mapGroup 0) 32 0x300000 hbmR.w ∧ hbmR.op = 0 ∧ mapRefused (mapAsked paged hbmR) hbmR = none ∧ (mapAsked paged hbmR).frameBusy hbmR = false ∧
      (∀ e ∈ (mapAsked paged hbmR).pgd, e.2.tier ≠ 3) ∧ freshReg (mapAsked paged hbmR) hbmR = true ∧
      hbmR.absent = false ∧ (mapAsked paged hbmR).misplaced hbmR (bits ((mapAsked paged hbmR).asd hbmR.asid) 70 64) (pageTag hbmR) = true) ∧
    (HeadRequest synS (mapGroup 0) 32 0x300000 farR.w ∧ farR.op = 0 ∧ mapRefused synS farR = none ∧ synS.frameBusy farR = false ∧
      (∀ e ∈ synS.pgd, e.2.tier ≠ 3) ∧ freshReg synS farR = true ∧ farR.absent = false ∧
      synS.misplaced farR (bits (synS.asd farR.asid) 70 64) (pageTag farR) = false ∧ synS.synonym farR = true) := by
  refine ⟨⟨?_, by decide +kernel, ?_, by decide +kernel, by decide +kernel, 0x202000, by decide +kernel, .inl ⟨(fget? (mapAsked paged mixR).regions (regionCode (some 0) 0x202000)).get (by decide +kernel), by decide +kernel, by decide +kernel⟩⟩, ?_, ?_⟩ <;>
    simp only [HeadRequest, mapRefused] <;> decide +kernel
theorem witness_MapRequestsComplete_done :
    (let s := mapAsked paged farR
     PageRequest s 0 0x300000 farR 0xB000 0 ∧ (∀ e ∈ s.pgd, e.2.tier ≠ 3) ∧ tierOf farR.frame ≠ 3 ∧ farR.op = 0 ∧ s.frameBusy farR = false ∧ (0 : Nat).testBit 0 = false ∧ 0x300000 / 8192 ≠ farR.frame / 8192 ∧
       s.misplaced farR (bits (s.asd farR.asid) 70 64) (pageTag farR) = false ∧ s.synonym farR = false ∧ fget? s.regions (regionCode (pageTag farR) farR.va) = none ∧
       pageTag farR = some farR.asid ∧ s.mapsGlobal farR.asid farR.va = false ∧ farR.absent = false ∧ inDev farR.frame = false ∧ s.gran (pageTag farR) farR.va = none) ∧
    (∀ op, op = 1 ∨ op = 2 →
      let s := mapAsked paged (unmapR op)
      PageRequest s 0 0x300000 (unmapR op) 0xA800 (leaf placedPa) ∧ (unmapR op).op = op ∧ leaf placedPa % 4 = 3 ∧ (leaf placedPa).testBit 56 = false ∧
        s.inWindow (some (unmapR op).asid) (unmapR op) = false ∧ (fget? s.regions (regionCode (some (unmapR op).asid) (unmapR op).va)).isSome ∧ ptePst (leaf placedPa) ≠ 2) ∧
    (let s := mapAsked paged protR
     PageRequest s 0 0x300000 protR 0xA800 (leaf placedPa) ∧ (∀ e ∈ s.pgd, e.2.tier ≠ 3) ∧ tierOf protR.frame ≠ 3 ∧ protR.op = 3 ∧ s.frameBusy protR = false ∧ protR.pte.testBit 56 = false ∧ protR.absent = false ∧
       protR.frame = pteFrame (leaf placedPa) ∧ ptePst (leaf placedPa) ≠ 2 ∧ (fget? s.regions (regionCode (some protR.asid) protR.va)).any (fun x => x.perm.dev == inDev protR.frame) = true ∧
       0x300000 / 8192 ≠ protR.frame / 8192 ∧ (s.gran (some protR.asid) protR.va).isSome) := by
  simp only [PageRequest, HeadRequest, Apart]
  refine ⟨by decide +kernel, ?_, by decide +kernel⟩
  rintro op (rfl | rfl) <;> decide +kernel

/-- The line of the page's first bytes; its home line, clean and dirty. -/
def line0 : LineKey := ⟨some 0, 0x4000⟩
def prov0 : Prov := ⟨1, none, 0, 15, 0, 0, 0, []⟩
def homeL (dirty : Nat) : HomeLine := ⟨line0, 0, some placedPa, 7, 15, dirty, [], 0, false, false, false⟩
def homed (dirty : Nat) (s : State) : State := s.setHome (homeL dirty)
/-- The page is absent by its leaf, and the function may hold writes. -/
def absentNow (s : State) : State := (s.memWrite 0xA800 (bytesOf 8 (leaf placedPa + 2 * 2 ^ 58))).setReg (pkgReg 0x3000) 1 |>.setReg (pkgReg 0x3010) (1 <<< 20)
def heldW : Held := ⟨0, line0, 255, 9, 1, [(0, prov0)], 0, 1, 2, 1, 0, false, false⟩
theorem witness_FillsWriteBacksAndHeldWrites :
    (fget? (paged.place 0).pmc (regionCode (some (paged.place 0).asid) placedVa) = none ∧ fget? (paged.place 0).pmc (regionCode none placedVa) = none ∧
      (paged.region (some (paged.place 0).asid) placedVa).isSome ∧ placedVa < 2 ^ 56) ∧
    ((paged.mtu 0).cached 0 placedVa = none ∧ (∀ n < 5, fget? (paged.mtu 0).upper (upperKey 0 n placedVa) = none) ∧ paged.walkPage 0 placedVa = .leaf (leaf placedPa) 0) ∧
    (paged.heldOf line0 = none ∧ paged.homeLine line0 = none ∧ paged.regionOf line0 ≠ none ∧ (paged.verdict (paged.asidFor line0) line0).2 = .ok placedPa (leaf placedPa) ∧
      paged.homeDie line0 ∉ paged.gated ∧ (paged.verdict (paged.asidFor line0) line0).1.hostAsk line0 placedPa false false = none ∧
      ((paged.verdict (paged.asidFor line0) line0).1.openWay line0).isSome) ∧
    ((homed 1 paged).homeLine line0 = some (homeL 1) ∧ (homed 1 paged).heldOf line0 = none ∧ ((homed 1 paged).verdict 0 line0).2 = .ok placedPa (leaf placedPa) ∧
      (leaf placedPa).testBit 53 = true) ∧
    (let s := absentNow (homed 1 paged)
     s.homeLine line0 = some (homeL 1) ∧ s.heldOf line0 = none ∧ (s.verdict 0 line0).2 = .away 2 (leaf placedPa + 2 * 2 ^ 58) ∧ (s.verdict 0 line0).1.holdRoom ((s.verdict 0 line0).1.homeDie line0) 0 ≠ none ∧ s.lineBusy line0 = false ∧ (s.dir line0).own = none) ∧
    HeldFor (.away 2 (leaf placedPa + 2 * 2 ^ 58)) 0 1 2 ∧
    (let s : State := { paged with held := [heldW] }
     s.walkPage (s.asidFor line0) line0.va = .leaf (leaf placedPa) 0 ∧ ptePst (leaf placedPa) = 0 ∧ (s.gran line0.asid line0.va).all (fun p => p.st == 0) = true ∧
       s.populated (paOf (leaf placedPa) 0 line0.va) = true ∧ s.targetFails (paOf (leaf placedPa) 0 line0.va) = false ∧ (leaf placedPa).testBit 53 = true ∧ heldW.poisoned = false ∧ traceOff s heldW.die ∧ s.dfrs = [] ∧
       s.recordAt (fnReg heldW.vf 0x1000) (fnReg heldW.vf 0x1008) (fnReg heldW.vf 0x1010) (fnReg heldW.vf 0x1018) 6 64 = none ∧ (s.held.filter fun x => x.key.asid == line0.asid && x.key.line / 64 == line0.line / 64) = [heldW]) ∧
    (let d : Dfr := ⟨0, 2, 0⟩
     let s : State := ({ z with dfrs := [d] }.setReg (fnReg 0 0x1000) 0x300000).setReg (fnReg 0 0x1008) 6
     s.dfrs.find? (fun x => x.vf == 0) = some d ∧ RingTakes s (fnReg 0 0x1000) (fnReg 0 0x1008) (fnReg 0 0x1010) (fnReg 0 0x1018) 6 64 0x300000 ∧ traceOff s 0) := by
  simp only [RingTakes, traceOff]
  and_intros
  all_goals first | decide +kernel | exact .inr (.inr (.inr (.inl ⟨_, rfl, rfl, rfl⟩)))
/-- Every entry that the caches and the directory list for `line0` is its own. -/
theorem keyed_at (s : State) (hp : s.places.all (fun e => decide (fget (L1Line.empty line0) e.2.l1 (lineCode line0) = { fget (L1Line.empty line0) e.2.l1 (lineCode line0) with key := line0 })) = true)
    (hd : (s.dir line0).key = line0) (hh : (s.homeLine line0).all (fun h => decide (h.key = line0)) = true) : KeyedAt s line0 := by
  refine ⟨fun t => ?_, hd, fun h e => by simpa [e] using hh⟩
  have : ∀ m : FMap Place, m.all (fun e => decide (fget (L1Line.empty line0) e.2.l1 (lineCode line0) = { fget (L1Line.empty line0) e.2.l1 (lineCode line0) with key := line0 })) = true →
      (fget (L1Line.empty line0) (fget (Place.reset t) m t).l1 (lineCode line0)).key = line0 := by
    intro m
    induction m with
    | nil => intro _; rfl
    | cons e m ih =>
      intro h
      simp only [List.all_cons, Bool.and_eq_true, decide_eq_true_eq] at h
      by_cases ht : t = e.1
      · have : fget (Place.reset t) (e :: m) t = e.2 := by simp [fget, fget?, ht]
        rw [this, h.1]
      · have : fget (Place.reset t) (e :: m) t = fget (Place.reset t) m t := by simp [fget, fget?, ht]
        rw [this]; exact ih h.2
  exact this _ hp
def served (s : State) : State := homed 1 s
def l0 (st : CState) (pend : List Pend) : L1Line := { L1Line.empty line0 with st := st, pend := pend, valid := 15 }
def pend0 : Pend := ⟨255, 3, 0, 2, false, 0, prov0⟩
def withDir (d : Dir) (s : State) : State := s.setDir line0 d
def emptyDir : Dir := Dir.empty line0
/-- Tile 0 runs a step and may read the region; the directory may serve the line. -/
def readS : State := (homed 1 run0).modPlace 0 fun t => { t with pmc := [(regionCode (some 0) placedVa, fullPerm)] }
/-- The owner is tile 0, or there is none; tile 1 or tile 0 asks. -/
def writeS (own : Option Nat) (tile : Nat) : State :=
  (homed 0 paged).setL1 tile (l0 .s [pend0]) |> withDir { emptyDir with p := if own = none then [0, 1] else [], own := own }
/-- An ownership request of a line that no partition holds, for a page that is not resident. -/
def awayS : State := (absentNow paged).setL1 0 (l0 .i [pend0])
def msgS (m : Msg) (s : State) : State := { s with msgs := [m] }
theorem serves_of {s : State} {tile dirty : Nat} (hk : KeyedAt s line0)
    (h : s.lineBusy line0 = false ∧ s.closed line0 = false ∧ s.homeLine line0 = some (homeL dirty) ∧ s.heldOf line0 = none ∧ s.hostSt placedPa = .i ∧ s.dirs.length + s.hosts.length < 16 ∧
      s.homeDie line0 ∉ s.gated ∧ s.msgs = []) : Serves s tile line0 (homeL dirty) := by
  obtain ⟨h1, hc, h2, h3, h4, h5, h6, h7⟩ := h
  exact ⟨hk, h1, hc, h2, rfl, h3, ⟨placedPa, rfl, h4, by decide⟩, .inl h5, ⟨.inl (by simp [h2]), h6⟩, fun b => by simp [h7]⟩
theorem witness_DirectoryServesAndSkims_requests :
    (Serves readS 0 line0 (homeL 1) ∧ HasL1 readS 0 line0 ∧ (readS.place 0).step ≠ none ∧ (readS.l1 0 line0).st = .i ∧ (readS.l1 0 line0).pend = [] ∧ readS.keyOf (readS.place 0).asid line0.va = line0 ∧
      fget? (readS.place 0).pmc (regionCode (some (readS.place 0).asid) line0.va) = some fullPerm ∧ fullPerm.r = true ∧ fullPerm.vf = (readS.place 0).vf) ∧
    (let s := writeS none 0
     Serves s 0 line0 (homeL 0) ∧ (s.l1 0 line0).st ≠ .m ∧ (s.l1 0 line0).pend.head? = some pend0 ∧ (s.dir line0).own = none ∧ (s.dir line0).k = [] ∧ s.marked line0 = false) ∧
    (let s := writeS (some 0) 1
     Serves s 1 line0 (homeL 0) ∧ (s.l1 1 line0).st ≠ .m ∧ (s.l1 1 line0).pend.head? = some pend0 ∧ (s.dir line0).own = some 0 ∧ (s.dir line0).k = [] ∧ s.marked line0 = false) ∧
    (KeyedAt awayS line0 ∧ awayS.lineBusy line0 = false ∧ (awayS.dir line0).k = [] ∧ awayS.marked line0 = false ∧ (awayS.l1 0 line0).st = .i ∧ (awayS.l1 0 line0).pend = [pend0] ∧
      awayS.heldOf line0 = none ∧ awayS.homeLine line0 = none ∧ (awayS.dir line0).own = none ∧ (awayS.verdict pend0.prov.asid line0).2 = .away 2 (leaf placedPa + 2 * 2 ^ 58) ∧
      secsOf pend0.mask ≠ 0 ∧ HeldFor (.away 2 (leaf placedPa + 2 * 2 ^ 58)) 0 1 2 ∧
      (awayS.verdict pend0.prov.asid line0).1.holdRoom ((awayS.verdict pend0.prov.asid line0).1.homeDie line0) pend0.prov.vf ≠ none ∧
      awayS.closed line0 = false ∧ ∀ e ∈ (awayS.place 0).l1, e.1 = lineCode e.2.key) := by
  refine ⟨⟨serves_of (keyed_at _ (by decide +kernel) (by decide +kernel) (by decide +kernel)) (by decide +kernel), .inl (by decide +kernel), by decide +kernel⟩,
    ⟨serves_of (keyed_at _ (by decide +kernel) (by decide +kernel) (by decide +kernel)) (by decide +kernel), by decide +kernel⟩,
    ⟨serves_of (keyed_at _ (by decide +kernel) (by decide +kernel) (by decide +kernel)) (by decide +kernel), by decide +kernel⟩,
    keyed_at _ (by decide +kernel) (by decide +kernel) (by decide +kernel), ?_⟩
  and_intros
  all_goals first | decide +kernel | exact .inr (.inr (.inr (.inl ⟨_, rfl, rfl, rfl⟩)))
theorem witness_DirectoryServesAndSkims_messages :
    (∀ only : Bool, KeyedAt (msgS (.skim 1 line0 only) (served paged)) line0 ∧ Msg.skim 1 line0 only ∈ (msgS (.skim 1 line0 only) (served paged)).msgs ∧
      Msg.skim 1 line0 (!only) ∉ (msgS (.skim 1 line0 only) (served paged)).msgs) ∧
    (∀ only : Bool, let s := msgS (.ack 1 line0 only) (withDir { emptyDir with k := [1], q := [1] } (served paged))
      KeyedAt s line0 ∧ Msg.ack 1 line0 only ∈ s.msgs ∧ Msg.ack 1 line0 (!only) ∉ s.msgs ∧ 1 ∈ (s.dir line0).k) ∧
    (let s := msgS (.done line0) ((served paged).setL1 0 { l0 .m [] with mark := true })
     KeyedAt s line0 ∧ Msg.done line0 ∈ s.msgs ∧ s.markOf line0 = some 0 ∧ s.wLines 0 = []) ∧
    (let s := withDir { emptyDir with p := [1] } (served paged)
     KeyedAt s line0 ∧ 1 ∈ (s.dir line0).p ∧ s.lineBusy line0 = false ∧ ∀ tile, tile < 512 → dieOf tile = 1 → (s.l1 tile line0).mark = false ∧ (s.l1 tile line0).pend = []) ∧
    (let s := (withDir { emptyDir with own := some 0 } (served paged)).setL1 0 { l0 .m [] with dirty := 1, data := 5 }
     KeyedAt s line0 ∧ s.homeLine line0 = some (homeL 1) ∧ (s.dir line0).own = some 0 ∧ (s.dir line0).k = [] ∧ (s.l1 0 line0).mark = false ∧ (s.l1 0 line0).pend = [] ∧ s.homeDie line0 ∉ s.gated) ∧
    (let s := msgS (.grant 0 line0 6 0 0 [] true) (served paged)
     KeyedAt s line0 ∧ (∀ d' n' b' p' m', Msg.grant 0 line0 d' n' b' p' m' ∈ s.msgs → d' = 6 ∧ n' = 0 ∧ b' = 0 ∧ p' = [] ∧ m' = true) ∧ s.wLines 0 = []) ∧
    (let s := msgS (.grant 0 line0 6 0 0 [] false) ((served paged).setL1 0 (l0 .i [pend0]))
     KeyedAt s line0 ∧ (∀ d' n' b' p' m', Msg.grant 0 line0 d' n' b' p' m' ∈ s.msgs → d' = 6 ∧ n' = 0 ∧ b' = 0 ∧ p' = [] ∧ m' = false) ∧ (s.place 0).l1 = [(lineCode line0, l0 .i [pend0])] ∧
       (l0 .i [pend0]).pend = [pend0]) := by
  refine ⟨fun only => ?_, fun only => ?_, ?_, ⟨keyed_at _ (by decide +kernel) (by decide +kernel) (by decide +kernel), by decide +kernel, by decide +kernel, ?_⟩, ?_,
    ⟨keyed_at _ (by decide +kernel) (by decide +kernel) (by decide +kernel), ?_, by decide +kernel⟩, ⟨keyed_at _ (by decide +kernel) (by decide +kernel) (by decide +kernel), ?_, by decide +kernel, rfl⟩⟩
  · cases only <;> exact ⟨keyed_at _ (by decide +kernel) (by decide +kernel) (by decide +kernel), by decide +kernel, by decide +kernel⟩
  · cases only <;> exact ⟨keyed_at _ (by decide +kernel) (by decide +kernel) (by decide +kernel), by decide +kernel⟩
  · exact ⟨keyed_at _ (by decide +kernel) (by decide +kernel) (by decide +kernel), by decide +kernel⟩
  · intro t _ _
    exact ⟨rfl, rfl⟩
  · exact ⟨keyed_at _ (by decide +kernel) (by decide +kernel) (by decide +kernel), by decide +kernel⟩
  all_goals
    intro d n b p m h; simp only [msgS, List.mem_singleton, Msg.grant.injEq] at h; exact ⟨h.2.2.1, h.2.2.2.1, h.2.2.2.2.1, h.2.2.2.2.2.1, h.2.2.2.2.2.2⟩
theorem witness_DirectoryServesAndSkims_sweeps :
    (risingFrom 0 paged.regions = true ∧ (∃ e ∈ paged.regions, e.2.home = 0) ∧ paged.tick % 2 ^ 20 ≤ 2 ^ 18 ∧ fget 0 paged.swept 0 ≠ paged.tick / 2 ^ 20 + 1) ∧
    fget 0 { z with swept := [(0, 1)] }.swept 0 = { z with swept := [(0, 1)] }.tick / 2 ^ 20 + 1 ∧ 2 ^ 18 < { z with tick := 2 ^ 18 + 1 }.tick % 2 ^ 20 ∧
    (let s := (served paged).setReg (dieReg 0 0x1000) 0x100
     (∀ e ∈ s.home, s.homeDie e.2.key = 1 → s.regN (dieReg 1 0x1000) / 256 % 16 ≤ e.2.way) ∧ risingFrom 0 s.replicas = true) := by
  decide +kernel
/-- The same line of a page whose frame lies in the third tier. -/
def t3Frame : Nat := 0x200000200000
def mapped3 : State := { paged.memWrite 0xA800 (bytesOf 8 (leaf t3Frame)) with
  mtus := [(8, { paged.mtu 8 with rmap := [(t3Frame / 8192, placedVa / 8192, false, 0)] })] }
theorem cached_of {s : State} {pa : Nat} (hk : KeyedAt s line0)
    (h : s.reverse (pa / 128 * 128) = some line0 ∧ s.paBusy (pa / 128 * 128) = false ∧ (s.dir line0).own = none ∧ s.dirs.length + s.hosts.length < 16 ∧
      (s.openWay line0).isSome ∧ s.homeDie line0 ∉ s.gated) : CachedLine s pa line0 := by
  obtain ⟨h1, h2, h3, h4, h5, h6⟩ := h
  exact ⟨h1, h2, hk, h3, .inl h4, ⟨.inr (by intro e; simp [e] at h5), h6⟩⟩
theorem witness_HostAndInboundAccesses :
    (CachedLine mapped3 t3Frame line0 ∧ inT3 t3Frame = true) ∧ (CachedLine paged placedPa line0 ∧ inHbm placedPa = true ∧ paged.replaysIn line0.asid = false) ∧
    (let s : State := { z with hosts := [(placedPa / 128, .m)] }
     s.populated placedPa = true ∧ inT3 placedPa = false ∧ s.hostSt placedPa = .m ∧ s.recSlots = [] ∧ s.reverse (placedPa / 128 * 128) = none) ∧
    (let s : State := { homed 0 paged with hosts := [(placedPa / 128, .o)] }
     s.populated placedPa = true ∧ s.hostSt placedPa = .o ∧ s.recSlots = [] ∧ s.reverse (placedPa / 128 * 128) = some line0 ∧ s.homeLine line0 = some (homeL 0) ∧ s.homeDie line0 ∉ s.gated) ∧
    (let s := msgS (.toHost line0 0) (homed 0 mapped3)
     s.msgs = [.toHost line0 0] ∧ s.askedPa line0 = some t3Frame ∧ answered 0 (s.hostSt t3Frame) .exclusive = some .e ∧ s.recSlots = [] ∧ (s.homeLine line0).isSome ∧ s.homeDie line0 ∉ s.gated) ∧
    (KeepsSpaces z 0x400000 [1, 2] ∧ KeepsSpaces z 0x400080 [3]) ∧
    (PlainBytes z 0x400000 2 ∧ PlainBytes z 0x400080 1 ∧ Apart 0x400000 2 0x400080 1) := by
  refine ⟨⟨cached_of (keyed_at _ (by decide +kernel) (by decide +kernel) (by decide +kernel)) (by decide +kernel), by decide +kernel⟩,
    ⟨cached_of (keyed_at _ (by decide +kernel) (by decide +kernel) (by decide +kernel)) (by decide +kernel), by decide +kernel⟩, ?_⟩
  refine ⟨?_, ?_, ?_, ⟨no_spaces rfl _ _, no_spaces rfl _ _⟩, ?_⟩
  all_goals first | decide +kernel | (simp only [PlainBytes, Apart]; decide +kernel)
/-- The granule of the page, its entry in a tier, and what die 0's residency engine holds. -/
def gran0 : Nat := granCode (some 0) placedVa
def frame1 : Nat := 0x400000
def entry1 (f tier st : Nat) : Pgd := newPgd (some 0) placedVa f st false |> fun p => { p with tier := tier }
def entryLow : Pgd := { entry1 placedPa 1 3 with lv := true, lframe := farFrame / 8192, ltier := 2 }
/-- The engine is on, and function 0 owns every channel of stack 0. -/
def rseS (p : Pgd) (r : Rse) : State :=
  ({ paged with pgd := [(gran0, p)], rses := [(0, r)] }.setReg (dieReg 0 0x1008) 1).setReg (pkgReg 0x3000) 1 |>.setReg (pkgReg 0x3030) 0xFFFF
def moveOf (promote : Bool) : RseMove := ⟨gran0, promote, 5, 1, false⟩
def upS : State := rseS (entry1 farFrame 2 0) { Rse.reset with queue := [moveOf true], pool1 := [frame1] }
def downS : State := rseS (entry1 placedPa 1 0) { Rse.reset with queue := [moveOf false], pool2 := [farFrame] }
def winUp : Window := ⟨gran0, frame1, 1, some 1, false, false⟩
def winDown : Window := ⟨gran0, farFrame, 2, none, false, false⟩
def winRef (cmd : Bool) : Window := ⟨gran0, frame1, 1, none, true, cmd⟩
def closing (p : Pgd) (w : Window) : State := rseS p { Rse.reset with window := some w }
theorem witness_ResidencyEngineMoves_open :
    (let s := upS
     (s.rse 0).window = none ∧ (s.regN (dieReg 0 0x1008)).testBit 0 = true ∧ (s.rse 0).queue = [moveOf true] ∧ s.rseHa 0 (s.granVf gran0) = false ∧
       s.granOf gran0 = some (entry1 farFrame 2 0) ∧ s.freeFrame 0 gran0 1 = some frame1 ∧ s.granBusy gran0 = false ∧ Uncached s gran0) ∧
    (let s := downS
     (s.rse 0).window = none ∧ (s.regN (dieReg 0 0x1008)).testBit 0 = true ∧ (s.rse 0).queue = [moveOf false] ∧ s.rseHa 0 (s.granVf gran0) = false ∧
       s.granOf gran0 = some (entry1 placedPa 1 0) ∧ (entry1 placedPa 1 0).lv = false ∧ s.freeFrame 0 gran0 2 = some farFrame ∧ s.granBusy gran0 = false ∧ Uncached s gran0) ∧
    (let s := rseS entryLow { Rse.reset with pool1 := [frame1] }
     s.granDie line0.asid line0.va = 0 ∧ s.rseHa 0 (s.granVf gran0) = false ∧ granCode line0.asid line0.va = gran0 ∧ s.granOf gran0 = some entryLow ∧ (s.rse 0).window = none ∧
       entryLow.st = 3 ∧ entryLow.lv = true ∧ entryLow.dirty = false ∧ MayMove s 0 ∧ s.granBusy gran0 = false ∧ s.freeFrame 0 gran0 1 = some frame1 ∧ Uncached s gran0) := by
  simp only [Uncached, MayMove]; decide +kernel
theorem witness_ResidencyEngineMoves_close :
    (let s := closing (entry1 farFrame 2 1) winUp
     (s.rse 0).window = some winUp ∧ s.granOf gran0 = some (entry1 farFrame 2 1) ∧ Apart farFrame 8192 frame1 8192 ∧ TablesApart s farFrame winUp) ∧
    (let s := closing (entry1 placedPa 1 1) winDown
     (s.rse 0).window = some winDown ∧ s.granOf gran0 = some (entry1 placedPa 1 1) ∧ Apart placedPa 8192 farFrame 8192 ∧ TablesApart s placedPa winDown) ∧
    (let s := closing entryLow (winRef false)
     (s.rse 0).window = some (winRef false) ∧ s.granOf gran0 = some entryLow ∧ Apart farFrame 8192 frame1 8192 ∧ TablesApart s farFrame (winRef false)) := by
  simp only [TablesApart, Apart]; decide +kernel
/-- A context whose one object has one granule, its table of slots; its record's state; the tables of the other dies lie elsewhere. -/
def objectS (p : Pgd) (st wake : Nat) : State :=
  let s := (rseS p Rse.reset).memWrite (placedPa + 0x800) (bytesOf 64 kvWord)
  let s := ([(fnReg 0 0x1020, 0x200800), (fnReg 0 0x1028, 2), (dieReg 1 0x1060, 0x40000000), (dieReg 2 0x1060, 0x40000000), (dieReg 3 0x1060, 0x40000000)] : List (Nat × Word)).foldl
    (fun s p => s.setReg p.1 p.2) s
  ((s.setCtxd 1 63 61 st).setCtxd 1 191 128 wake).setCtxd 1 768 768 1
theorem witness_ResidencyEngineMoves_contexts :
    (let s := objectS (entry1 farFrame 2 0) 1 0
     s.tick % 2 ^ 16 = 0 ∧ s.rseHa 0 (s.ctxVf 1) = false ∧ s.kvGranules 1 = [(placedVa, false, false)] ∧ s.granAt (s.ctxAsid 1) placedVa = some (some 0, entry1 farFrame 2 0) ∧
       s.movable (some 0) placedVa = true ∧ (∀ m ∈ (s.rse (s.granDie (some 0) placedVa)).queue, m.gran ≠ gran0) ∧ s.ctxState 1 = 1) ∧
    (let p := { entry1 placedPa 1 0 with owner := some 1 }
     let s := objectS p 3 1000
     s.tick % 2 ^ 16 = 0 ∧ s.rseHa 0 (s.ctxVf 1) = false ∧ s.kvGranules 1 = [(placedVa, false, false)] ∧ s.granAt (s.ctxAsid 1) placedVa = some (some 0, p) ∧ s.movable (some 0) placedVa = true ∧
       (∀ m ∈ (s.rse (s.granDie (some 0) placedVa)).queue, m.gran ≠ gran0) ∧ s.ctxState 1 ≠ 1 ∧ s.ctxState 1 ≠ 2 ∧
       s.tick + 1000 * s.regBits (dieReg 0 0x1008) 63 48 + 1000 * s.regBits (dieReg 0 0x1008) 47 32 < s.ctxd 1 191 128) ∧
    (let s : State := { upS with tick := 9 }.setReg (dieReg 0 0x1010) 1
     (∀ d < 4, s.liveContexts d = []) ∧ s.cmdCount (ringGroup 0 2) = 0 ∧ (s.rse 0).queue = [moveOf true] ∧ (moveOf true).deadline ≤ s.tick ∧ s.rseHa 0 (s.granVf gran0) = true) ∧
    (let s := objectS (entry1 farFrame 3 0) 1 0
     (range 0 4).flatMap s.liveContexts = [1] ∧ s.ctxState 1 = 1 ∧ s.steps = [] ∧ s.kvGranules 1 = [(placedVa, false, false)] ∧
       s.granAt (s.ctxAsid 1) placedVa = some (some 0, entry1 farFrame 3 0)) := by
  refine ⟨?_, ?_, ?_, ?_⟩ <;> decide +kernel
theorem witness_ResidencyEngineMoves_frames :
    (let s := rseS (entry1 placedPa 1 0) Rse.reset
     s.pgd = [(gran0, entry1 placedPa 1 0)] ∧ (∀ e ∈ s.rses, e.2.window = none) ∧ Uncached s gran0 ∧ (entry1 placedPa 1 0).frame = placedPa / 8192 ∧
       s.leaves gran0 = [(0xA800, leaf placedPa)]) ∧
    (let s := rseS entryLow Rse.reset
     s.pgd = [(gran0, entryLow)] ∧ (∀ e ∈ s.rses, e.2.window = none) ∧ Uncached s gran0 ∧ entryLow.frame ≠ farFrame / 8192 ∧ entryLow.lframe = farFrame / 8192) ∧
    (let s : State := { rseS (entry1 placedPa 1 3) Rse.reset with poisonAsks := [gran0] }
     s.granBusy gran0 = false ∧ Uncached s gran0 ∧ s.leaves gran0 = [(0xA800, leaf placedPa)]) ∧
    frame1 ∈ ({ z with zeroing := [frame1] } : State).zeroing := by
  simp only [Uncached]; decide +kernel
/-- A command at the head of die 0's residency ring, of kind `op`, for the tier and frame that it names. -/
def cmdR (op tier f : Nat) : RseCmd := ⟨desc [(200, placedVa), (180, op), (178, tier), (139, f / 8192)]⟩
def cmdS (c : RseCmd) (s : State) : State := asked s (ringGroup 0 2) 32 c.w
def badC (op : Nat) : RseCmd := ⟨desc [(200, 8), (180, op)]⟩
/-- The hypotheses of a command that its window's close completes. -/
def closes (op tier : Nat) (c : RseCmd) (p : Pgd) (w : Window) : Prop :=
  let s := cmdS c (closing p w)
  RseHead s 0 0x300000 op c ∧ (s.rse 0).window = some w ∧ w.cmd = true ∧ w.gran = c.gran ∧ (w.refetch = true ↔ op = 4) ∧ s.granOf c.gran = some p ∧ w.tier = tier ∧
    0x300000 / 8192 ≠ w.frame / 8192
theorem witness_ResidencyCommandsComplete :
    closes 0 1 (cmdR 0 1 frame1) (entry1 farFrame 2 1) { winUp with owner := none, cmd := true } ∧ closes 1 2 (cmdR 1 2 farFrame) (entry1 placedPa 1 1) { winDown with cmd := true } ∧
    closes 4 1 (cmdR 4 1 frame1) entryLow (winRef true) ∧
    (∀ t < 2, let c := cmdR 2 t 0
      let s := cmdS c (rseS (entry1 placedPa 1 0) Rse.reset)
      RseHead s 0 0x300000 2 c ∧ s.granOf c.gran = some (entry1 placedPa 1 0) ∧ s.movable c.tag c.va = true ∧ (entry1 placedPa 1 0).st = 0 ∧ c.frame = 0 ∧ c.tier = t ∧ s.pinFull 0 c.va = false) ∧
    (let c := cmdR 3 0 0
     let s := cmdS c (rseS { entry1 placedPa 0 0 with pin := true } Rse.reset)
     RseHead s 0 0x300000 3 c ∧ s.granOf c.gran = some { entry1 placedPa 0 0 with pin := true } ∧ s.movable c.tag c.va = true) ∧
    (let s : State := (({ z with rses := [(0, { Rse.reset with events := [2] })] } : State).setReg (ringGroup 0 3) 0x300000).setReg (ringGroup 0 3 + 8) 4
     (s.rse 0).events = [2] ∧ RingTakes s (ringGroup 0 3) (ringGroup 0 3 + 8) (ringGroup 0 3 + 0x10) (ringGroup 0 3 + 0x18) 4 32 0x300000) := by
  simp only [closes, RseHead, HeadRequest, RingTakes]
  and_intros <;> decide +kernel
/-- Every line of the granule lies in the home partition. -/
def wholeL (i : Nat) : HomeLine := { homeL 0 with key := ⟨some 0, 0x4000 + i⟩ }
def wholeS : State := { cmdS (cmdR 2 0 0) (rseS (entry1 placedPa 1 0) Rse.reset) with home := (range 0 64).map fun i => (lineCode (wholeL i).key, wholeL i) }
theorem witness_ResidencyCommandsComplete_pin : RseHead wholeS 0 0x300000 2 (cmdR 2 0 0) ∧ wholeS.pinFull 0 (cmdR 2 0 0).va = false ∧
    wholeS.granOf (cmdR 2 0 0).gran = some (entry1 placedPa 1 0) ∧
    ∀ k ∈ granLines (cmdR 2 0 0), (wholeS.homeLine k).any (fun h => decide (h.valid = 15 ∧ h.key = k)) = true := by
  simp only [RseHead, HeadRequest]; decide +kernel
theorem witness_ResidencyCommandsBeginOrAreRefused :
    (∀ op < 5, HeadRequest (cmdS (badC op) paged) (ringGroup 0 2) 32 0x300000 (badC op).w ∧ (badC op).bad = true ∧ (badC op).op = op) ∧
    (∀ op < 5, let s := cmdS (cmdR op 1 0) { paged with pgd := [] }
      RseHead s 0 0x300000 op (cmdR op 1 0) ∧ (s.rse 0).window = none ∧ s.granOf (cmdR op 1 0).gran = none) ∧
    (let c := cmdR 0 1 frame1
     let s := (cmdS c (rseS (entry1 farFrame 2 0) Rse.reset)).setReg (dieReg 0 0x1010) 1
     RseHead s 0 0x300000 0 c ∧ MayMove s 0 ∧ (s.rse 0).window = none ∧ s.granOf c.gran = some (entry1 farFrame 2 0) ∧ s.rseHa 0 (s.granVf c.gran) = true ∧ s.movable c.tag c.va = true ∧ c.tier = 1 ∧
       FrameFits s c 1 ∧ s.granBusy c.gran = false ∧ Uncached s c.gran) ∧
    (let c := cmdR 1 2 farFrame
     let s := (cmdS c (rseS (entry1 placedPa 1 0) Rse.reset)).setReg (dieReg 0 0x1010) 1
     RseHead s 0 0x300000 1 c ∧ MayMove s 0 ∧ (s.rse 0).window = none ∧ s.granOf c.gran = some (entry1 placedPa 1 0) ∧ s.rseHa 0 (s.granVf c.gran) = true ∧ s.movable c.tag c.va = true ∧ c.tier = 2 ∧
       (entry1 placedPa 1 0).pin = false ∧ FrameFits s c 2 ∧ s.granBusy c.gran = false ∧ Uncached s c.gran) ∧
    (∀ op ∈ [0, 1, 4], let c := cmdR op 1 frame1
      let s := cmdS c (rseS (entry1 farFrame 2 0) Rse.reset)
      RseHead s 0 0x300000 op c ∧ (s.rse 0).window = none ∧ s.granOf c.gran = some (entry1 farFrame 2 0) ∧ s.rseHa 0 (s.granVf c.gran) = false) ∧
    (let c := cmdR 4 1 0
     let s := (cmdS c (rseS (entry1 placedPa 1 3) Rse.reset)).setReg (dieReg 0 0x1010) 1
     RseHead s 0 0x300000 4 c ∧ (s.rse 0).window = none ∧ s.granOf c.gran = some (entry1 placedPa 1 3) ∧ s.rseHa 0 (s.granVf c.gran) = true ∧ s.movable c.tag c.va = true ∧ c.frame = 0 ∧
       (entry1 placedPa 1 3).lv = false) ∧
    (let c := cmdR 4 1 frame1
     let s := (cmdS c (rseS entryLow Rse.reset)).setReg (dieReg 0 0x1010) 1
     RseHead s 0 0x300000 4 c ∧ (s.rse 0).window = none ∧ s.granOf c.gran = some entryLow ∧ s.rseHa 0 (s.granVf c.gran) = true ∧ s.movable c.tag c.va = true ∧ MayMove s 0 ∧ FrameFits s c 1 ∧
       s.granBusy c.gran = false ∧ Uncached s c.gran) := by
  simp only [RseHead, HeadRequest, Uncached, MayMove, FrameFits]
  and_intros <;> decide +kernel
/-- Eight pinned lines fill the set that a granule's first line needs. -/
def pinnedL (i : Nat) : HomeLine := { homeL 0 with key := ⟨some 0, 0x4000 + 2 ^ 15 * (i + 1)⟩, pinned := true }
def fullS : State := cmdS (cmdR 2 0 0) { rseS (entry1 placedPa 1 0) Rse.reset with
  home := (range 0 8).map fun i => (lineCode (pinnedL i).key, pinnedL i)
  regions := paged.regions ++ (range 0 8).flatMap fun i => paged.regions.map fun e => (regionCode (some 0) (pinnedL i).key.va, e.2) }
theorem witness_ResidencyCommandsComplete_pinFull :
    RseHead fullS 0 0x300000 2 (cmdR 2 0 0) ∧ fullS.granOf (cmdR 2 0 0).gran = some (entry1 placedPa 1 0) ∧ fullS.movable (cmdR 2 0 0).tag (cmdR 2 0 0).va = true ∧
      fullS.pinFull 0 (cmdR 2 0 0).va = true := by
  simp only [RseHead, HeadRequest]; decide +kernel
-- ## Witnesses: launching and scheduling

/-- Die 0 is online, function 0 is enabled and owns two tiles there, context 1 is Ready; VAs of the page in use. -/
def schedS : State :=
  ((((paged.setReg 0x8 0xF0).setReg (pkgReg 0x10) 1).setReg (pkgReg 0x3000) 0x20001).setCtxd 1 63 61 1).setCtxd 1 27 21 64
def cplVa : Nat := 0x200F00
def lnrVa : Nat := 0x200C00
def launchP (l : List (Nat × Nat)) : Packet := ⟨desc ([(336, lnrVa), (168, cplVa), (152, 1)] ++ l), 0⟩
def goodL : List (Nat × Nat) := [(0, 1), (131, 1), (135, 1), (392, placedVa)]
/-- A loop nest of two parallel levels, 2 by 3. -/
def lnr23 : Nat := desc [(0, 2), (128, 2), (190, 1), (192, 3), (254, 1)]
def queueS (p : Packet) (s : State) : State := { s.setReg (dieReg 0 0) 0x40000000001 with lqs := [(0, ⟨1, 0, [p], [], [], none⟩)] }
def noCtx : Packet := launchP goodL
def gated : State := schedS.setCtxd 1 63 61 0
def nestS : State := schedS.memWrite 0x200C00 (bytesOf 64 lnr23)
theorem witness_PacketsAreAccepted_doorbells :
    (let s := schedS.setReg (dieReg 0 0) 0x40000000001
     s.lqVf 0 0 = 0 ∧ s.lqEn 0 0 = true ∧ s.fnEnabled 0 = true) ∧ schedS.lqEn 0 0 = false := by decide +kernel
theorem witness_PacketsAreAccepted_launch :
    (let p := launchP [(0, 1)]
     let s := queueS p schedS
     PacketAt s 0 0 p ∧ p.type = 1 ∧ p.f 335 280 = 0 ∧ p.bad (s.tileQuota (s.lqVf 0 0)) = true ∧ RecordFor s (s.lqAsid 0 0) (s.lqVf 0 0) p.cpl cplVa) ∧
    (let s := queueS noCtx gated
     PacketAt s 0 0 noCtx ∧ noCtx.bad (s.tileQuota (s.lqVf 0 0)) = false ∧ noCtx.bcount = 0 ∧ s.ctxState (noCtx.ctx % 65536) = 0 ∧ RecordFor s (s.lqAsid 0 0) (s.lqVf 0 0) noCtx.cpl cplVa) ∧
    (let s := queueS noCtx schedS
     PacketAt s 0 0 noCtx ∧ noCtx.bad (s.tileQuota (s.lqVf 0 0)) = false ∧ s.ctxState (noCtx.ctx % 65536) ≠ 0 ∧
       (∃ bs, s.fetch (s.lqAsid 0 0) (some (s.lqVf 0 0)) (noCtx.f 391 336) 64 = (s, .ok bs) ∧ lnrLevels (numOf bs) = none) ∧ RecordFor s (s.lqAsid 0 0) (s.lqVf 0 0) noCtx.cpl cplVa) ∧
    (let s := queueS noCtx nestS
     PacketAt s 0 0 noCtx ∧ noCtx.type = 1 ∧ noCtx.f 335 280 = 0 ∧ Resolves s s (s.lqVf 0 0) (s.lqAsid 0 0) noCtx [(1, 2), (1, 3)]) := by
  simp only [PacketAt, RecordFor, RecordPage, Resolves]
  refine ⟨by decide +kernel, by decide +kernel, ⟨by decide +kernel, by decide +kernel, by decide +kernel, ⟨bytesOf 64 0, by decide +kernel, by decide +kernel⟩, by decide +kernel⟩,
    by decide +kernel, by decide +kernel, (by decide +kernel), by decide +kernel, by decide +kernel, (by decide +kernel), by decide +kernel, .inr (by decide +kernel), by decide +kernel,
    ⟨bytesOf 64 lnr23, by decide +kernel, by decide +kernel⟩⟩
/-- A fence, a skip and a packet with a prologue; the prologue running on the front end. -/
def fence : Packet := ⟨2, 0⟩
def skipP : Packet := ⟨3, 0⟩
def proP : Packet := launchP (goodL ++ [(280, placedVa)])
def proS : State := { schedS with prologues := [(0, ⟨0, proP, 0, none⟩)], tick := 10000 }
/-- The template of group 0, whose batches have one member. -/
def tplL : List (Nat × Nat) := goodL ++ [(143, 1), (336, lnrVa)]
def tplS : State := ((nestS.memWrite 0x200D00 (bytesOf 128 (desc tplL))).setReg (dieReg 0 0x1070) 1).setReg (dieReg 0 0x1068) 0x200D00
theorem witness_PacketsAreAccepted_others :
    (PacketAt (queueS fence schedS) 0 0 fence ∧ fence.type = 2 ∧ (queueS fence schedS).steps = []) ∧
    (PacketAt (queueS fence { schedS with steps := run0.steps.map fun st => { st with direct := false } }) 0 0 fence ∧
      ∃ st ∈ ({ schedS with steps := run0.steps.map fun st => { st with direct := false } } : State).steps, st.template = false ∧ st.direct = false ∧ st.die = 0 ∧ st.queue = 0) ∧
    (PacketAt (queueS skipP schedS) 0 0 skipP ∧ skipP.type = 3) ∧ (PacketAt (queueS proP schedS) 0 0 proP ∧ proP.type = 1 ∧ proP.f 335 280 ≠ 0) ∧
    (fget? proS.prologues 0 = some ⟨0, proP, 0, none⟩ ∧ 0 + 10000 ≤ proS.tick ∧ RecordFor proS (proS.lqAsid 0 0) (proS.lqVf 0 0) proP.cpl cplVa) := by
  simp only [PacketAt, RecordFor, RecordPage]
  and_intros <;> decide +kernel
theorem witness_PacketsAreAccepted_batch :
    (let s := tplS
     let p : Packet := ⟨setBits (numOf (bytesOf 128 (desc tplL))) 279 168 0, 1⟩
     (0 < s.regBits (dieReg 0 0x1070) 15 0 ∧ s.fetch (s.regBits (dieReg 0 0x1070) 47 32) none (s.regN (dieReg 0 0x1068) + 128 * 0) 128 = (s, .ok (bytesOf 128 (desc tplL))) ∧
       s.byDeadline ((s.liveContexts 0).filter fun x => s.ctxState x = 1 && s.ctxd x 975 960 = 0 && s.ctxd x 56 55 = 0 && !s.steps.any fun st => st.current.contains x) = [1] ∧
       0 = s.ctxVf 1 ∧ (s.regN (dieReg 0 0x1020)).testBit 0 = false ∧ s.fnEnabled 0 = true ∧ p.bcount = 1 ∧
       ([1].filter fun x => s.ctxVf x = 0 ∧ s.ctxAsid x = s.ctxAsid 1).take p.bcount = [1] ∧ p.bad (s.tileQuota 0) = false ∧ p.f 8 8 = 0 ∧ p.f 10 10 = 0) ∧
     s.fetch (s.ctxAsid 1) (some 0) (p.f 391 336) 64 = (s, .ok (bytesOf 64 lnr23)) ∧ lnrLevels (numOf (bytesOf 64 lnr23)) = some [(1, 2), (1, 3)]) := by
  decide +kernel

/-- A pending step of one tile of die 0 for context 1, with a record; the same on tile 0 and of a later deadline. -/
def stepP : Step := {
  id := 4, packet := launchP goodL, vf := 0, asid := 0, cls := 0, deadline := 5, die := 0, queue := 0, members := [1], batched := false, entry := 0x200100, bucket := none
  levels := [(1, 2), (1, 3)], gang := 1, mask := [0], reserved := [], started := false, direct := false, template := false, posted := false, aborted := false, deferPark := none
  failed := none, cursor := [], positions := [], causalD := 0, trialBase := 0, told := false, map := 1, chief := 0 }
def stepQ : Step := { stepP with id := 8, deadline := 9 }
def withSteps (l : List Step) (s : State) : State := { s with steps := l }
def posn : Position := Position.new 0 0
def stepR : Step := { stepP with started := true, positions := [posn], chief := 1 }
def onTile (st : Step) (s : State) : State := (withSteps [st] s).modPlace 0 fun t => { t with step := some st.id, ctx := 1 }
theorem witness_StepsArePickedRunAndEnded_pick :
    (let s := withSteps [stepP] schedS
     s.online 0 = true ∧ s.freeTiles 0 ≠ [] ∧ s.slicedWork 0 = [] ∧ (s.cxsOf 0).picking = none ∧ s.steps.filter (fun x => s.servable x 0) = [stepP] ∧ s.needs stepP 0 = true ∧
       s.stepOf stepP.id = some stepP) ∧
    (let s := withSteps [stepP, stepQ] schedS
     s.online 0 = true ∧ s.freeTiles 0 ≠ [] ∧ s.slicedWork 0 = [] ∧ (s.cxsOf 0).picking = none ∧ s.steps.filter (fun x => s.servable x 0) = [stepP, stepQ] ∧
       stepP.id ≠ stepQ.id ∧ s.needs stepP 0 = true ∧ s.needs stepQ 0 = true ∧ s.stepOf stepP.id = some stepP ∧ s.stepOf stepQ.id = some stepQ ∧ stepP.deadline < stepQ.deadline) ∧
    (({ z with tick := 2 ^ 20 } : State).cxsOf 0).winStart / 2 ^ 20 < ({ z with tick := 2 ^ 20 } : State).tick / 2 ^ 20 ∧
    (let st := { stepP with reserved := [5] }
     let s := withSteps [st] schedS
     s.stepOf st.id = some st ∧ s.fnEnabled st.vf = true ∧ s.eligible st = true ∧ (∀ d ∈ st.mask, st.holds d = st.gang) ∧ traceOff s st.die ∧
       (∀ k < 4, (s.regN (recReg (s.ctxVf 1) k 0)).testBit 16 = false) ∧ isTile 5 = true) := by
  simp only [traceOff]; decide +kernel
/-- The header of a kernel with identity 7 and nothing to load, below the entry. -/
def kernelH : Nat := desc [(0, 0x4B494831), (32, 1), (64, 7)]
def kernelS : State := onTile stepR (schedS.memWrite placedPa (bytesOf 256 kernelH))
theorem witness_StepsArePickedRunAndEnded_run :
    (kernelS.stepAt 0 = some stepR ∧ stepR.failed = none ∧ (∀ p ∈ stepR.positions, p.point = none) ∧
      kernelS.fetch stepR.asid (some stepR.vf) (stepR.entry - 256) 256 = (kernelS, .ok (bytesOf 256 kernelH)) ∧ (kernelS.place 0).kernel = none ∧
      (let fld (o k : Nat) : Nat := numOf (bytesOf 256 kernelH) / 2 ^ (8 * o) % 2 ^ (8 * k)
       fld 0 4 = 0x4B494831 ∧ fld 4 4 = 1 ∧ ∀ o, 16 ≤ o → fld o 1 = 0)) ∧
    (let s := onTile stepR schedS
     s.stepAt 0 = some stepR ∧ s.fetch stepR.asid (some stepR.vf) (stepR.entry - 256) 256 = (s, .ok (bytesOf 256 0)) ∧ numOf (bytesOf 256 0) % 2 ^ 32 ≠ 0x4B494831 ∧
       s.stepOf stepR.id = some stepR) ∧
    (let st := { stepR with positions := [{ posn with point := some [0, 0] }], cursor := [(0, 4)] }
     let s := (onTile st schedS).modPlace 0 fun t => { t with firstDone := true }
     (∀ x ∈ s.steps, s.goesOn x 0 = none) ∧ s.steps.find? (fun x => s.handable x 0) = some st ∧ s.stepOf st.id = some st ∧ s.idlePosition { posn with point := some [0, 0] } = true ∧ (s.place 0).firstDone = true ∧
       fget 0 st.cursor 0 = 4) ∧
    (let st := { stepR with levels := [(1, 2), (0, 3)], positions := [{ posn with point := some [0, 0] }] }
     let s := (onTile st schedS).modPlace 0 fun t => { t with firstDone := true, kernel := some ⟨0, 0x200000, 0⟩ }
     s.steps.findSome? (fun x => (s.goesOn x 0).map fun e => (x, e)) = some (st, 0, 0, [0, 1]) ∧ (s.place 0).firstDone = true) ∧
    (let st := { stepR with cursor := [(0, 1)], positions := [{ posn with point := some [0, 0] }] }
     let s := (onTile st schedS).modPlace 0 fun t => { t with victim := true }
     s.steps = [st] ∧ s.stepDone st = false ∧ (s.place 0).victim = true ∧ (s.place 0).step = some st.id ∧ s.tileRests 0 = true ∧ (s.place 0).switch = none) := by
  refine ⟨⟨by decide +kernel, by decide +kernel, (by decide +kernel), by decide +kernel, by decide +kernel, (by decide +kernel), by decide +kernel, ?_⟩, by decide +kernel⟩
  intro o h
  have e : numOf (bytesOf 256 kernelH) = kernelH := by decide +kernel
  have l : kernelH < 2 ^ (8 * 16) := by decide +kernel
  show numOf (bytesOf 256 kernelH) / 2 ^ (8 * o) % 2 ^ (8 * 1) = 0
  rw [e, Nat.div_eq_of_lt (Nat.lt_of_lt_of_le l (Nat.pow_le_pow_right (by omega) (by omega))), Nat.zero_mod]
/-- A step all of whose chains have been handed out and whose tile has left it; the same on its tile. -/
def doneSt (l : List Position) : Step := { stepR with cursor := [(0, 6)], positions := l }
theorem witness_StepsArePickedRunAndEnded_end :
    (let st := doneSt [{ posn with tile := none }]
     let s := withSteps [st] schedS
     s.stepOf st.id = some st ∧ s.stepDone st = true ∧ s.cplReady st = true ∧ traceOff s st.die ∧ st.causalD = st.trialBase ∧ (∀ p ∈ st.positions, p.tile = none) ∧
       (∀ c ∈ st.active st.map, s.ctxState c ≠ 2) ∧ RecordFor s st.asid st.vf st.packet.cpl cplVa) ∧
    (let st := doneSt [posn]
     let s := onTile st schedS
     s.stepOf st.id = some st ∧ s.stepDone st = true ∧ s.cplReady st = true ∧ ∃ p ∈ st.positions, p.tile = some 0) ∧
    ((withSteps [stepR] schedS).stepOf 4 = some stepR ∧ (withSteps [stepR] schedS).stepDone stepR = false) ∧
    (let s := (schedS.setCtxd 1 439 384 0x200E00).modPlace 3 fun t => { t with slogBusy := some (1, [(2, 9, 0x200000)]) }
     (s.place 3).slogBusy = some (1, [(2, 9, 0x200000)]) ∧ RecordPage s (s.ctxAsid 1) (s.ctxd 1 439 384 + 16 * 2) 0x200E20) := by
  simp only [traceOff, RecordFor, RecordPage]; and_intros <;> decide +kernel
/-- Every tile of die 0 but none is free: two steps, the pending one due and of the lower class. -/
def fullDie (l : List Step) : State := { (withSteps l schedS).modPlace 0 fun t => { t with step := some 12 } with gated := [0] }
/-- A step whose one position is on tile 0, in its hands; a step of a function that the host schedules on die 0, on tile 0. -/
theorem onTiles_one {s : State} {st : Step} (h : st.positions = [posn]) (t : (s.place 0).step = some st.id) : OnTiles s st := fun p m n e => by
  rw [h, List.mem_singleton] at m
  rw [m] at e
  obtain rfl : (0 : Nat) = n := Option.some.inj e
  exact t
def hosted (st : Step) : State := (onTile st schedS).setReg (dieReg 0 0x1020) 1
def stepV : Step := { stepR with id := 12, cls := 1, members := [2] }
def sliced : State := { (withSteps [{ stepR with vf := 1 }, { stepQ with vf := 2 }] ((schedS.setReg (pkgReg 0x3040) 3).setReg (pkgReg 0x3080) 3)).modPlace 0 (fun t => { t with step := some 4 }) with
  cxs := [(0, { Cxs.reset with sliceFn := some 1, sliceEnd := 0 })] }
theorem witness_StepsArePickedRunAndEnded_preempt :
    (let s := fullDie [stepP, stepV]
     s.steps = [stepP, stepV] ∧ pendsOn s stepP 0 ∧ s.inTurn stepP.vf 0 = true ∧ s.needs stepV 0 = false ∧
       stepP.deadline ≤ s.tick + 1000 * s.regBits (dieReg 0 (0x1040 + 8 * stepP.cls)) 47 32 ∧ stepV.started = true ∧ stepV.vf = stepP.vf ∧ OnTiles s stepV ∧ stepP.started = false ∧ (∀ e ∈ s.places, e.2.victim = false) ∧ stepV.onDie 0 ≠ 0 ∧ stepP.cls < stepV.cls ∧
       (∃ x ∈ stepV.positions, x.tile = some 0 ∧ (s.place 0).victim = false) ∧ stepP.holds 0 + (s.freeTiles 0).length < stepP.gang) ∧
    ((sliced.cxsOf 0).sliceFn = some 1 ∧ (sliced.cxsOf 0).sliceEnd ≤ sliced.tick ∧ sliced.slicedWork 0 = [1, 2] ∧ sliced.hostHeld 0 1 = false ∧ ∀ st ∈ sliced.steps, OnTiles sliced st) ∧
    (∀ op < 3, let c : SchedCmd := ⟨desc [(64, 99), (62, op)]⟩
      let s := asked (withSteps [stepP] schedS) (schedGroup 0 4) 16 c.w
      HeadRequest s (schedGroup 0 4) 16 0x300000 c.w ∧ c.op = op ∧ s.stepOf c.step = none) ∧
    (∀ op < 3, let c : SchedCmd := ⟨desc [(64, 4), (62, op)]⟩
      let s := asked (withSteps [stepP] schedS) (schedGroup 0 4) 16 c.w
      HeadRequest s (schedGroup 0 4) 16 0x300000 c.w ∧ c.op = op ∧ s.stepOf c.step = some stepP ∧ s.hostHeld 0 stepP.vf = false) ∧
    (let c : SchedCmd := ⟨desc [(64, 4), (62, 1)]⟩
     let s := asked (hosted stepR) (schedGroup 0 4) 16 c.w
     HeadRequest s (schedGroup 0 4) 16 0x300000 c.w ∧ c.op = 1 ∧ s.stepOf c.step = some stepR ∧ s.hostHeld 0 stepR.vf = true ∧ stepR.started = true ∧ OnTiles s stepR) ∧
    (let st := { stepP with packet := ⟨0, 0⟩, reserved := [5] }
     ∀ op, op = 0 ∨ op = 2 → let c : SchedCmd := ⟨desc [(64, 4), (62, op)]⟩
       let s := asked (hosted st) (schedGroup 0 4) 16 c.w
       HeadRequest s (schedGroup 0 4) 16 0x300000 c.w ∧ c.op = op ∧ s.stepOf c.step = some st ∧ s.hostHeld 0 st.vf = true ∧ st.packet.cpl = 0 ∧
         ∀ e ∈ st.mask, s.needs st e = false ∧ st.holds e = st.gang) ∧
    (let st := { stepR with positions := [{ posn with tile := none, saved := true }] }
     let c : SchedCmd := ⟨desc [(64, 4), (62, 0)]⟩
     let s := asked ((withSteps [st] ((schedS.memWrite placedPa (bytesOf 256 kernelH)).setCtxd 1 311 256 0x200400)).setReg (dieReg 0 0x1020) 1) (schedGroup 0 4) 16 c.w
     HeadRequest s (schedGroup 0 4) 16 0x300000 c.w ∧ c.op = 0 ∧ s.stepOf c.step = some st ∧ s.hostHeld 0 st.vf = true ∧ st.started = true ∧ st.away = true ∧ st.id = c.step ∧
       ((s.resumeAll st).stepOf c.step).any (fun x => x.started && !x.away) = true ∧ (s.resumeAll st).reverse 0x300000 = none) ∧
    (let st := { stepP with posted := true, told := true }
     let s := (({ hosted st with cxs := [(0, { Cxs.reset with events := [2] })] } : State).setReg (schedGroup 0 5) 0x300000).setReg (schedGroup 0 5 + 8) 4
     s.steps = [st] ∧ s.hostHeld 0 st.vf = true ∧ st.die = 0 ∧ (s.cxsOf 0).events = [2] ∧
       RingTakes s (schedGroup 0 5) (schedGroup 0 5 + 8) (schedGroup 0 5 + 0x10) (schedGroup 0 5 + 0x18) 4 32 0x300000) := by
  simp only [pendsOn, HeadRequest, RingTakes, OnTiles]
  refine ⟨?_, ?_, by decide +kernel, by decide +kernel, ?_, ?_, by decide +kernel⟩
  · refine ⟨?_, ?_, ?_, ?_, ?_, ?_, ?_, onTiles_one rfl (by decide +kernel), ?_⟩ <;> decide +kernel
  · exact ⟨by decide +kernel, by decide +kernel, (by decide +kernel), by decide +kernel, fun st h => by
      rcases List.mem_cons.1 h with rfl | h
      · exact onTiles_one rfl (by decide +kernel)
      · rw [List.mem_singleton.1 h]; exact nofun⟩
  · exact ⟨by decide +kernel, by decide +kernel, (by decide +kernel), by decide +kernel, by decide +kernel, onTiles_one rfl (by decide +kernel)⟩
  · rintro op (rfl | rfl) <;> decide +kernel
-- ## Witnesses: tiles, firmware and the host

/-- A tile's CC stalls since tick 0 at the instruction `i`, with g[1] and the scratchpad as given. -/
def stallsAt (i : Instr) (g1 tick : Nat) (f : Place → Place) : State :=
  { (z.placed ((encodeWord i).getD 0)).modPlace 0 (fun t => f { t with stallSince := some 0, cc := t.cc.setG 1 (BitVec.ofNat 64 g1) }) with tick := tick }
def tbS (w : Nat) : State := stallsAt (.tbwait 1 2) 0x800 50 fun t => { t.putSp 0x800 (bytesOf 8 w) with tb := some (0x800, 40, false) }
def lateS : State := (stallsAt (.prmwait 1) 0 10 id).setEngq 0 2 { EngQ.reset with next := 1, cur := some ⟨0, 0, 0, 9, false, [], none⟩ }
theorem witness_TileEventsHappen_stalls :
    (let s := stallsAt (.sleepu 1) 7 9 id
     s.stalledAt 0 = some (.sleepu 1) ∧ (atPlace s 0).inBound [1] [] ∧ (atPlace s 0).unarmed ∧ ((atPlace s 0).g 1).toNat ≤ s.tick) ∧
    (∀ w, w = 0 ∨ w = 5 → let s := tbS w
      s.stalledAt 0 = some (.tbwait 1 2) ∧ notSteward (atPlace s 0) ∧ (atPlace s 0).inBound [1, 2] [] ∧ ((atPlace s 0).g 1).toNat = 0x800 ∧ 0x800 + 8 ≤ spSize 0 ∧
        Passes (orderRead 15) (watching (atPlace s 0) 0x800 ((atPlace s 0).g 2).toNat) ∧
        Passes (spTouch (atPlace s 0).acc ((atPlace s 0).g 1).toNat 8) (watching (atPlace s 0) 0x800 ((atPlace s 0).g 2).toNat) ∧ (atPlace s 0).here.spBad 0x800 8 = false ∧ (atPlace s 0).here.tb = some (0x800, 40, false) ∧ 40 ≤ s.tick ∧ (atPlace s 0).here.spNum 0x800 8 = w ∧ (atPlace s 0).unarmed) ∧
    (lateS.stalledAt 0 = some (.prmwait 1) ∧ notSteward (atPlace lateS 0) ∧ (atPlace lateS 0).inBound [1] [] ∧ copyRuns (atPlace lateS 0) 0 ∧
      promised (atPlace lateS 0) 0 < lateS.tick ∧ fget false ((atPlace lateS 0).engq 0 2).reported 0 = false) ∧
    z.stalledAt 0 = none := by
  refine ⟨?_, ?_, ⟨by decide +kernel, ?_, ?_, ⟨?_, .inr ⟨_, rfl, rfl⟩⟩, by decide +kernel, by decide +kernel⟩, by decide +kernel⟩
  · simp only [State.inBound, State.unarmed]; decide +kernel
  · rintro w (rfl | rfl)
    all_goals
      refine ⟨by decide +kernel, ?_, ?_, by decide +kernel, by decide +kernel, still_passes (by decide +kernel), still_passes (by decide +kernel), by decide +kernel, by decide +kernel, (by decide +kernel), by decide +kernel, ?_⟩
      all_goals simp only [State.inBound, State.unarmed, notSteward]; decide +kernel
  · simp only [notSteward]; decide +kernel
  · simp only [State.inBound]; decide +kernel
  · simp only [undispatched]; decide +kernel
def dogLine : LineKey := ⟨some 0, 8 * cWatchdog / 128⟩
/-- A running tile whose handlers for WATCHDOG and its neighbours are at `h`, with one cause pending; a context with a watchdog. -/
def asyncS (h : Nat) : State := run0.modPlace 0 fun t => { t with
  pmc := [(regionCode (some 0) 0, fullPerm)], async := [⟨cWatchdog, 3, none⟩]
  l1 := [(lineCode dogLine, { L1Line.empty dogLine with st := .s, valid := 15, data := BitVec.ofNat 1024 (h * ((2 ^ 1024 - 1) / (2 ^ 64 - 1))) })] }
def dogS (f : Place → Place) : State := (run0.setCtxd 1 1023 992 2).modPlace 0 fun t => f { t with wdogGt := 2000 }
def frozenCopy : State := (run0.modPlace 0 fun t => { t with frozen := true }).setEngq 0 2
  { EngQ.reset with next := 1, cur := some ⟨0, 0x61821A2080000020, 0, 9, false, [], none⟩ }
theorem witness_TileEventsHappen_causes :
    ((dogS id).ctxd ((dogS id).place 0).ctx 1023 992 = 2 ∧ ((dogS id).place 0).step ≠ none ∧ ((dogS id).place 0).hold ≠ .escalated ∧ 1000 * 2 ≤ ((dogS id).place 0).wdogGt ∧
      ((dogS id).place 0).switch = none) ∧
    ((dogS fun t => { t with switch := some ⟨none, 0, false, none, 0, 0⟩ }).place 0).switch ≠ none ∧ (z.place 0).step = none ∧
    (let s := asyncS 0x200000
     let u := atPlace s 0
     s.iterating 0 = true ∧ u.here.switch = none ∧ u.here.amoWait = none ∧ u.here.hold = .running ∧ u.here.frozen = false ∧ u.here.stallSince = none ∧ u.here.entering = none ∧
       u.here.async = [⟨cWatchdog, 3, none⟩] ∧ traceOff s (dieOf 0) ∧ HandlerIs u cWatchdog 0x200000) ∧
    ((frozenCopy.engq 0 2).cur.isSome ∧ (frozenCopy.place 0).frozen = true ∧ abandonable 0x61821A2080000020 = true) := by
  refine ⟨by decide +kernel, by decide +kernel, by decide +kernel, ⟨by decide +kernel, by decide +kernel, (by decide +kernel), by decide +kernel, by decide +kernel, (by decide +kernel),
    by decide +kernel, by decide +kernel, ?_, ?_⟩, by decide +kernel⟩
  · simp only [traceOff]; decide +kernel
  · have t : (atPlace (asyncS 0x200000) 0).here.tvec = 0 := by decide +kernel
    simp only [HandlerIs, t]
    have v : ∀ j < 4, (copyOf (atPlace (asyncS 0x200000) 0) (0 + 8 * cWatchdog)).valid.testBit j = true := by decide +kernel
    have w : (0 + 8 * cWatchdog) % 128 + 8 ≤ 128 := by decide
    exact ⟨by decide, ⟨by decide +kernel, by decide +kernel, fullPerm, by decide +kernel, by decide +kernel, by decide +kernel, rfl⟩, w,
      ⟨by decide +kernel, by decide +kernel, fun i _ h => v _ (by omega)⟩, by decide +kernel⟩
/-- Tile 0, which runs a step, sends to tile 1, which has a step and a grant for everything; or to itself, without one. -/
def grantAll : Grant := ⟨true, 0, 31, 0, 1023, 0, 511, 0, 0x17FFFF⟩
def sends (kind : PeerKind) (data : List Byte) (bar : Option Nat) : PeerMsg :=
  { pkg := 0, tile := 0, vf := 0, ctx := 1, kind := kind, toTile := 1, offset := 0x900, loff := 0x800, data := data, len := 4, bar := bar, queue := some (4, 0) }
def inFlightS (m : PeerMsg) : State :=
  { (run0.modPlace 1 fun t => { t with step := some 0, firstDone := true, grants := [grantAll] }).setEngq 0 4 { EngQ.reset with next := 1, cur := some ⟨0, 0, 0, 0, false, [], none⟩ } with peers := [m] }
def four : List Byte := [1, 2, 3, 4]
/-- The arrival of `m` at a tile that admits it, with its sender waiting. -/
def landsOk (s : State) (m : PeerMsg) : Bool :=
  decide ((s.delivered (.pending 0) = some m ∧ s.portOpen m = true) ∧ s.admits m = true ∧
    ((s.place m.toTile).maps = [] ∧ (s.place m.toTile).tb = none ∧ s.recSlotsOf (s.place m.toTile).ctx = []) ∧ m.pkg = s.pkgNum ∧
    (m.queue = some (4, 0) ∧ (s.engq m.tile 4).cur = some ⟨0, 0, 0, 0, false, [], none⟩ ∧ none = (none : Option Nat) ∧ (s.place m.tile).met = none))
theorem lands (s : State) (m : PeerMsg) (h : landsOk s m = true) :
    Arrives s (.pending 0) m ∧ s.admits m = true ∧ PlainTile s m.toTile ∧ m.pkg = s.pkgNum ∧ Awaits s m ⟨0, 0, 0, 0, false, [], none⟩ := by
  have h := of_decide_eq_true h
  exact h
def sixteen : List Byte := List.replicate 16 7
/-- User queue 8 of tile 1 with 16 slots, of which `n` are filled and `c` claimed. -/
def ringS (n : Nat) (m : PeerMsg) (c : Nat := 0) : State := (inFlightS m).setRing 1 8 ⟨0, n, c, 4, 0, 0, true, 0x1000⟩
def toQueue : PeerMsg := { sends (.enq 8) sixteen none with len := 16 }
theorem witness_TileEventsHappen_arrivals :
    (∀ b, b = none ∨ b = some 0xA00 → let m := sends .put four b
      Arrives (inFlightS m) (.pending 0) m ∧ (inFlightS m).admits m = true ∧ PlainTile (inFlightS m) m.toTile ∧ m.data.length = m.len ∧ Apart 0xA00 8 m.offset m.len ∧ ((inFlightS m).place m.toTile).spBad 0xA00 8 = false ∧
        Awaits (inFlightS m) m ⟨0, 0, 0, 0, false, [], none⟩) ∧
    (let m := sends .get [] none
     Arrives (inFlightS m) (.pending 0) m ∧ (inFlightS m).admits m = true ∧ PlainTile (inFlightS m) m.toTile ∧ PlainTile (inFlightS m) m.tile ∧ m.pkg = (inFlightS m).pkgNum ∧
       ((inFlightS m).place m.toTile).spPoison = []) ∧
    (let m := sends (.red 2) four none
     ((inFlightS m).place m.toTile).spBad m.offset 4 = false ∧ Arrives (inFlightS m) (.pending 0) m ∧ (inFlightS m).admits m = true ∧ PlainTile (inFlightS m) m.toTile ∧ m.len = 4 ∧ m.data.length = 4) ∧
    (∀ n, n = 1 ∨ n = 65536 → let m := sends (.sig 3 n) [] none
      Arrives (inFlightS m) (.pending 0) m ∧ (inFlightS m).admits m = true ∧ ((inFlightS m).place m.toTile).getSem 3 = 0 ∧ m.pkg = (inFlightS m).pkgNum ∧
        Awaits (inFlightS m) m ⟨0, 0, 0, 0, false, [], none⟩ ∧ m.tile ≠ m.toTile) ∧
    (∀ n, n = 0 ∨ n = 16 → Arrives (ringS n toQueue) (.pending 0) toQueue ∧ (ringS n toQueue).admits toQueue = true ∧ PlainTile (ringS n toQueue) toQueue.toTile ∧
      ((ringS n toQueue).ring 1 8).v = true ∧ toQueue.len = 16 * (((ringS n toQueue).ring 1 8).sszm + 1) ∧ toQueue.data.length = toQueue.len ∧
      ((ringS n toQueue).ring 1 8).filled = n ∧ ((ringS n toQueue).ring 1 8).size = 16 ∧ ((ringS n toQueue).ring 1 8).claimed = 0 ∧
      Awaits (ringS n toQueue) toQueue ⟨0, 0, 0, 0, false, [], none⟩ ∧ Passes (releaseBy leAgent allClasses ((ringS n toQueue).ring 1 8).scope) { ringS n toQueue with cur := toQueue.tile }) ∧
    (∀ n, n = 0 ∨ n = 15 → let s := ringS n toQueue 1
      Arrives s (.pending 0) toQueue ∧ s.admits toQueue = true ∧ PlainTile s toQueue.toTile ∧ (s.ring 1 8).claimed = 1 ∧ (s.ring 1 8).filled = n ∧ (s.place toQueue.toTile).step = some 0 ∧
        Awaits s toQueue ⟨0, 0, 0, 0, false, [], none⟩ ∧ Passes (releaseBy leAgent allClasses (s.ring 1 8).scope) { s with cur := toQueue.tile }) ∧
    (let m := { sends (.sig 3 1) [] none with queue := none }
     let s : State := { run0 with peers := [m] }
     Arrives s (.pending 0) m ∧ s.admits m = false ∧ m.pkg = s.pkgNum ∧ (s.place m.tile).step ≠ none ∧ (s.place m.tile).ctx = m.ctx) := by
  refine ⟨?_, ?_, ?_, ?_, ?_, ?_, ⟨⟨by decide +kernel, by decide +kernel⟩, by decide +kernel⟩⟩
  · have k : ∀ b : Option Nat, b = none ∨ b = some 0xA00 → landsOk (inFlightS (sends .put four b)) (sends .put four b) = true := by
      rintro b (rfl | rfl) <;> decide +kernel
    have bad : ∀ b : Option Nat, b = none ∨ b = some 0xA00 → ((inFlightS (sends .put four b)).place 1).spBad 0xA00 8 = false := by
      rintro b (rfl | rfl) <;> decide +kernel
    intro b hb
    · have h := lands _ _ (k b hb)
      exact ⟨h.1, h.2.1, h.2.2.1, rfl, .inr (.inr (.inr (show 0x900 + 4 ≤ 0xA00 by decide))), bad b hb, h.2.2.2.2⟩
  · have h := lands (inFlightS (sends .get [] none)) (sends .get [] none) (by decide +kernel)
    exact ⟨h.1, h.2.1, h.2.2.1, ⟨by decide +kernel, by decide +kernel, by decide +kernel⟩, h.2.2.2.1, by decide +kernel⟩
  · have h := lands (inFlightS (sends (.red 2) four none)) (sends (.red 2) four none) (by decide +kernel)
    exact ⟨by decide +kernel, h.1, h.2.1, h.2.2.1, rfl, rfl⟩
  · have k : ∀ n, n = 1 ∨ n = 65536 → landsOk (inFlightS (sends (.sig 3 n) [] none)) (sends (.sig 3 n) [] none) = true ∧
        ((inFlightS (sends (.sig 3 n) [] none)).place 1).getSem 3 = 0 := by rintro n (rfl | rfl) <;> decide +kernel
    intro n hn
    · have h := lands _ _ (k n hn).1
      exact ⟨h.1, h.2.1, (k n hn).2, h.2.2.2.1, h.2.2.2.2, show (0 : Nat) ≠ 1 by decide⟩
  · rintro n (rfl | rfl)
    · have h := lands (ringS 0 toQueue) toQueue (by decide +kernel)
      exact ⟨h.1, h.2.1, h.2.2.1, by decide +kernel, by decide +kernel, rfl, by decide +kernel, by decide +kernel, by decide +kernel, h.2.2.2.2, still_passes (by decide +kernel)⟩
    · have h := lands (ringS 16 toQueue) toQueue (by decide +kernel)
      exact ⟨h.1, h.2.1, h.2.2.1, by decide +kernel, by decide +kernel, rfl, by decide +kernel, by decide +kernel, by decide +kernel, h.2.2.2.2, still_passes (by decide +kernel)⟩
  · rintro n (rfl | rfl)
    · have h := lands (ringS 0 toQueue 1) toQueue (by decide +kernel)
      exact ⟨h.1, h.2.1, h.2.2.1, by decide +kernel, by decide +kernel, by decide +kernel, h.2.2.2.2, still_passes (by decide +kernel)⟩
    · have h := lands (ringS 15 toQueue 1) toQueue (by decide +kernel)
      exact ⟨h.1, h.2.1, h.2.2.1, by decide +kernel, by decide +kernel, by decide +kernel, h.2.2.2.2, still_passes (by decide +kernel)⟩
/-- A killed key whose zeroing visit has reached row 4. -/
def killedS : State := z.modPlace 0 fun t => { t with keys := [(3, ⟨5, 0, false, some 4⟩)], tags := [(4, ⟨3, 1⟩), (9, ⟨2, 1⟩)] }
theorem witness_TileEventsHappen_rest :
    (fget? (killedS.place 0).keys 3 = some ⟨5, 0, false, some 4⟩ ∧ ∀ e ∈ (killedS.place 0).tags, fget? (killedS.place 0).tags e.1 = some e.2) ∧
    (∃ st, run0.stepAt 0 = some st ∧ (nth? st.positions 0).isSome) ∧
    (({ run0 with steps := run0.steps.map fun st => { st with causalD := 3 } } : State).owes 0 = true ∧ run0.scrimDue = [] ∧ (run0.tick + 1) % 2 ^ 16 ≠ 0 ∧ run0.traces = [] ∧
      (∀ e ∈ run0.places, e.2.maps = [] ∧ e.2.mapSince = []) ∧ (∀ st ∈ run0.steps, (st.positions.head?.bind (·.tile)).isSome) ∧ run0.owes 0 = false) ∧
    (isTile 0 = true ∧ (run0.place 0).step ≠ none) ∧ (z.place 0).step = none :=
  ⟨by decide +kernel, ⟨_, rfl, by decide +kernel⟩, by decide +kernel⟩
/-- The package before stage B. -/
def stageA : State := z.setReg 0x8 1
/-- Staged entries of functions 0 and 1 that share a channel group. -/
def twoStaged : State := (((z.setReg 0x1000 1).setReg 0x1030 1).setReg 0x1040 1).setReg 0x1070 1
/-- Context 1 in a state; its function may hold one context, and its die has a save area at `area`. -/
def ctxS (st area : Nat) : State := (((paged.setReg (pkgReg 0x3000) 1).setReg (pkgReg 0x3008) 0x1000).setCtxd 1 63 61 st).setReg (dieReg 0 0x1080) (BitVec.ofNat 64 area)
/-- Context 1 runs on tile 0, which has escalated; its save area is a huge page of its own. -/
def escalatedS : State :=
  let put (s : State) (a v : Nat) : State := s.memWrite a (bytesOf 8 v)
  let t := (put (put (put (put z 0 0x2001) 0x2000 0x4001) 0x4000 0x6001) 0x6000 0x200000003).withTile
  (t.setCtxd 1 63 61 2).modPlace 0 fun t => { t with hold := .escalated, frozen := true }
theorem witness_FirmwareAndHostEvents_registers :
    ¬ oneRegister 4 8 ∧ (dieEntry 0x1060 = ⟨1, .s, (dieEntry 0x1060).mask⟩ ∧ mayWrite .monitor .s = true ∧ mayWrite .host .s = false) ∧
    ((dieEntry 0x1088).acc = 2 ∧ mayWrite .monitor (dieEntry 0x1088).w = true ∧ mayWrite .host (dieEntry 0x1088).w = false) ∧ (dieEntry 0x1030).acc = 0 ∧
    (z.quotaCheck = 1 ∧ ∀ f < 65, z.staging f = 0) ∧ z.regN 0x10 = 0 ∧
    ((twoStaged.staging 0).testBit 0 = true ∧ (twoStaged.staging 1).testBit 0 = true ∧ twoStaged.staging 0 / 2 ^ 384 % 2 ^ 128 &&& twoStaged.staging 1 / 2 ^ 384 % 2 ^ 128 ≠ 0 ∧
      twoStaged.quotaCheck = 7) ∧
    ((schedS.setReg (dieReg 0 0) 1).regN 0x10).testBit 0 = true := by
  simp only [oneRegister]; decide +kernel
theorem witness_FirmwareAndHostEvents_startUp :
    (schedS.minimal = false ∧ schedS.regN 0x10 ≠ 0) ∧ (z.regN 0x10 = 0 ∧ z.regN 0x18 = 0) ∧
    (stageA.regBits 0x8 3 0 = 1 ∧ stageA.minimal = false) ∧ (schedS.regBits 0x8 3 0 ≠ 1) ∧
    (let s := z.setReg 0x8 2
     s.regBits 0x8 3 0 = 2 ∧ 0 = s.tested ∧ s.regBits 0x8 23 16 = 0 ∧ s.regBits 0x8 7 4 = 0) ∧
    (schedS.regBits 0x8 3 0 ≠ 2 ∧ schedS.regBits 0x8 3 0 ≠ 3 ∧ schedS.regBits 0x8 7 4 ≠ 0) ∧
    ((z.setReg 0xA008 1).regN 0xA008).testBit 0 = true ∧ (z.setReg 0xA008 1).regN 0xA000 ≤ (z.setReg 0xA008 1).tick ∧
    (z.setReg 0xA008 1).stopped = false ∧ (z.regN 0xA008).testBit 0 = false ∧ (schedS.regBits 0x8 3 0 = 0 ∧ (schedS.setReg 0x8 0xF4).regBits 0x8 3 0 = 4) := by
  decide +kernel
theorem witness_FirmwareAndHostEvents_contexts :
    (1 / 16384 ≠ 2 ∧ 1 / 16384 = 0) ∧
    (∀ st < 5, (ctxS st 0).ctxd 1 775 768 = 0 ∧ traceOff (ctxS st 0) 0 ∧ (ctxS st 0).ctxState 1 = st ∧ (ctxS st 0).frozenTile 1 = none ∧ (ctxS st 0).ctxReason 1 = 0) ∧
    (let s := ctxS 0 0
     ((s.liveContexts 0).filter fun c => s.ctxVf c == s.ctxVf 1).length < s.limits (s.ctxVf 1) / 2 ^ (76 + 15 * 0) % 2 ^ 15) ∧
    paged.limits (paged.ctxVf 1) / 2 ^ (76 + 15 * 0) % 2 ^ 15 ≤ ((paged.liveContexts 0).filter fun c => paged.ctxVf c == paged.ctxVf 1).length ∧
    (∀ st, st = 1 ∨ st = 3 → let s := ctxS st 0x100000000000
      s.ctxState 1 = st ∧ inT2 (s.regN (dieReg 0 0x1080)) = true ∧ s.moveAsks 1 false = [] ∧
        ({ s.setCtxd 1 311 256 placedVa with hosts := [(placedPa / 128, .m)] } : State).moveAsks 1 false ≠ [] ∧
        ({ s.setCtxd 1 311 256 placedVa with hosts := [(placedPa / 128, .m)] } : State).ctxState 1 = st) ∧
    (escalatedS.ctxState 1 = 2 ∧ escalatedS.frozenTile 1 = some 0 ∧ escalatedS.ctxd 1 775 768 = 0) := by
  simp only [traceOff]
  refine ⟨by decide +kernel, by decide +kernel, (by decide +kernel), by decide +kernel, ?_, by decide +kernel⟩
  rintro st (rfl | rfl) <;> decide +kernel
def saveNow : Option State := escalatedS.saveImage 0 (escalatedS.place 0).gpos (eretPc (escalatedS.place 0).epc) none
theorem nothing_asked : escalatedS.saveAsks 0 false = [] := by decide +kernel
theorem witness_FirmwareAndHostEvents_retrySave :
    (escalatedS.place 0).switch = none ∧ (escalatedS.place 0).frozen = true ∧ escalatedS.saveAsks 0 false = [] ∧ ∃ s1, saveNow = some s1 ∧ s1.ctxd 1 775 768 = 0 ∧ traceOff s1 0 ∧ (s1.place 0).cnt = [] := by
  have h : saveNow.any (fun s1 => s1.ctxd 1 775 768 == 0 && !(s1.regN (dieReg 0 0x1320)).testBit 24 && (s1.place 0).cnt.isEmpty) = true := by decide +kernel
  refine ⟨by decide +kernel, by decide +kernel, nothing_asked, ?_⟩
  obtain ⟨x, hx, h⟩ := (Option.any_eq_true _ _).mp h
  simp only [Bool.and_eq_true, beq_iff_eq, Bool.not_eq_true', List.isEmpty_iff] at h
  exact ⟨x, hx, h.1.1, h.1.2, h.2⟩
/-- Function 0's slot 0 records, or replays, context 1, with entries of 32-byte heads from VA 0x200000 on; `used` bytes of the log are in use. -/
def recS (mode used head : Nat) : State :=
  ({ run0 with recSlots := [(0, true)] }.memWrite placedPa (bytesOf 32 head)).setReg (recReg 0 0 0) 0x10001 |>.setReg (recReg 0 0 8) 0x200000
    |>.setReg (recReg 0 0 0x10) (BitVec.ofNat 64 (12 + 256 * mode)) |>.setReg (recReg 0 0 0x18) (BitVec.ofNat 64 used)
def headE (instr : Nat) : Nat := desc [(48, 4), (56, 4), (72, 0x800), (128, instr)]
theorem replays (i : Nat) (h : (recS 2 64 (headE i)).regBits (recReg 0 0 0) 15 0 = 1 ∧ (recS 2 64 (headE i)).tileOf 1 = some 0 ∧ (recS 2 64 (headE i)).ctxVf 1 = 0 ∧
      (recS 2 64 (headE i)).replaying 1 = some 0 ∧ (recS 2 64 (headE i)).replayHead 1 0 0 = some (headE i, [0, 0, 0, 0])) :
    Replays (recS 2 64 (headE i)) 0 0 1 0 (headE i) [0, 0, 0, 0] := h
theorem witness_FirmwareAndHostEvents_rest :
    (∀ p, p = 0 ∨ p = 517 → (isTile p = true ∨ isSteward p = true) ∧ (({ z with places := [(p, { Place.reset p with hold := .halted })] } : State).place p).hold = .halted ∧
      (({ z with places := [(p, { Place.reset p with hold := .idle })] } : State).place p).hold = .idle) ∧
    (z.gated = [] ∧ z.mayGate 0 = true ∧ (z.setReg (pkgReg 0x3000) 0x20001).mayGate 0 = false) ∧
    (isSteward 517 = true ∧ (({ z with places := [(517, { Place.reset 517 with cc := { Core.reset with priv := 1 }, wdogGt := 60000 })] } : State).place 517).cc.priv = 1 ∧
      1000 * z.regBits (iodReg 0 0x6100) 15 4 < 60000 ∧ (z.place 517).cc.priv ≠ 1) ∧
    (let s := recS 0 4032 0
     0 ∈ s.recording 1 ∧ s.regBits (recReg 0 0 0) 15 0 = 1 ∧ s.ctxVf 1 = 0 ∧ s.recMode 0 0 = 0 ∧ 2 ^ s.recN 0 0 < s.recUsed 0 0 + 96) ∧
    (Replays (recS 2 64 (headE 5)) 0 0 1 0 (headE 5) [0, 0, 0, 0] ∧ (recS 2 64 (headE 5)).instrs 1 0 < headE 5 / 2 ^ 128 % 2 ^ 64) ∧
    (Replays (recS 2 64 (headE 0)) 0 0 1 0 (headE 0) [0, 0, 0, 0] ∧ headE 0 / 2 ^ 128 % 2 ^ 64 ≤ (recS 2 64 (headE 0)).instrs 1 0 ∧ headE 0 / 2 ^ 48 % 2 ^ 8 = 4 ∧
      ((recS 2 64 (headE 0)).place 0).maps = [] ∧ ((recS 2 64 (headE 0)).place 0).tb = none) := by
  refine ⟨?_, by decide +kernel, by decide +kernel, by decide +kernel, ⟨replays 5 (by decide +kernel), by decide +kernel⟩, replays 0 (by decide +kernel), by decide +kernel⟩
  rintro p (rfl | rfl) <;> decide +kernel
theorem witness_FirmwareAndHostEvents_gating :
    (z.gated = [] ∧ fget? z.gating 0 = none ∧ z.mayGate 0 = true ∧ DieAtRest z 0) ∧
    (run0.gated = [] ∧ fget? run0.gating 0 = none ∧ run0.mayGate 0 = true ∧ dieOf 0 = 0 ∧ (run0.place 0).step ≠ none) := by
  refine ⟨⟨rfl, rfl, by decide +kernel, fun n _ _ => ⟨rfl, rfl, rfl⟩, fun e h => absurd h List.not_mem_nil, fun e h => absurd h List.not_mem_nil⟩, by decide +kernel⟩
theorem witness_DecodeEncodeRoundTrip : instrWf (.vadd ⟨0, 0, 0, 0, 0, 0⟩ ⟨0, 5, 4, 3, 0, 0, 0⟩) = true ∧ legal (.vadd ⟨0, 0, 0, 0, 0, 0⟩ ⟨0, 5, 4, 3, 0, 0, 0⟩) = true ∧
    encodeWord (.vadd ⟨0, 0, 0, 0, 0, 0⟩ ⟨0, 5, 4, 3, 0, 0, 0⟩) = some 0x2000000080029060 := by decide +kernel
/-- Tile 0 has its turn at the word `w`, before and after the turn is taken. -/
def turnS (w : Nat) : State := z.withTables.withRegion.withTile.atPc w
def taken (s : State) : State := { s with agenda := [], cur := 0 }
def fetched (s : State) : State := left fetchWord (taken s)
/-- A state in which tile 0 fetches `w`, freely. -/
def fetches (s : State) (w : Nat) : Bool :=
  decide ((s.stopped = false ∧ (s.regN 0xA008).testBit 0 = false ∧ s.early = false ∧ s.agenda = [.core 0]) ∧ got fetchWord (taken s) = some w) && decide ((fetched s).here.victim = false) &&
    [0, 1, 2, 3].all fun n => !((fetched s).regN (bpReg (fetched s).cur n + 8)).testBit 0
/-- The CC of tile 0 is free to issue. -/
def ccFree (s : State) : Bool :=
  let t := s.place 0
  decide (t.hold = .running ∧ (t.amoWait = none ∧ t.switch = none ∧ t.step ≠ none ∧ s.inputDue 0 = false) ∧ t.frozen = false ∧ s.iterating 0 = true ∧ s.owes 0 = false ∧ s.recFull 0 = false ∧ t.async = [])
theorem may_issue {s : State} (h : ccFree s = true) : MayIssue s 0 := by
  obtain ⟨run, idle, melted, may⟩ := of_decide_eq_true h
  exact ⟨by decide, run, fun _ => ⟨idle.1, idle.2.1, idle.2.2.1, idle.2.2.2, fun e => absurd (melted.symm.trans e) Bool.false_ne_true, fun _ => may⟩, fun e => absurd e (by decide)⟩
theorem fetching {s : State} {w : Nat} (h : fetches s w = true) (h' : ccFree (taken s) = true) :
    TurnOf s (taken s) (.core 0) 0 ∧ MayIssue (taken s) 0 ∧ fetchWord.run (taken s) = .ok w (fetched s) ∧ NoBreakpoint (fetched s) (fetched s).cur ∧ (fetched s).here.victim = false := by
  have h := Bool.and_eq_true_iff.1 h
  have g := Bool.and_eq_true_iff.1 h.1
  have turn := of_decide_eq_true g.1
  refine ⟨⟨turn.1.1, turn.1.2.1, turn.1.2.2.1, [], turn.1.2.2.2, rfl⟩, may_issue h', got_ok turn.2, fun n hn => ?_, of_decide_eq_true g.2⟩
  simpa using List.all_eq_true.1 h.2 n (by simp; omega)
theorem turn_event (s : State) (i : Instr) (h : s.stopped = false ∧ (s.regN 0xA008).testBit 0 = false ∧ s.early = false) :
    TurnOf { s with agenda := [.event i] } { s with agenda := [] } (.event i) s.cur := ⟨h.1, h.2.1, h.2.2, [], rfl, rfl⟩
/-- An ALU word, an engine's word on a CC, ERET and a word of no instruction. -/
theorem witness_StepRunsDecodedWord :
    (∀ w ∈ [(encodeWord (.add 1 2 3)).getD 0, 0x2000000080029060, (encodeWord .eretResume).getD 0, 7 * 2 ^ 61], fetches (turnS w) w = true ∧ ccFree (taken (turnS w)) = true) ∧
    ((decodeWord ((encodeWord (.add 1 2 3)).getD 0)).toOption = some (.add 1 2 3) ∧ wordClass ((encodeWord (.add 1 2 3)).getD 0) = 0) ∧ 1 ≤ wordClass 0x2000000080029060 ∧
    (decodeWord 0x2000000080029060).toOption = some (.vadd ⟨0, 0, 0, 0, 0, 0⟩ ⟨0, 5, 4, 3, 0, 0, 0⟩) ∧
    ((decodeWord ((encodeWord .eretResume).getD 0)).toOption = some .eretResume ∧ wordClass ((encodeWord .eretResume).getD 0) = 0) ∧ (decodeWord (7 * 2 ^ 61)).toOption = none ∧
    (let s := (turnS 0).modPlace 0 fun t => { t with cc := { t.cc with pc := 4 } }
     (s.stopped = false ∧ (s.regN 0xA008).testBit 0 = false ∧ s.early = false ∧ s.agenda = [.core 0]) ∧ ccFree (taken s) = true ∧ goes fetchWord (taken s) = false) ∧
    (let w := (encodeWord (.xcpy ⟨0, 0, 0, 0, 0, 0⟩ 8)).getD 0
     let s := z.placed w
     let u : State := { s with agenda := [], cur := 0 }
     s.stopped = false ∧ (s.regN 0xA008).testBit 0 = false ∧ s.early = false ∧ s.agenda = [.engine 0 2] ∧ (u.engq 0 2).cur = none ∧ (u.ring 0 2).filled ≠ 0 ∧ u.owes 0 = false ∧ u.recFull 0 = false ∧
       engineQueue (u.headWord 0 2) = some 2 ∧ (decodeWord (u.headWord 0 2)).toOption = some (.xcpy ⟨0, 0, 0, 0, 0, 0⟩ 8)) ∧
    (let s := z.placed 0x2000000080029060
     let u : State := { s with agenda := [], cur := 0 }
     let u1 := match exec (.vadd ⟨0, 0, 0, 0, 0, 0⟩ ⟨0, 5, 4, 3, 0, 0, 0⟩) u with
       | .next t => t
       | _ => z
     s.stopped = false ∧ (s.regN 0xA008).testBit 0 = false ∧ s.early = false ∧ s.agenda = [.engine 0 0] ∧ (u.place 0).veIssued = false ∧ (u.engq 0 0).cur = none ∧ (u.ring 0 0).filled ≠ 0 ∧
       u.owes 0 = false ∧ u.recFull 0 = false ∧ engineQueue (u.headWord 0 0) = some 0 ∧ (decodeWord (u.headWord 0 0)).toOption = some (.vadd ⟨0, 0, 0, 0, 0, 0⟩ ⟨0, 5, 4, 3, 0, 0, 0⟩) ∧
       (u1.place 0).veRuns = true ∧ (u1.place 0).veIssued = true) ∧
    TurnOf { schedS with agenda := [.event .stop] } { schedS with agenda := [] } (.event .stop) schedS.cur ∧
    (stageA.stopped = false ∧ (stageA.regN 0xA008).testBit 0 = false ∧ stageA.early = true ∧ actsEarly .stop = false ∧ actsEarly .status = true) ∧
    ({ z with stopped := true, agenda := [.core 0] } : State).agenda = [.core 0] := by
  refine ⟨?_, ?_, ?_, ?_, ?_, ?_, ?_, ?_, ?_, turn_event schedS .stop (by decide +kernel), ?_, rfl⟩
  all_goals decide +kernel
theorem witness_StepsKeepLegalModes : LegalModes z := by
  intro p
  refine ⟨?_, Nat.zero_le 1, fun h => ?_⟩
  · show (if p < 516 then 0 else if p = 516 then 3 else 2) ≤ 3
    split
    · omega
    · split <;> omega
  · show (if p < 516 then 0 else if p = 516 then 3 else 2) = 0
    rw [if_pos h]
end Sys2Proof.Tests
end

section
/-! PROOFS. The words that the integer rows compute (R184, R232, R233): each function of the model is the table's value. -/
namespace Sys2Proof.Proofs
open Sys2Proof.Machine Sys2Proof.Claims

-- ## Sign extension (R184)

theorem sext_eq_signExtend (n v : Nat) (hn : 0 < n) : sext n v = (BitVec.ofNat n v).signExtend 64 := by
  have half : 2 * 2 ^ (n - 1) = 2 ^ n := by rw [← Nat.pow_succ', Nat.succ_eq_add_one, Nat.sub_one_add_one (by omega)]
  have signed : signedN n v = (BitVec.ofNat n v).toInt := by
    rw [signedN, BitVec.toInt_eq_toNat_cond, BitVec.toNat_ofNat]
    by_cases h : v % 2 ^ n < 2 ^ (n - 1)
    · rw [if_pos h, if_pos (by omega)]; rfl
    · rw [if_neg h, if_neg (by omega)]; norm_cast
  rw [sext, signed]; rfl
theorem imm32_eq_simm (v : Nat) : imm32 v = simm v := sext_eq_signExtend 32 v (by decide)

-- ## Products and quotients

theorem mul_eq_setWidth (a b : Word) : a * b = (a.setWidth 128 * b.setWidth 128).setWidth 64 := by
  apply BitVec.eq_of_toNat_eq; simp
theorem mulhWord_eq (a b : Word) : mulhWord a b = (a.signExtend 128 * b.signExtend 128).extractLsb' 64 64 := by
  have product : a.signExtend 128 * b.signExtend 128 = BitVec.ofInt 128 (a.toInt * b.toInt) := by
    rw [BitVec.ofInt_mul]; rfl
  apply BitVec.eq_of_toNat_eq
  rw [product, mulhWord, BitVec.extractLsb'_toNat, BitVec.toNat_ofInt, BitVec.toNat_ofInt, Nat.shiftRight_eq_div_pow]
  generalize a.toInt * b.toInt = p
  omega
theorem mulhuWord_eq (a b : Word) : mulhuWord a b = (a.zeroExtend 128 * b.zeroExtend 128).extractLsb' 64 64 := by
  have fits : a.toNat * b.toNat < 2 ^ 128 := calc
    a.toNat * b.toNat < 2 ^ 64 * 2 ^ 64 := Nat.mul_lt_mul'' a.isLt b.isLt
    _ = 2 ^ 128 := (Nat.pow_add 2 64 64).symm
  have wide (x : Word) : (x.zeroExtend 128).toNat = x.toNat :=
    (BitVec.toNat_setWidth ..).trans (Nat.mod_eq_of_lt (by omega))
  apply BitVec.eq_of_toNat_eq
  rw [mulhuWord, BitVec.extractLsb'_toNat, BitVec.toNat_mul, wide, wide, Nat.mod_eq_of_lt fits, BitVec.toNat_ofNat,
    Nat.shiftRight_eq_div_pow]
theorem divWord_eq (a b : Word) : divWord a b = if b = 0 then 0xFFFFFFFFFFFFFFFF else a.sdiv b := by
  have quotient : BitVec.ofInt 64 (a.toInt.tdiv b.toInt) = a.sdiv b :=
    BitVec.eq_of_toInt_eq (by rw [BitVec.toInt_ofInt, BitVec.toInt_sdiv])
  rw [divWord, quotient]; rfl
theorem remWord_eq (a b : Word) : remWord a b = if b = 0 then a else a.srem b := by
  rw [remWord, ← BitVec.toInt_srem, BitVec.ofInt_toInt]
theorem divuWord_eq (a b : Word) : divuWord a b = if b = 0 then 0xFFFFFFFFFFFFFFFF else a / b := by
  rw [divuWord, ← BitVec.toNat_udiv, BitVec.ofNat_toNat, BitVec.setWidth_eq]; rfl
theorem remuWord_eq (a b : Word) : remuWord a b = if b = 0 then a else a % b := by
  rw [remuWord, ← BitVec.toNat_umod, BitVec.ofNat_toNat, BitVec.setWidth_eq]

-- ## Comparisons, extrema and selection

theorem boolWord_beq (a b : Word) : boolWord (a == b) = if a = b then 1 else 0 := by simp [boolWord]
theorem boolWord_slt (a b : Word) : boolWord (a.slt b) = if a.toInt < b.toInt then 1 else 0 := by
  simp [boolWord, BitVec.slt_eq_decide]
theorem boolWord_ult (a b : Word) : boolWord (a.ult b) = if a.toNat < b.toNat then 1 else 0 := by
  simp [boolWord, BitVec.ult]
/-- An extremum chosen by "not below" is one chosen by "at most". -/
theorem ite_slt_swap (a b x y : Word) : (if b.slt a then x else y) = if a.toInt ≤ b.toInt then y else x := by
  rw [BitVec.slt_eq_decide, ← ite_not (a.toInt ≤ b.toInt)]
  simp only [decide_eq_true_eq, Int.not_le]
theorem ite_ult_swap (a b x y : Word) : (if b.ult a then x else y) = if a.toNat ≤ b.toNat then y else x := by
  rw [BitVec.ult, ← ite_not (a.toNat ≤ b.toNat)]
  simp only [decide_eq_true_eq, Nat.not_le]

-- ## Counts

theorem clzWord_eq (x : Word) : BitVec.ofNat 64 (clzWord x) = x.clz := by
  unfold clzWord
  by_cases h : x = 0
  · rw [if_pos h]; exact (BitVec.clz_eq_iff_eq_zero.2 h).symm
  · have hx : x.toNat ≠ 0 := fun e => h (BitVec.eq_of_toNat_eq e)
    have least := BitVec.two_pow_sub_clz_le_toNat_of_ne_zero (by decide) h
    have most := BitVec.toNat_lt_two_pow_sub_clz (x := x)
    have lt : x.clz.toNat < 64 := BitVec.clz_lt_iff_ne_zero.2 h
    have log : x.toNat.log2 = 63 - x.clz.toNat :=
      (Nat.log2_eq_iff hx).2 ⟨least, by rwa [show 63 - x.clz.toNat + 1 = 64 - x.clz.toNat by omega]⟩
    rw [if_neg h, log, show 63 - (63 - x.clz.toNat) = x.clz.toNat by omega, BitVec.ofNat_toNat, BitVec.setWidth_eq]
/-- The trailing zeros end at the first bit that is set. -/
theorem ctzNat_eq {m k n : Nat} (hk : k < m) (h1 : n.testBit k = true) (h0 : ∀ i < k, n.testBit i = false) : ctzNat m n = k := by
  induction m generalizing k n with
  | zero => omega
  | succ m ih =>
    cases k with
    | zero => simp [ctzNat, Nat.mod_two_eq_one_iff_testBit_zero.2 h1]
    | succ k =>
      have even : ¬ n % 2 = 1 := by simp [Nat.mod_two_eq_one_iff_testBit_zero, h0 0 (by omega)]
      have rest : ctzNat m (n / 2) = k := ih (by omega) (by rwa [Nat.testBit_div_two]) fun i hi => by
        rw [Nat.testBit_div_two]; exact h0 _ (by omega)
      rw [ctzNat, if_neg even, rest, Nat.add_comm]
theorem ctzNat_eq_ctz (x : Word) : BitVec.ofNat 64 (ctzNat 64 x.toNat) = x.ctz := by
  by_cases h : x = 0
  · subst h; decide +kernel
  · have count : ctzNat 64 x.toNat = x.ctz.toNat :=
      ctzNat_eq (BitVec.ctz_lt_iff_ne_zero.2 h) (BitVec.getLsbD_true_ctz_of_ne_zero h) fun i hi => BitVec.getLsbD_false_of_lt_ctz hi
    rw [count, BitVec.ofNat_toNat, BitVec.setWidth_eq]
/-- Counting from bit 0 up, the last bit counted is the top one. -/
theorem popNat_succ (n w : Nat) : popNat (n + 1) w = popNat n w + (w.testBit n).toNat := by
  induction n generalizing w with
  | zero => rw [Nat.toNat_testBit]; simp [popNat]
  | succ n ih => rw [popNat, ih, popNat, Nat.testBit_div_two]; omega
theorem popNat_eq_cpopNatRec {w : Nat} (x : BitVec w) (n : Nat) : popNat n x.toNat = x.cpopNatRec n 0 := by
  induction n with
  | zero => rfl
  | succ n ih => rw [popNat_succ, ih, BitVec.cpopNatRec_succ, BitVec.cpopNatRec_eq (0 + _), Nat.zero_add]; rfl
theorem popNat_eq_cpop (x : Word) : BitVec.ofNat 64 (popNat 64 x.toNat) = x.cpop := by rw [popNat_eq_cpopNatRec]; rfl

-- ## Byte order

theorem ofNat_numOf_cons (n : Nat) (b : Byte) (r : List Byte) :
    BitVec.ofNat (n + 8) (numOf (b :: r)) = BitVec.ofNat n (numOf r) ++ b := by
  have hb := b.isLt
  apply BitVec.eq_of_toNat_eq
  rw [BitVec.toNat_append, BitVec.toNat_ofNat, BitVec.toNat_ofNat, ← Nat.shiftLeft_add_eq_or_of_lt b.isLt, numOf,
    Nat.shiftLeft_eq, Nat.pow_add, Nat.mul_comm (2 ^ n), Nat.mod_mul, show (b.toNat + 256 * numOf r) / 2 ^ 8 = numOf r by omega]
  omega
theorem ofNat_div_eq_extractLsb' (x : Word) (k : Nat) : BitVec.ofNat 8 (x.toNat / 2 ^ k) = x.extractLsb' k 8 := by
  rw [← Nat.shiftRight_eq_div_pow]; rfl
theorem bswapWord_eq (x : Word) : bswapWord x =
    x.extractLsb' 0 8 ++ x.extractLsb' 8 8 ++ x.extractLsb' 16 8 ++ x.extractLsb' 24 8 ++
      x.extractLsb' 32 8 ++ x.extractLsb' 40 8 ++ x.extractLsb' 48 8 ++ x.extractLsb' 56 8 := by
  have bytes : (bytesOf 8 x.toNat).reverse = [56, 48, 40, 32, 24, 16, 8, 0].map (x.extractLsb' · 8) := by
    simp [bytesOf, ← ofNat_div_eq_extractLsb', Nat.div_div_eq_div_mul]
  have last (b : Byte) : BitVec.ofNat 8 (numOf [b]) = b := by simp [numOf]
  rw [bswapWord, bytes]
  simp only [List.map]
  rw [ofNat_numOf_cons 56, ofNat_numOf_cons 48, ofNat_numOf_cons 40, ofNat_numOf_cons 32, ofNat_numOf_cons 24,
    ofNat_numOf_cons 16, ofNat_numOf_cons 8, last]

-- ## Bit fields (R233)

/-- The low six bits of a register: a shift amount and POS. -/
theorem toNat_and_63 (b : Word) : (b &&& 0x3F).toNat = b.toNat % 64 := Nat.and_two_pow_sub_one_eq_mod b.toNat 6
theorem shiftLeft_and_63 (a b : Word) : a <<< (b.toNat % 64) = a <<< (b &&& 0x3F) := by rw [← toNat_and_63]; rfl
theorem ushiftRight_and_63 (a b : Word) : a >>> (b.toNat % 64) = a >>> (b &&& 0x3F) := by rw [← toNat_and_63]; rfl
theorem sshiftRight_and_63 (a b : Word) : a.sshiftRight (b.toNat % 64) = a.sshiftRight (b &&& 0x3F).toNat := by rw [← toNat_and_63]
theorem fieldPos_eq (b : Word) : fieldPos b = posOf b := (toNat_and_63 b).symm
theorem fieldLen_eq (b : Word) : fieldLen b = lenOf b := by
  have len : ((b >>> 8) &&& 0x7F).toNat = b.toNat / 256 % 128 := by
    rw [BitVec.toNat_and, BitVec.toNat_ushiftRight, Nat.shiftRight_eq_div_pow]
    exact Nat.and_two_pow_sub_one_eq_mod _ 7
  rw [fieldLen, lenOf, len, fieldPos_eq]
theorem posOf_add_lenOf_le (b : Word) : posOf b + lenOf b ≤ 64 := by
  have pos : posOf b < 64 := by rw [posOf, toNat_and_63]; exact Nat.mod_lt _ (by decide)
  unfold lenOf; omega
theorem getLsbD_lowOnes {l : Nat} (hl : l ≤ 64) (i : Nat) : (lowOnes l).getLsbD i = decide (i < l) := by
  rw [lowOnes, BitVec.getLsbD_ushiftRight, BitVec.getLsbD_allOnes]
  exact decide_eq_decide.2 (by omega)
/-- The bits of a word after its bits [hi:lo] are replaced. -/
theorem testBit_setBits {lo hi : Nat} (w v : Nat) (h : lo ≤ hi + 1) (i : Nat) :
    (setBits w hi lo v).testBit i = if lo ≤ i ∧ i ≤ hi then v.testBit (i - lo) else w.testBit i := by
  have hw := Nat.mod_lt w (Nat.two_pow_pos lo)
  have hv := Nat.mod_lt v (Nat.two_pow_pos (hi + 1 - lo))
  have parts : setBits w hi lo v = 2 ^ lo * (2 ^ (hi + 1 - lo) * (w / 2 ^ (hi + 1)) + v % 2 ^ (hi + 1 - lo)) + w % 2 ^ lo := by
    rw [setBits, Nat.mul_add, ← Nat.mul_assoc, ← Nat.pow_add, Nat.add_sub_cancel' h]; omega
  rw [parts, Nat.testBit_two_pow_mul_add _ hw, Nat.testBit_two_pow_mul_add _ hv, Nat.testBit_mod_two_pow, Nat.testBit_mod_two_pow,
    Nat.testBit_div_two_pow]
  by_cases below : i < lo
  · simp [below, show ¬ lo ≤ i by omega]
  · by_cases inside : i ≤ hi
    · simp [below, inside, show lo ≤ i by omega, show i - lo < hi + 1 - lo by omega]
    · simp [below, inside, show ¬ i - lo < hi + 1 - lo by omega, show i - lo - (hi + 1 - lo) + (hi + 1) = i by omega]
theorem bfxuWord_eq (a b : Word) : bfxuWord a b = (a >>> posOf b) &&& lowOnes (lenOf b) := by
  have hl := posOf_add_lenOf_le b
  apply BitVec.eq_of_getLsbD_eq
  intro i hi
  rw [bfxuWord, fieldPos_eq, fieldLen_eq, BitVec.getLsbD_ofNat, BitVec.getLsbD_and, BitVec.getLsbD_ushiftRight,
    getLsbD_lowOnes (by omega), Nat.testBit_mod_two_pow, Nat.testBit_div_two_pow, decide_eq_true hi, Bool.true_and, Bool.and_comm,
    Nat.add_comm]
  rfl
/-- Shifting a field up to the top and back extends its sign. -/
theorem shiftLeft_sshiftRight_eq_signExtend (x : Word) {l : Nat} (h0 : 0 < l) (hl : l ≤ 64) :
    (x <<< (64 - l)).sshiftRight (64 - l) = (x.setWidth l).signExtend 64 := by
  have sign : (x.setWidth l).msb = x.getLsbD (l - 1) := by
    rw [BitVec.msb_eq_getLsbD_last, BitVec.getLsbD_setWidth, decide_eq_true (by omega), Bool.true_and]
  have top : (x <<< (64 - l)).msb = x.getLsbD (l - 1) := by
    rw [BitVec.msb_eq_getLsbD_last, BitVec.getLsbD_shiftLeft, decide_eq_true (show 64 - 1 < 64 by omega),
      decide_eq_false (show ¬ 64 - 1 < 64 - l by omega), show 64 - 1 - (64 - l) = l - 1 by omega]
    rfl
  apply BitVec.eq_of_getLsbD_eq
  intro i hi
  rw [BitVec.getLsbD_sshiftRight, BitVec.getLsbD_signExtend, sign, top, BitVec.getLsbD_setWidth, BitVec.getLsbD_shiftLeft,
    decide_eq_true hi, decide_eq_false (show ¬ 64 ≤ i by omega), decide_eq_false (show ¬ 64 - l + i < 64 - l by omega),
    Nat.add_sub_cancel_left]
  by_cases h : i < l
  · simp [h, show 64 - l + i < 64 by omega]
  · simp [h, show ¬ 64 - l + i < 64 by omega]
theorem bfxWord_eq (a b : Word) :
    bfxWord a b = ((a >>> posOf b) <<< (64 - lenOf b)).sshiftRight (64 - lenOf b) := by
  have hl := posOf_add_lenOf_le b
  rw [bfxWord, fieldLen_eq, fieldPos_eq]
  by_cases h : lenOf b = 0
  · rw [if_pos h, h, BitVec.shiftLeft_eq_zero (by omega), BitVec.zero_sshiftRight]; rfl
  · rw [if_neg h, sext_eq_signExtend _ _ (by omega), shiftLeft_sshiftRight_eq_signExtend _ (by omega) (by omega),
      ← Nat.shiftRight_eq_div_pow, ← BitVec.toNat_ushiftRight, BitVec.ofNat_toNat]
/-- The bits of a word into which the low `l` bits of another are inserted at `p`. -/
theorem getLsbD_inserted (a c : Word) {p l : Nat} (hl : l ≤ 64) {i : Nat} (hi : i < 64) :
    ((c &&& ~~~(lowOnes l <<< p)) ||| ((a &&& lowOnes l) <<< p)).getLsbD i =
      if p ≤ i ∧ i < p + l then a.getLsbD (i - p) else c.getLsbD i := by
  simp only [BitVec.getLsbD_or, BitVec.getLsbD_and, BitVec.getLsbD_not, BitVec.getLsbD_shiftLeft, getLsbD_lowOnes hl, hi]
  by_cases below : i < p
  · simp [below, show ¬ p ≤ i by omega]
  · by_cases inside : i - p < l
    · simp [below, inside, show p ≤ i ∧ i < p + l by omega]
    · simp [below, inside, show ¬ (p ≤ i ∧ i < p + l) by omega]
theorem bfiWord_eq (a b c : Word) : bfiWord a b c =
    (c &&& ~~~(lowOnes (lenOf b) <<< posOf b)) ||| ((a &&& lowOnes (lenOf b)) <<< posOf b) := by
  have hl := posOf_add_lenOf_le b
  apply BitVec.eq_of_getLsbD_eq
  intro i hi
  rw [getLsbD_inserted a c (by omega) hi, bfiWord, fieldLen_eq, fieldPos_eq]
  by_cases h : lenOf b = 0
  · rw [if_pos h, if_neg (by omega)]
  · rw [if_neg h, BitVec.getLsbD_ofNat, decide_eq_true hi, Bool.true_and, testBit_setBits _ _ (by omega)]
    simp only [show i ≤ posOf b + lenOf b - 1 ↔ i < posOf b + lenOf b by omega]
    rfl

end Sys2Proof.Proofs
end

section
/-! PROOFS. How a control word ends: a word whose fields lie below the bound runs its effect and retires, and what the claims
say follows from the state at which it retires. -/
namespace Sys2Proof.Proofs
open Sys2Proof.Machine Sys2Proof.Claims

theorem unarmed_setG {s : State} (h : s.unarmed) (d : Nat) (v : Word) : (s.setG d v).unarmed := by
  intro hc
  simp only [State.setG, State.here_modHere, Place.setCore_stepArm]
  exact h (by simpa [State.setG, State.onCc] using hc)
theorem unarmed_setF {s : State} (h : s.unarmed) (d : Nat) (v : Word) : (s.setF d v).unarmed := by
  intro hc
  simp only [State.setF, State.here_modHere, Place.setCore_stepArm]
  exact h (by simpa [State.setF, State.onCc] using hc)
theorem passes_of_inBound {s : State} {gs fs : List Nat} (h : s.inBound gs fs) : s.preCheck .any 0 gs fs = none :=
  h.passes rfl (Nat.zero_le _)

theorem completes_of_retire {i : Instr} {s s1 : State} {npc : Word} (hu : s1.unarmed) (hx : exec i s = .next (s1.retire npc)) :
    Completes i s s1 npc := ⟨_, hx, s1.retires npc hu⟩
theorem writesG_of_retire {i : Instr} {s : State} {d : Nat} {v : Word} (hu : s.unarmed)
    (hx : exec i s = .next ((s.setG d v).retire (s.pc + 8))) : WritesG i s d v := by
  have hr := State.retires (s.setG d v) (s.pc + 8) (unarmed_setG hu d v)
  refine ⟨_, hx, hr, fun r => ?_, fun r => ?_, hr.memByte, hr.pc⟩
  · rw [hr.g, State.g_setG]
  · rw [hr.f, State.f_setG]
theorem writesF_of_retire {i : Instr} {s : State} {d : Nat} {v : Word} (hu : s.unarmed)
    (hx : exec i s = .next ((s.setF d v).retire (s.pc + 8))) : WritesF i s d v := by
  have hr := State.retires (s.setF d v) (s.pc + 8) (unarmed_setF hu d v)
  refine ⟨_, hx, hr, fun r => ?_, fun r => ?_, hr.memByte, hr.pc⟩
  · rw [hr.f, State.f_setF]
  · rw [hr.g, State.g_setF]

/-- `i` checks the register fields `gs` and `fs` and only computes; its effect makes `s1` of `s`. -/
def Computes (i : Instr) (s : State) (gs fs : List Nat) (s1 : State) : Prop := ∃ eff, exec i s = alu gs fs eff s ∧ eff s = s1

theorem Computes.retires {i : Instr} {s s1 : State} {gs fs : List Nat} (h : Computes i s gs fs s1) (hb : s.inBound gs fs) :
    exec i s = .next (s1.retire (s.pc + 8)) := by
  obtain ⟨eff, hx, rfl⟩ := h
  exact hx.trans (alu_next _ _ _ _ (passes_of_inBound hb))
/-- A row that writes `w`, whose value in `s` is `v`. -/
theorem computes_setG {i : Instr} {s : State} {gs fs : List Nat} {d : Nat} {w : State → Word} {v : Word}
    (hx : exec i s = alu gs fs (fun u => u.setG d (w u)) s) (hv : w s = v) : Computes i s gs fs (s.setG d v) := ⟨_, hx, by rw [hv]⟩
theorem computes_setF {i : Instr} {s : State} {gs fs : List Nat} {d : Nat} {w : State → Word} {v : Word}
    (hx : exec i s = alu gs fs (fun u => u.setF d (w u)) s) (hv : w s = v) : Computes i s gs fs (s.setF d v) := ⟨_, hx, by rw [hv]⟩
theorem Computes.writesG {i : Instr} {s : State} {gs fs : List Nat} {d : Nat} {v : Word} (h : Computes i s gs fs (s.setG d v))
    (hb : s.inBound gs fs) (hu : s.unarmed) : WritesG i s d v := writesG_of_retire hu (h.retires hb)
theorem Computes.writesF {i : Instr} {s : State} {gs fs : List Nat} {d : Nat} {v : Word} (h : Computes i s gs fs (s.setF d v))
    (hb : s.inBound gs fs) (hu : s.unarmed) : WritesF i s d v := writesF_of_retire hu (h.retires hb)

end Sys2Proof.Proofs
end

section
/-! PROOFS. The integer rows compute the values of R232 and R233. -/
namespace Sys2Proof.Proofs
open Sys2Proof.Machine Sys2Proof.Claims

-- ## The one- and two-operand shapes of an integer row

theorem computes_int1 {i : Instr} {s : State} {d a : Nat} {op : Word → Word} {v : Word} (hx : exec i s = int1 d a op s)
    (hv : op (s.g a) = v) : Computes i s [d, a] [] (s.setG d v) := computes_setG hx hv
theorem computes_int2 {i : Instr} {s : State} {d a b : Nat} {op : Word → Word → Word} {v : Word} (hx : exec i s = int2 d a b op s)
    (hv : op (s.g a) (s.g b) = v) : Computes i s [d, a, b] [] (s.setG d v) := computes_setG hx hv

-- ## The rows of the two tables, in their order

theorem computes_of_arithRule {i : Instr} {s : State} {d : Nat} {fields : List Nat} {v : Word}
    (h : arithRule s.g i = some (d, fields, v)) : Computes i s fields [] (s.setG d v) := by
  unfold arithRule at h
  split at h
  · cases h; exact computes_int2 (exec_add ..) rfl
  · cases h; exact computes_int2 (exec_sub ..) rfl
  · cases h; exact computes_int2 (exec_and ..) rfl
  · cases h; exact computes_int2 (exec_or ..) rfl
  · cases h; exact computes_int2 (exec_xor ..) rfl
  · cases h; exact computes_int2 (exec_andn ..) rfl
  · cases h; exact computes_int2 (exec_mul ..) (mul_eq_setWidth _ _)
  · cases h; exact computes_int2 (exec_mulh ..) (mulhWord_eq _ _)
  · cases h; exact computes_int2 (exec_mulhu ..) (mulhuWord_eq _ _)
  · cases h; exact computes_int2 (exec_div ..) (divWord_eq _ _)
  · cases h; exact computes_int2 (exec_divu ..) (divuWord_eq _ _)
  · cases h; exact computes_int2 (exec_rem ..) (remWord_eq _ _)
  · cases h; exact computes_int2 (exec_remu ..) (remuWord_eq _ _)
  · cases h; exact computes_int2 (exec_min ..) (ite_slt_swap _ _ _ _)
  · cases h; exact computes_int2 (exec_max ..) (ite_slt_swap _ _ _ _)
  · cases h; exact computes_int2 (exec_minu ..) (ite_ult_swap _ _ _ _)
  · cases h; exact computes_int2 (exec_maxu ..) (ite_ult_swap _ _ _ _)
  · cases h; exact computes_int2 (exec_seq ..) (boolWord_beq _ _)
  · cases h; exact computes_int2 (exec_slt ..) (boolWord_slt _ _)
  · cases h; exact computes_int2 (exec_sltu ..) (boolWord_ult _ _)
  · cases h; exact computes_setG (exec_sel ..) (ite_not _ _ _)
  · cases h
theorem computes_of_bitRule {i : Instr} {s : State} {d : Nat} {fields : List Nat} {v : Word}
    (h : bitRule s.g i = some (d, fields, v)) : Computes i s fields [] (s.setG d v) := by
  unfold bitRule at h
  split at h
  · cases h; exact computes_int2 (exec_sll ..) (shiftLeft_and_63 _ _)
  · cases h; exact computes_int2 (exec_srl ..) (ushiftRight_and_63 _ _)
  · cases h; exact computes_int2 (exec_sra ..) (sshiftRight_and_63 _ _)
  · cases h; exact computes_int1 (exec_clz ..) (clzWord_eq _)
  · cases h; exact computes_int1 (exec_ctz ..) (ctzNat_eq_ctz _)
  · cases h; exact computes_int1 (exec_popc ..) (popNat_eq_cpop _)
  · cases h; exact computes_int1 (exec_bswap ..) (bswapWord_eq _)
  · cases h; exact computes_int2 (exec_bfxu ..) (bfxuWord_eq _ _)
  · cases h; exact computes_int2 (exec_bfx ..) (bfxWord_eq _ _)
  · cases h; exact computes_setG (exec_bfi ..) (bfiWord_eq _ _ _)
  · cases h

/-- Settles O1: each row computes what the model's own function gives, and that is the table's value. -/
theorem integerInstructionResults : Obligations.IntegerInstructionResults := by
  refine ⟨fun s hu => ?_, fun i s d fields v h hb hu => ?_, fun i s d fields v h hb hu => ?_⟩
  · have nop : Computes .nop s [] [] s := ⟨fun u => u, exec_nop s, rfl⟩
    exact completes_of_retire hu (nop.retires (by simp [State.inBound]))
  · exact (computes_of_arithRule h).writesG hb hu
  · exact (computes_of_bitRule h).writesG hb hu

end Sys2Proof.Proofs
end

section
/-! PROOFS. The floating rows that compare, classify, move and convert (R235 to R237). -/
namespace Sys2Proof.Proofs
open Sys2Proof.Machine Sys2Proof.Claims

-- ## FCMP

theorem cmp_swap (a b : Val) : b.cmp a = -a.cmp b := by
  cases a with
  | nan => cases b with
    | nan | num => rfl
    | inf t => cases t <;> rfl
  | inf s => cases b with
    | nan | num => cases s <;> rfl
    | inf t => cases s <;> cases t <;> rfl
  | num s m e => cases b with
    | nan => rfl
    | inf t => cases t <;> rfl
    | num t n f =>
      simp only [Val.cmp, Int.min_comm f e]
      generalize scaled s m e (min e f) = x
      generalize scaled t n f (min e f) = y
      rcases Int.lt_trichotomy x y with h | h | h
      · rw [if_pos h, if_neg (show ¬ y < x by omega), if_neg (show ¬ y = x by omega)]; rfl
      · rw [if_neg (show ¬ x < y by omega), if_pos h, if_neg (show ¬ y < x by omega), if_pos h.symm]; rfl
      · rw [if_neg (show ¬ x < y by omega), if_neg (show ¬ x = y by omega), if_pos h]
theorem cmp_cases (a b : Val) : a.cmp b = -1 ∨ a.cmp b = 0 ∨ a.cmp b = 1 := by
  simp only [Val.cmp]
  split <;> grind
theorem lt_eq_cmp {a b : Val} (ha : a.isNan = false) (hb : b.isNan = false) : a.lt b = (a.cmp b == -1) := by
  simp [Val.lt, ha, hb]
/-- The code of FCMP: above is below with the operands exchanged, and equal is neither. -/
theorem compareCode_eq (a b : Val) : BitVec.ofNat 64 (compareCode a b) =
    if a.isNan || b.isNan then 8 else if a.lt b then 1 else if b.lt a then 4 else 2 := by
  unfold compareCode
  by_cases hn : (a.isNan || b.isNan) = true
  · rw [if_pos hn, if_pos hn]; rfl
  · obtain ⟨ha, hb⟩ := Bool.or_eq_false_iff.1 (Bool.not_eq_true _ ▸ hn)
    rw [if_neg hn, if_neg hn, lt_eq_cmp ha hb, lt_eq_cmp hb ha, cmp_swap a b]
    rcases cmp_cases a b with h | h | h <;> rw [h] <;> rfl

-- ## FCLASS

theorem bit_eq_testBit (w i : Nat) : bit w i = w.testBit i := by rw [Nat.testBit_eq_decide_div_mod_eq]; rfl
/-- The class bit of a decoded encoding, from its fields. -/
theorem classBit_dec {f : Fmt} (hf : f.sp = .ieee) (hw : f.mb ≤ f.w - 1) (b : Nat) :
    classBit f (f.dec b) =
      let e := b / 2 ^ f.mb % 2 ^ f.eb
      let m := b % 2 ^ f.mb
      let s := b.testBit (f.w - 1)
      if e = 2 ^ f.eb - 1 then (if m ≠ 0 then 8 else if s then 0 else 7)
      else if e = 0 then (if m = 0 then (if s then 3 else 4) else if s then 2 else 5)
      else if s then 1 else 6 := by
  have mant : b % 2 ^ (f.w - 1) % 2 ^ f.mb = b % 2 ^ f.mb := Nat.mod_mod_of_dvd _ (Nat.pow_dvd_pow 2 hw)
  have expo : b % 2 ^ (f.w - 1) / 2 ^ f.mb = b / 2 ^ f.mb % 2 ^ f.eb := by
    rw [show f.w - 1 = f.mb + f.eb by unfold Fmt.eb; omega, Nat.pow_add, Nat.mod_mul_right_div_self]
  have small := Nat.mod_lt b (Nat.two_pow_pos f.mb)
  simp only [Fmt.dec, mant, expo, bit_eq_testBit, hf]
  generalize b / 2 ^ f.mb % 2 ^ f.eb = e
  generalize b % 2 ^ f.mb = m at small
  generalize b.testBit (f.w - 1) = s
  by_cases special : e = 2 ^ f.eb - 1
  · by_cases hm : m = 0 <;> simp [classBit, special, hm]
  · by_cases he : e = 0
    · by_cases hm : m = 0 <;> simp [classBit, he, hm, small, he ▸ special]
    · simp [classBit, special, he, show ¬ m + 2 ^ f.mb < 2 ^ f.mb by omega]
theorem classBit_eq_classOf (n : FN) (w : Word) : classBit (fnFmt n) (fvalue n w) = classOf n w := by
  have ieee : (fnFmt n).sp = .ieee ∧ (fnFmt n).mb ≤ (fnFmt n).w - 1 := by
    unfold fnFmt; split <;> decide
  exact classBit_dec ieee.1 ieee.2 _

-- ## Moves and signs

theorem and_low32 (w : Word) : w &&& 0xFFFFFFFF = BitVec.ofNat 64 (w.toNat % 2 ^ 32) := by
  apply BitVec.eq_of_toNat_eq
  rw [BitVec.toNat_ofNat, Nat.mod_eq_of_lt (by omega)]
  exact Nat.and_two_pow_sub_one_eq_mod _ 32
/-- An operand as a word: all of a register, or its low half with PR = 0 (R191). -/
theorem ofNat_fbits (n : FN) (w : Word) : BitVec.ofNat 64 (fbits n w) = if n.pr = 1 then w else w &&& 0xFFFFFFFF := by
  unfold fbits fnFmt
  by_cases h : n.pr = 1
  · rw [if_pos h, if_pos h]
    exact BitVec.eq_of_toNat_eq (by
      rw [BitVec.toNat_ofNat, Nat.mod_mod_of_dvd _ (show 2 ^ 64 ∣ 2 ^ fp64.w from Nat.dvd_refl _), Nat.mod_eq_of_lt w.isLt])
  · rw [if_neg h, if_neg h, and_low32]; rfl
theorem signFrom_eq (n : FN) (inv : Bool) (a b : Word) : signFrom (fnFmt n) inv (fbits n a) (fbits n b) =
    fbits n a % 2 ^ ((fnFmt n).w - 1) + if signOf n b != inv then 2 ^ ((fnFmt n).w - 1) else 0 := by
  rw [signOf, ← bit_eq_testBit]; rfl

-- ## The rows

/-- FCVT by its code: 2 and 3 write `g`, 4 and 5 read `g`, the others convert between formats (R236). -/
theorem exec_fcvt_toG {code : Nat} (h : code = 2 ∨ code = 3) (d a : Nat) (n : FN) (s : State) :
    exec (.fcvt d a code n) s = alu [d] [a] (fun u => u.setG d (u.convert a code n)) s := by
  simp only [exec_fcvt, execFcvt, fcvtG, fcvtF, if_pos h]
theorem exec_fcvt_fromG {code : Nat} (h : code = 4 ∨ code = 5) (d a : Nat) (n : FN) (s : State) :
    exec (.fcvt d a code n) s = alu [a] [d] (fun u => u.setF d (u.convert a code n)) s := by
  have h' : ¬ (code = 2 ∨ code = 3) := by omega
  simp only [exec_fcvt, execFcvt, fcvtG, fcvtF, if_neg h', if_pos h]
theorem exec_fcvt_formats {code : Nat} (h : ¬ (code = 2 ∨ code = 3)) (h' : ¬ (code = 4 ∨ code = 5)) (d a : Nat) (n : FN) (s : State) :
    exec (.fcvt d a code n) s = alu [] [d, a] (fun u => u.setF d (u.convert a code n)) s := by
  simp only [exec_fcvt, execFcvt, fcvtG, fcvtF, if_neg h, if_neg h']

theorem computes_fpOp {i : Instr} {s : State} {d : Nat} {fs : List Nat} {w : State → Nat} {v : Nat} (hx : exec i s = fpOp d fs w s)
    (hv : w s = v) : Computes i s [] (d :: fs) (s.setF d (BitVec.ofNat 64 v)) := computes_setF hx (congrArg _ hv)

/-- In the order of the rows of `floatToG`. -/
theorem computes_of_floatToG {i : Instr} {s : State} {d : Nat} {fields : List Nat} {v : Word}
    (h : floatToG s.f i = some (d, fields, v)) : Computes i s [d] fields (s.setG d v) := by
  unfold floatToG at h
  split at h
  · cases h; exact computes_setG (exec_fcmp ..) (compareCode_eq _ _)
  · cases h; exact computes_setG (exec_fclass ..) (congrArg (fun k => BitVec.ofNat 64 (2 ^ k)) (classBit_eq_classOf _ _))
  · cases h; exact computes_setG (exec_fmvg ..) (ofNat_fbits _ _)
  · cases h; exact computes_setG (exec_fcvt_toG (by decide) ..) rfl
  · cases h; exact computes_setG (exec_fcvt_toG (by decide) ..) rfl
  · cases h
/-- In the order of the rows of `floatFromG`. -/
theorem computes_of_floatFromG {i : Instr} {s : State} {d : Nat} {fields : List Nat} {v : Word}
    (h : floatFromG s.g i = some (d, fields, v)) : Computes i s fields [d] (s.setF d v) := by
  unfold floatFromG at h
  split at h
  · cases h; exact computes_setF (exec_fmvf ..) (ofNat_fbits _ _)
  · cases h; exact computes_setF (exec_fcvt_fromG (by decide) ..) rfl
  · cases h; exact computes_setF (exec_fcvt_fromG (by decide) ..) rfl
  · cases h
/-- In the order of the rows of `floatRow`. -/
theorem computes_of_floatRow {i : Instr} {s : State} {d : Nat} {fields : List Nat} {v : Nat}
    (h : floatRow s.f i = some (d, fields, v)) : Computes i s [] fields (s.setF d (BitVec.ofNat 64 v)) := by
  unfold floatRow at h
  split at h
  · cases h; exact computes_fpOp (exec_fsgn ..) (signFrom_eq _ _ _ _)
  all_goals cases h
  all_goals exact computes_setF (exec_fcvt_formats (by decide) (by decide) ..) rfl

/-- Settles O4: each row computes what the model's own function gives, and that is the table's value. -/
theorem floatingMovesAndConversions : Obligations.FloatingMovesAndConversions :=
  ⟨fun _ _ _ _ _ h hb hu => (computes_of_floatToG h).writesG hb hu,
    fun _ _ _ _ _ h hb hu => (computes_of_floatFromG h).writesF hb hu,
    fun _ _ _ _ _ h hb hu => (computes_of_floatRow h).writesF hb hu⟩

end Sys2Proof.Proofs
end

section
/-! PROOFS. Fields of control words that must be zero (R184, R198). -/
namespace Sys2Proof.Proofs
open Sys2Proof.Machine Sys2Proof.Claims

theorem mod_two_pow_div_mod {lo n k : Nat} (h : lo + n ≤ k) (w : Nat) : w % 2 ^ k / 2 ^ lo % 2 ^ n = w / 2 ^ lo % 2 ^ n := by
  rw [show k = lo + (k - lo) by omega, Nat.pow_add, Nat.mod_mul_right_div_self]
  exact Nat.mod_mod_of_dvd _ (Nat.pow_dvd_pow 2 (by omega))
theorem decodeWord_of_decodeControl_none {w op : Nat} (hop : w / 2 ^ 53 = op) (h8 : op < 256)
    (hn : decodeControl op (w % 2 ^ 53) = none) : decodeWord w = .error (.control op) := by
  have fields : unpackF [53, 8, 3] w = [w % 2 ^ 53, op, 0] := by
    simp only [unpackF, hop, List.cons.injEq, and_true, true_and]
    omega
  unfold decodeWord
  rw [fields]
  simp only [hn]
/-- The field is zero in every body that decodes. -/
theorem mustBeZero_of_decodeControl {op lo n : Nat} (h8 : op < 256) (hlo : lo + n ≤ 53)
    (h : ∀ body, decodeControl op body ≠ none → body / 2 ^ lo % 2 ^ n = 0) : MustBeZero op lo n := by
  intro w hop hw
  refine decodeWord_of_decodeControl_none hop h8 (Classical.byContradiction fun hn => hw ?_)
  rw [← mod_two_pow_div_mod hlo]
  exact h _ hn
theorem eq_zero_of_z0 {zs : List Nat} {i : Instr} (h : z0 zs i ≠ none) : ∀ z ∈ zs, z = 0 := by
  by_cases hz : zs.all (· == 0) = true
  · simpa using hz
  · exact absurd (if_neg hz) h
/-- FN of a CI word that takes no FN. -/
theorem mustBeZero_fn_of_unCI {op : Nat} (h8 : op < 256) (i : Nat → Nat → Nat → Instr)
    (h : ∀ body, decodeControl op body = unCI body fun fn imm a d => z0 [fn] (i imm a d)) : MustBeZero op 0 9 := by
  refine mustBeZero_of_decodeControl h8 (by decide) fun body hb => ?_
  rw [h body] at hb
  simpa [unpackF] using eq_zero_of_z0 hb

end Sys2Proof.Proofs
end

section
/-! PROOFS. Branches, jumps, calls and returns (R178, R188, R238, R239). -/
namespace Sys2Proof.Proofs
open Sys2Proof.Machine Sys2Proof.Claims

-- ## Conditions and targets

theorem condHolds_of_branches {cond : Nat} {a b : Word} {c : Bool} (h : branches cond a b = some c) : condHolds cond a b = c := by
  unfold branches at h
  split at h
  · cases h; rfl
  · cases h; exact Bool.eq_iff_iff.2 (by simp [condHolds])
  · cases h; exact BitVec.slt_eq_decide
  · cases h; exact Bool.eq_iff_iff.2 (by simp [condHolds, BitVec.slt_eq_decide])
  · cases h; rfl
  · cases h; exact Bool.eq_iff_iff.2 (by simp [condHolds, BitVec.ult])
  · cases h
theorem branchTarget_37 (pc : Word) (off : Nat) : branchTarget pc 37 off = target37 pc off := by
  rw [branchTarget, sext_eq_signExtend 37 off (by decide)]; rfl
theorem branchTarget_47 (pc : Word) (off : Nat) : branchTarget pc 47 off = target47 pc off := by
  rw [branchTarget, sext_eq_signExtend 47 off (by decide)]; rfl
theorem checkTarget_misaligned {t : Word} (s : State) (h : t.toNat % 8 ≠ 0) : (checkTarget t).run s = .error (.trap cAlign 0) s := by
  simp [checkTarget, h]
theorem checkTarget_beyond {t : Word} (s : State) (ha : t.toNat % 8 = 0) (hp : 2 ^ 56 ≤ t.toNat) :
    (checkTarget t).run s = .error (.trap cPerm 0) s := by
  rw [checkTarget, run_bind, run_need, decide_eq_true ha, if_pos rfl]
  simp only [run_need, decide_eq_false (Nat.not_lt.2 hp)]
  rfl

-- ## A transfer to a target, with or without a link

/-- What every transfer does once its target is known: it checks the target, then links, then goes there. -/
def transferTo : Option Nat → Word → M (Option Word)
  | none, t => goto t
  | some d, t => linkTo d t

theorem transferTo_ok (link : Option Nat) {t : Word} (s : State) (ht : mayContinue t) :
    (transferTo link t).run s = .ok (some t) (linked s link) := by
  obtain ⟨ha, hp⟩ := ht
  cases link with
  | none => exact goto_ok t s ha hp
  | some d => simp [transferTo, linkTo, linked, checkTarget_passes t s ha hp]
theorem transferTo_stops (link : Option Nat) {t : Word} {s : State} {e : Stop} (h : (checkTarget t).run s = .error e s) :
    (transferTo link t).run s = .error e s := by
  cases link with
  | none => simp [transferTo, goto, h]
  | some d => simp [transferTo, linkTo, h]

/-- A taken branch is a transfer without a link. -/
theorem branchIf_taken (s : State) (off : Nat) {c : Bool} (hc : c = true) :
    (branchIf c 37 off).run s = (transferTo none (target37 s.pc off)).run s := by
  subst hc; rw [← branchTarget_37]; rfl
theorem branchIf_not_taken (s : State) (n off : Nat) {c : Bool} (hc : c = false) : (branchIf c n off).run s = next.run s := by
  subst hc; rfl
theorem ctl_congr (w : Where) (priv : Nat) (gs fs : List Nat) {x y : M (Option Word)} {s : State} (h : x.run s = y.run s) :
    ctl w priv gs fs x s = ctl w priv gs fs y s := by unfold ctl; rw [h]
/-- Each transfer of the table, its condition holding, is `transferTo` its target. -/
theorem exec_of_transferRule {s : State} {i : Instr} {t : Word} {fields : List Nat} {link : Option Nat}
    (h : transferRule s i = some (t, fields, link)) : exec i s = ctl .any 0 fields [] (transferTo link t) s := by
  unfold transferRule at h
  split at h
  · obtain ⟨hc, e⟩ := Option.ite_none_right_eq_some.1 h
    cases e
    exact (exec_b ..).trans <| ctl_congr _ _ _ _ (by simp only [run_bind, run_rg, branchIf_taken s _ (condHolds_of_branches hc)])
  · obtain ⟨hc, e⟩ := Option.ite_none_right_eq_some.1 h
    cases e
    exact (exec_bz ..).trans <| ctl_congr _ _ _ _ (by simp only [run_bind, run_rg, branchIf_taken s _ (condHolds_of_branches hc)])
  · cases h
    exact (exec_j ..).trans <| ctl_congr _ _ _ _ (by simp only [run_bind, run_rpc, branchTarget_47, transferTo])
  · cases h
    exact (exec_jal ..).trans <| ctl_congr _ _ _ _ (by simp only [run_bind, run_rpc, branchTarget_47, transferTo])
  · cases h
    exact (exec_jalr ..).trans <| ctl_congr _ _ _ _ (by simp only [run_bind, run_rg, imm32_eq_simm, transferTo])
  · cases h
    exact (exec_ret ..).trans <| ctl_congr _ _ _ _ (by simp only [run_bind, run_rg, transferTo])
  · cases h
theorem exec_of_notTaken {s : State} {i : Instr} {fields : List Nat} (h : notTaken s i = some fields) :
    exec i s = ctl .any 0 fields [] next s := by
  unfold notTaken at h
  split at h
  · obtain ⟨hc, e⟩ := Option.ite_none_right_eq_some.1 h
    cases e
    exact (exec_b ..).trans <| ctl_congr _ _ _ _ (by simp only [run_bind, run_rg, branchIf_not_taken s _ _ (condHolds_of_branches hc)])
  · obtain ⟨hc, e⟩ := Option.ite_none_right_eq_some.1 h
    cases e
    exact (exec_bz ..).trans <| ctl_congr _ _ _ _ (by simp only [run_bind, run_rg, branchIf_not_taken s _ _ (condHolds_of_branches hc)])
  · cases h

theorem unarmed_linked {s : State} (h : s.unarmed) (link : Option Nat) : (linked s link).unarmed := by
  cases link with
  | none => exact h
  | some d => exact unarmed_setG h _ _
/-- A precise cause that a word raises before it changes anything. -/
theorem ctl_raises {gs fs : List Nat} {body : M (Option Word)} {s : State} {c d : Nat} (hb : s.inBound gs fs)
    (hx : body.run s = .error (.trap c d) s) : ctl .any 0 gs fs body s = .next (s.raise c d) :=
  ctl_stops _ _ _ _ _ _ _ _ (passes_of_inBound hb) hx

-- ## Fields that must be zero

theorem bz_mustBeZero : MustBeZero 0x41 41 6 :=
  mustBeZero_of_decodeControl (by decide) (by decide) fun body h => by
    have hb : body / 2 ^ 37 / 2 ^ 4 % 2 ^ 6 = 0 := eq_zero_of_z0 h _ (List.mem_singleton.2 rfl)
    omega
theorem j_mustBeZero : MustBeZero 0x42 47 6 :=
  mustBeZero_of_decodeControl (by decide) (by decide) fun _ h => eq_zero_of_z0 h _ (List.mem_singleton.2 rfl)
theorem jalr_mustBeZero : MustBeZero 0x44 0 9 := mustBeZero_fn_of_unCI (by decide) (fun imm a d => .jalr d a imm) fun _ => rfl
theorem ret_fields {body : Nat} (h : decodeControl 0x45 body ≠ none) : body % 2 ^ 41 = 0 ∧ body / 2 ^ 47 % 2 ^ 6 = 0 := by
  have format : decodeControl 0x45 body =
    unCS body fun opt scp rg imm idx b a d => z0 [opt, scp, rg, imm, idx, b, d] (.ret a) := rfl
  rw [format] at h
  simp only [unCS, unpackF] at h
  split at h
  · have hz := eq_zero_of_z0 h
    simp only [List.forall_mem_cons, List.not_mem_nil, false_implies, implies_true, and_true] at hz
    omega
  · exact absurd rfl h
theorem ret_mustBeZero : MustBeZero 0x45 0 35 ∧ MustBeZero 0x45 35 6 ∧ MustBeZero 0x45 47 6 := by
  refine ⟨?_, ?_, ?_⟩
  all_goals
    refine mustBeZero_of_decodeControl (by decide) (by decide) fun body h => ?_
    have := ret_fields h
    omega

/-- Settles O6: every transfer is `transferTo` its target, which checks before it links. -/
theorem transfersGoToTheirTargets : Obligations.TransfersGoToTheirTargets := by
  refine ⟨⟨fun i s t fields link h ht hb hu => ?_, fun i s fields h hb hu => ?_⟩,
    fun i s t fields link h hb => ⟨fun ha => ?_, fun ha hp => ?_⟩, bz_mustBeZero, j_mustBeZero, jalr_mustBeZero, ret_mustBeZero⟩
  · exact completes_of_retire (unarmed_linked hu link)
      ((exec_of_transferRule h).trans (ctl_next _ _ _ _ _ _ _ _ (passes_of_inBound hb) (transferTo_ok link s ht)))
  · exact completes_of_retire hu ((exec_of_notTaken h).trans (ctl_next _ _ _ _ _ _ _ _ (passes_of_inBound hb) (run_next s)))
  · exact (exec_of_transferRule h).trans (ctl_raises hb (transferTo_stops link (checkTarget_misaligned s ha)))
  · exact (exec_of_transferRule h).trans (ctl_raises hb (transferTo_stops link (checkTarget_beyond s ha hp)))

end Sys2Proof.Proofs
end

section
/-! PROOFS. Indexed register moves (R259). -/
namespace Sys2Proof.Proofs
open Sys2Proof.Machine Sys2Proof.Claims

-- ## The register that an index names

theorem indexed_run (s : State) (a imm b : Nat) :
    (indexed a imm b).run s =
      if (indexOf s a imm).toInt < 0 ∨ (b : Int) ≤ (indexOf s a imm).toInt
        then .error (.trap cRegbound ((indexOf s a imm).toNat % 2 ^ 32)) s else .ok (indexOf s a imm).toNat s := by
  simp only [indexed, run_bind, run_rg, imm32_eq_simm, Bool.or_eq_true, decide_eq_true_eq]
  by_cases h : (indexOf s a imm).toInt < 0 ∨ (b : Int) ≤ (indexOf s a imm).toInt
  · rw [if_pos h]; unfold indexOf at h; rw [if_pos h]; rfl
  · rw [if_neg h]; unfold indexOf at h; rw [if_neg h]; rfl
theorem indexed_inside {s : State} {a imm b : Nat} (h : indexIn (indexOf s a imm) b) :
    (indexed a imm b).run s = .ok (indexOf s a imm).toNat s := by
  obtain ⟨h0, hb⟩ := h
  rw [indexed_run, if_neg (by omega)]
theorem indexed_outside {s : State} {a imm b : Nat} (h : ¬ indexIn (indexOf s a imm) b) :
    (indexed a imm b).run s = .error (.trap cRegbound ((indexOf s a imm).toNat % 2 ^ 32)) s := by
  unfold indexIn at h
  rw [indexed_run, if_pos (by omega)]

-- ## A move through it

/-- The body of an indexed move: the index is checked first, then `use` moves. -/
theorem ctl_indexed_inside {gs fs : List Nat} {a imm b : Nat} {use : Nat → M Unit} {s s1 : State} (hb : s.inBound gs fs)
    (h : indexIn (indexOf s a imm) b) (hm : (use (indexOf s a imm).toNat).run s = .ok () s1) (hpc : s1.pc = s.pc) :
    ctl .any 0 gs fs (do let x ← indexed a imm b; use x; next) s = .next (s1.retire (s.pc + 8)) :=
  ctl_next _ _ _ _ _ _ _ _ (passes_of_inBound hb) (by simp [indexed_inside h, hm, hpc])
theorem ctl_indexed_outside {gs fs : List Nat} {a imm b : Nat} {use : Nat → M Unit} {s : State} (hb : s.inBound gs fs)
    (h : ¬ indexIn (indexOf s a imm) b) :
    ctl .any 0 gs fs (do let x ← indexed a imm b; use x; next) s =
      .next (s.raise cRegbound ((indexOf s a imm).toNat % 2 ^ 32)) :=
  ctl_raises hb (by simp [indexed_outside h])

/-- The four moves, once the index is checked. -/
def moveRead (d : Nat) (x : Nat) : M Unit := do wg d (← rg x)
def moveWrite (d : Nat) (x : Nat) : M Unit := do wg x (← rg d)
def fmoveRead (d : Nat) (x : Nat) : M Unit := do wf d (← rf x)
def fmoveWrite (d : Nat) (x : Nat) : M Unit := do wf x (← rf d)

theorem exec_movxr_eq (d a imm : Nat) (s : State) : exec (.movxr d a imm) s =
    ctl .any 0 [d, a] [] (do let x ← indexed a imm s.here.regbnd; moveRead d x; next) s := ctl_congr _ _ _ _ (by simp [moveRead])
theorem exec_movxw_eq (d a imm : Nat) (s : State) : exec (.movxw d a imm) s =
    ctl .any 0 [d, a] [] (do let x ← indexed a imm s.here.regbnd; moveWrite d x; next) s := ctl_congr _ _ _ _ (by simp [moveWrite])
theorem exec_fmovxr_eq (d a imm : Nat) (s : State) : exec (.fmovxr d a imm) s =
    ctl .any 0 [a] [d] (do let x ← indexed a imm (s.here.regbnd / 2); fmoveRead d x; next) s := ctl_congr _ _ _ _ (by simp [fmoveRead])
theorem exec_fmovxw_eq (d a imm : Nat) (s : State) : exec (.fmovxw d a imm) s =
    ctl .any 0 [a] [d] (do let x ← indexed a imm (s.here.regbnd / 2); fmoveWrite d x; next) s := ctl_congr _ _ _ _ (by simp [fmoveWrite])

/-- Settles O23: the index is checked before anything is moved. -/
theorem indexedRegisterMoves : Obligations.IndexedRegisterMoves := by
  refine ⟨fun s d a imm hu => ⟨fun hb hx => ⟨?_, ?_⟩, fun hb hx => ⟨?_, ?_⟩, fun hb hx => ⟨?_, ?_⟩, fun hb hx => ⟨?_, ?_⟩⟩,
    ?_, ?_, ?_, ?_⟩
  · exact writesG_of_retire hu ((exec_movxr_eq ..).trans (ctl_indexed_inside hb hx rfl (State.pc_setG ..)))
  · exact writesG_of_retire hu ((exec_movxw_eq ..).trans (ctl_indexed_inside hb hx rfl (State.pc_setG ..)))
  · exact writesF_of_retire hu ((exec_fmovxr_eq ..).trans (ctl_indexed_inside hb hx rfl (State.pc_setF ..)))
  · exact writesF_of_retire hu ((exec_fmovxw_eq ..).trans (ctl_indexed_inside hb hx rfl (State.pc_setF ..)))
  · exact (exec_movxr_eq ..).trans (ctl_indexed_outside hb hx)
  · exact (exec_movxw_eq ..).trans (ctl_indexed_outside hb hx)
  · exact (exec_fmovxr_eq ..).trans (ctl_indexed_outside hb hx)
  · exact (exec_fmovxw_eq ..).trans (ctl_indexed_outside hb hx)
  · exact mustBeZero_fn_of_unCI (by decide) (fun imm a d => .movxr d a imm) fun _ => rfl
  · exact mustBeZero_fn_of_unCI (by decide) (fun imm a d => .movxw d a imm) fun _ => rfl
  · exact mustBeZero_fn_of_unCI (by decide) (fun imm a d => .fmovxr d a imm) fun _ => rfl
  · exact mustBeZero_fn_of_unCI (by decide) (fun imm a d => .fmovxw d a imm) fun _ => rfl

end Sys2Proof.Proofs
end
